-- ==== Sys2Proof/Word.lean ====
section
/-! DEFINITION. The word types of the machine and their plainest arithmetic. -/

namespace Sys2Proof

/-- A byte of memory. -/
abbrev Byte := BitVec 8

/-- A 16-bit value: a mask register, a handle. -/
abbrev Half := BitVec 16

/-- A 32-bit register. -/
abbrev Word := BitVec 32

/-- A 64-bit value: an address, a register pair, a system register. -/
abbrev DWord := BitVec 64

/-- An instruction word of 96 bits (R406). -/
abbrev InstrWord := BitVec 96

/-- The 128 bytes of a layout register (R100). -/
abbrev LayBits := BitVec 1024

/-- The 192 bytes of a tensor record (R163). -/
abbrev RecBits := BitVec 1536

/-- A set of lanes of a group, bit l for lane l. -/
abbrev Lanes := BitVec 16

/-- The field of `len` bits of `x` whose lowest bit is `lo` (R2). -/
abbrev fld {n : Nat} (x : BitVec n) (lo len : Nat) : BitVec len := x.extractLsb' lo len

/-- The field of `len` bits of `x` whose lowest bit is `lo`, as a number. -/
def fldN {n : Nat} (x : BitVec n) (lo len : Nat) : Nat := (x.extractLsb' lo len).toNat

/-- `len` ones. -/
abbrev ones (len : Nat) : BitVec len := BitVec.allOnes len

end Sys2Proof
end

