-- ==== Sys2Proof/Config.lean ====
section
/-! DEFINITION. What the manual leaves to the device or leaves open: opaque constants, of which no proof can see a value. -/

namespace Sys2Proof.Config

/-- Which of the enabled moves the package takes next (R7: the order of parties is open), applied to the draw counter. -/
opaque pick : Nat → Nat

/-- Nanoseconds that TIME advances in a step (R91, R564: no figure is given), applied to the draw counter. -/
opaque elapse : Nat → Nat

/-- Which of the permitted values an early reader receives (R72), applied to the draw counter. -/
opaque earlyRead : Nat → Nat

/-- Cycles that the manual leaves open: those that an instruction stalls in its slot beyond the first (R71), and those after which the result of a CWAIT or RFENCE that does not park is written (R74 states none); applied to the draw counter. -/
opaque openCycles : Nat → Nat

/-- A value that the manual leaves undefined, applied to the draw counter or to the operands it depends on. -/
opaque freeWord : Nat → Word

/-- The FP32 result of a transcendental whose correctly rounded value the model's enclosure does not decide, by opcode and operand bits. -/
opaque transcend : Nat → Word → Word

/-- The bytes of a context save area whose layout R382 leaves open, applied to the draw counter and the offset. -/
opaque saveByte : Nat → Nat → Byte

/-- What the mailbox holds as the report of a refused image, whose form R401 leaves open, applied to the draw counter. -/
opaque bootFailure : Nat → List Byte

/-- Part serial number (R402). -/
opaque serial : BitVec 256

/-- Signature of a report by the device identity key, by the report's bytes (R402). -/
opaque signature : List Byte → BitVec 4096

/-- Module of an edge that carries the requests of a source to a destination (R392: a fixed hash). -/
opaque moduleHash : Nat → Nat → Nat

end Sys2Proof.Config
end

