-- ==== Sys2Proof/Syntax/Fields.lean ====
section
/-! DEFINITION. The fields of instruction words and of the machine's events, decoded once. -/

namespace Sys2Proof

/-- A 12-bit field of a word, read as a source (R412) or as a plain index (R414). -/
inductive Src where
  | v (i : BitVec 8)
  | s (i : BitVec 10)
  | x (n : BitVec 3)
  | sp (k : BitVec 3)
  | imm (k : BitVec 10)
  | idx (i : BitVec 12)
  deriving DecidableEq, Repr

/-- An 11-bit destination field (R413), or a plain index in its place (R414). -/
inductive Dst where
  | v (i : BitVec 8)
  | s (i : BitVec 10)
  | idx (i : BitVec 11)
  deriving DecidableEq, Repr

/-- The header fields beside OP and FN (R410). -/
structure Hdr where
  runEnd : Bool
  noWrite : Bool
  guard : BitVec 4
  deriving DecidableEq, Repr

/-- A word of format R or I (R416, R417); `imm` and `isImm` hold the I form's immediate. -/
structure RIWord where
  hdr : Hdr
  isImm : Bool
  var : BitVec 7
  d : Dst
  a : Src
  b : Src
  c : Src
  imm : Word
  t : BitVec 5
  rm : BitVec 2
  sat : Bool
  ftz : Bool
  t2 : BitVec 5
  xf : BitVec 13
  deriving DecidableEq, Repr

/-- The operand in a B field of format M: a source, a side descriptor, or nothing. -/
structure Side where
  sel : BitVec 2
  num : BitVec 5
  lay : BitVec 4
  deriving DecidableEq, Repr

/-- A word of format M (R419); `op` is FN bits 6:2. -/
structure MWord where
  hdr : Hdr
  op : BitVec 5
  space : BitVec 2
  d : Dst
  a : Src
  b : Src
  c : Src
  t : BitVec 5
  ord : BitVec 2
  scope : BitVec 3
  prm : Bool
  wide : Bool
  off : BitVec 15
  deriving DecidableEq, Repr

/-- A 9-bit suffix operand of format E (R420). -/
inductive Sfx where
  | s (i : BitVec 8)
  | imm (k : BitVec 8)
  deriving DecidableEq, Repr

/-- A word of format E (R420): sides, index layout, dimension, suffix flags and the five suffix fields. -/
structure EWord where
  hdr : Hdr
  stg : Bool
  tdec : Bool
  sts : Bool
  ver : Bool
  dside : Side
  sside : Side
  xl : BitVec 4
  dim : BitVec 3
  p0 : Sfx
  p1 : Sfx
  p2 : Sfx
  p3 : Sfx
  p4 : Sfx
  deriving DecidableEq, Repr

/-- A word of format Q (R422). -/
structure QWord where
  hdr : Hdr
  tq : Bool
  tile : BitVec 6
  x : Side
  y : Side
  z : Side
  ta : BitVec 5
  tb : BitVec 5
  tc : BitVec 5
  zc : Bool
  tr : Bool
  cnt : BitVec 6
  deriving DecidableEq, Repr

/-- One record of a Siesque data frame (R338): a run of bytes, or Q8 blocks. -/
structure FrameRec where
  txWin : Nat
  rxWin : Nat
  offset : Nat
  len : Nat
  q8 : Bool
  data : List Byte
  deriving DecidableEq, Repr

/-- A Siesque frame (R338), its body decrypted: its session and the package at the other end; `tagOk` says that its GCM tag verifies, `checkOk` that the check words of the lines it lands from do. -/
structure Frame where
  session : Nat
  peer : Nat
  kind : Nat
  path : Nat
  seq : DWord
  ack : DWord
  tagOk : Bool
  checkOk : Bool
  records : List FrameRec
  deriving DecidableEq, Repr

/-- An address of IPv4 or IPv6 (R337). -/
inductive IpAddr where
  | v4 (a : BitVec 32)
  | v6 (a : BitVec 128)
  deriving DecidableEq, Repr

/-- What system software sets for a peer package (R337, R395): the Ethernet port that it is bound to, its link address and 802.1Q tag, its IP address with the two UDP ports, or none for raw frames of EtherType 0x88B5, the route's next hop, and the maximum payload. -/
structure PeerNet where
  port : Nat
  mac : BitVec 48
  vlan : Option (BitVec 12)
  ip : Option IpAddr
  srcPort : BitVec 16
  dstPort : BitVec 16
  hop : Option IpAddr
  payload : Nat
  deriving DecidableEq, Repr

/-- What system software has set for a peer and a session since the last exchange: the peer's settings, and the SHA-512 digests of the identity keys that the session accepts (R337, R340). -/
structure PeerSetup where
  net : PeerNet
  digests : List (BitVec 512)
  deriving DecidableEq, Repr

/-- A handshake with a peer (R335, R340): what system software has set for it before, the digest of the peer's identity key, whether the signed exchange verifies, and what the peer shows. -/
structure PeerShow where
  setup : Option PeerSetup
  session : Nat
  key : BitVec 512
  signed : Bool
  window : Nat
  peer : Nat
  peerWindow : Nat
  mode : Nat
  size : Nat
  listsUs : Bool
  deriving DecidableEq, Repr

/-- A firmware image in the boot flash (R400 to R402): whether its signature verifies, its security version, its measurement, and whether its debug policy enables FREEZE. -/
structure Image where
  sigOk : Bool
  svn : Nat
  meas : BitVec 512
  debug : Bool
  deriving DecidableEq, Repr

/-- A kind of Ethernet frame that is not Siesque's (R395). -/
inductive EthKind where
  | arp
  | ndisc
  | icmpEcho
  | other
  deriving DecidableEq, Repr

/-- What the retraining of a die-link module finds (R393). -/
inductive TrainResult where
  | full
  | halfLow
  | halfHigh
  | down
  deriving DecidableEq, Repr

end Sys2Proof
end

