-- ==== Sys2Proof/Syntax.lean ====
section
/-! DEFINITION. The instructions and events of the opcode table, one constructor per row. -/

namespace Sys2Proof

/-- Every row of the opcode table: the instructions a word encodes, and the events of the machine (95 lists what each event holds). -/
inductive Instr where
  /-- NOP (R433). Does nothing and counts towards the 24 instructions of a run. -/
  | nop (runEnd : Bool)
  /-- BRA (R460). Branches, possibly under a guard, to a label target; lanes whose guard is true take the target and the run ends. -/
  | bra (w : RIWord)
  /-- JMP (R501). Jumps to an absolute target held in a V or S register pair, one target per lane or per group. -/
  | jmp (w : RIWord)
  /-- CALL (R460). Label form: writes the return address to a register pair and branches to the label. -/
  | call (w : RIWord)
  /-- CALL_REG (R460). Register form: writes the return address and branches to the absolute target held in a register pair. -/
  | callReg (w : RIWord)
  /-- RET (R542). Returns to an address held in a register pair; it acts exactly as JMP. -/
  | ret (w : RIWord)
  /-- EXIT (R480). Retires the executing lanes, which leave every meeting and mask; for the last lanes it first waits for the operand log. -/
  | exit (w : RIWord)
  /-- TRAP (R553). Takes cause 0x08 with the immediate code in EADDR; resume is after the TRAP. -/
  | trap (w : RIWord)
  /-- BRK (R463). Takes breakpoint cause 0x09 with the code in EADDR; resume is after the BRK. -/
  | brk (w : RIWord)
  /-- JOIN (R503). Sets the bits of the executing lanes in mask register Mx and reruns the mask release test. -/
  | join (w : RIWord)
  /-- LEAVE (R503). Clears the bits of the executing lanes in mask register Mx and reruns the mask release test. -/
  | leave (w : RIWord)
  /-- WAIT (R53). Holds the lanes enrolled in Mx until every enrolled lane is held at WAIT Mx, then releases them and zeroes Mx. -/
  | wait (w : RIWord)
  /-- MEET (R518). Label form: writes a meeting address into the MEET register of each executing lane. -/
  | meet (w : RIWord)
  /-- MEET_REG (R518). Register form: writes a per-lane meeting address taken from a register pair. -/
  | meetReg (w : RIWord)
  /-- MEET_CLR (R518). Clears the MEET register of each executing lane. -/
  | meetClr (w : RIWord)
  /-- MSKOP_MOV (R503). Sets Mx to the low 16 bits of a uniform operand, limited to the live lanes. -/
  | mskopMov (w : RIWord)
  /-- MSKOP_AND (R503). ANDs Mx with a uniform operand. -/
  | mskopAnd (w : RIWord)
  /-- MSKOP_OR (R503). ORs Mx with a uniform operand, limited to the live lanes. -/
  | mskopOr (w : RIWord)
  /-- MSKOP_XOR (R503). XORs Mx with a uniform operand, limited to the live lanes. -/
  | mskopXor (w : RIWord)
  /-- MSKOP_ANDN (R503). Clears from Mx the bits set in a uniform operand. -/
  | mskopAndn (w : RIWord)
  /-- MSKOP_RD (R503). Reads Mx, zero-extended, into a V or S register. -/
  | mskopRd (w : RIWord)
  /-- GRAFT (R307). Label form: branches within the bed, or packs the group into a message, places it for the target bed and frees the slot. -/
  | graft (w : RIWord)
  /-- GRAFT_REG (R307). Register form: the same as GRAFT, with the target address taken from an even S register pair. -/
  | graftReg (w : RIWord)
  /-- MIGR (R39). Moves the whole group to another core of its team: it drains, writes back private lines, packs and places a message, and frees the slot. -/
  | migr (w : RIWord)
  /-- IADD (R498). Integer add, wrapping or saturating. -/
  | iadd (w : RIWord)
  /-- ISUB (R498). Integer subtract, wrapping or saturating. -/
  | isub (w : RIWord)
  /-- IMUL (R498). Integer multiply: the low half of the product, or the high half with .hi. -/
  | imul (w : RIWord)
  /-- IMAD (R498). Integer multiply-add a * b + c, wrapping or saturating. -/
  | imad (w : RIWord)
  /-- IMIN (R498). Integer minimum, signed or unsigned according to T. -/
  | imin (w : RIWord)
  /-- IMAX (R498). Integer maximum, signed or unsigned according to T. -/
  | imax (w : RIWord)
  /-- IABS (R498). Integer absolute value, wrapping or saturating. -/
  | iabs (w : RIWord)
  /-- ICMP (R498). Integer compare under a relation, written as 1 or 0 to a register or to a predicate. -/
  | icmp (w : RIWord)
  /-- AND (R450). Bitwise AND. -/
  | and (w : RIWord)
  /-- OR (R532). Bitwise OR. -/
  | or (w : RIWord)
  /-- XOR (R532). Bitwise XOR. -/
  | xor (w : RIWord)
  /-- SHL (R533). Shift left; a shift count of w or more gives 0. -/
  | shl (w : RIWord)
  /-- SHR (R533). Logical shift right, zero-filled. -/
  | shr (w : RIWord)
  /-- SHR_A (R533). Arithmetic shift right, filled with the sign bit; I types only. -/
  | shrA (w : RIWord)
  /-- BFE (R450). Extracts a bit field and sign- or zero-extends it. -/
  | bfe (w : RIWord)
  /-- BFI (R450). Inserts a bit field into a base value. -/
  | bfi (w : RIWord)
  /-- POPC (R533). Counts the set bits of its source. -/
  | popc (w : RIWord)
  /-- CLZ (R450). Counts the leading zero bits of its source. -/
  | clz (w : RIWord)
  /-- BREV (R450). Reverses the bit order of its source. -/
  | brev (w : RIWord)
  /-- MOV (R524). Copies the bits of its source to the destination. -/
  | mov (w : RIWord)
  /-- MOVI (R524). Places a 32-bit immediate under the narrowing rules of R140; in the stream it writes a Q register. -/
  | movi (w : RIWord)
  /-- SEL (R535). Writes a or b per lane, with the guard as the selector. -/
  | sel (w : RIWord)
  /-- ADDR (R450). Adds a scaled, extended index to a 64-bit base held in a register pair. -/
  | addr (w : RIWord)
  /-- PLOP (R534). Computes a predicate from three predicates through an 8-entry lookup table. -/
  | plop (w : RIWord)
  /-- FADD (R483). Float add, rounded once. -/
  | fadd (w : RIWord)
  /-- FMUL (R483). Float multiply, rounded once. -/
  | fmul (w : RIWord)
  /-- FMA (R483). Fused multiply-add a * b + c, rounded once. -/
  | fma (w : RIWord)
  /-- FMIN (R483). Float minimum under the NaN and signed-zero rules of R148. -/
  | fmin (w : RIWord)
  /-- FMAX (R483). Float maximum under the NaN and signed-zero rules of R148. -/
  | fmax (w : RIWord)
  /-- FCMP (R485). Float compare under a relation, written to a register or to a predicate. -/
  | fcmp (w : RIWord)
  /-- FCLASS (R486). Writes a one-hot mask that gives the class of a float value. -/
  | fclass (w : RIWord)
  /-- FRCP (R488). Reciprocal, correctly rounded under RM. -/
  | frcp (w : RIWord)
  /-- FRSQ (R488). Reciprocal square root, faithful. -/
  | frsq (w : RIWord)
  /-- FSQRT (R488). Square root, correctly rounded under RM. -/
  | fsqrt (w : RIWord)
  /-- FEXP (R488). Computes 2^a, faithful. -/
  | fexp (w : RIWord)
  /-- FLOG (R488). Computes log2 a, faithful. -/
  | flog (w : RIWord)
  /-- FTANH (R488). Computes tanh a, faithful. -/
  | ftanh (w : RIWord)
  /-- CVT (R470). Converts a value between types under R154 and R155. -/
  | cvt (w : RIWord)
  /-- PACK (R537). Packs two narrow elements into slots 2h and 2h+1 of a base register. -/
  | pack (w : RIWord)
  /-- UNPK (R537). Unpacks slot h of a register into a full register. -/
  | unpk (w : RIWord)
  /-- SHFL (R539). Exchanges values across lanes by index, up, down or xor. -/
  | shfl (w : RIWord)
  /-- VOTE (R539). Computes all, any, ballot or uniformity of a predicate over the executing lanes. -/
  | vote (w : RIWord)
  /-- REDX (R540). Reduces the values of the 16 lanes in a fixed tree. -/
  | redx (w : RIWord)
  /-- PRFX (R540). Computes an inclusive or exclusive prefix over the lanes in a fixed tree. -/
  | prfx (w : RIWord)
  /-- MATCH (R517). Writes the masks of executing lanes with equal values (any), or the all-equal mask (all). -/
  | matchLanes (w : RIWord)
  /-- LD (R511). Loads one element per lane, or one per group into an S register, from a space. -/
  | ld (w : MWord)
  /-- LDV (R372). Loads global data as it stood at the start of a given step, following the undo entries. -/
  | ldv (w : MWord)
  /-- LDT (R515). Loads a tile through a layout into consecutive V registers. -/
  | ldt (w : MWord)
  /-- ST (R544). Stores one element per active lane to a space. -/
  | st (w : MWord)
  /-- STT (R544). Stores a tile from consecutive V registers through a layout. -/
  | stt (w : MWord)
  /-- SWLD (R291). Loads stamped words and returns their decayed FP32 values. -/
  | swld (w : MWord)
  /-- SWLD_RAW (R291). Loads stamped words unchanged into a register pair. -/
  | swldRaw (w : MWord)
  /-- ATOM_ADD (R444). Atomic integer add that returns the old value. -/
  | atomAdd (w : MWord)
  /-- ATOM_MIN (R444). Atomic integer minimum that returns the old value. -/
  | atomMin (w : MWord)
  /-- ATOM_MAX (R444). Atomic integer maximum that returns the old value. -/
  | atomMax (w : MWord)
  /-- ATOM_AND (R444). Atomic AND that returns the old value. -/
  | atomAnd (w : MWord)
  /-- ATOM_OR (R444). Atomic OR that returns the old value. -/
  | atomOr (w : MWord)
  /-- ATOM_XOR (R444). Atomic XOR that returns the old value. -/
  | atomXor (w : MWord)
  /-- ATOM_EXCH (R444). Atomic exchange that returns the old value. -/
  | atomExch (w : MWord)
  /-- ATOMF (R444). Atomic float add, minimum or maximum that returns the old value. -/
  | atomf (w : MWord)
  /-- ACAS (R444). Atomic compare-and-swap that returns the old value. -/
  | acas (w : MWord)
  /-- RED (R541). Atomic reduction at memory that returns nothing and never waits for a reply. -/
  | red (w : MWord)
  /-- SWADD (R294). Atomically decays a stamped word, adds an addend, restamps it and returns the old word. -/
  | swadd (w : MWord)
  /-- ENQ (R282). Atomically enqueues an element on a ring control block and returns a status. -/
  | enq (w : MWord)
  /-- DEQ (R282). Atomically dequeues an element from a ring control block and returns a status. -/
  | deq (w : MWord)
  /-- FENCE (R490). Acquire and/or release fence at a scope; it parks for the release work and the operand log. -/
  | fence (w : RIWord)
  /-- RFENCE (R336). Releases at PKG scope, flushes partial Q8 blocks and holds until sent reaches captured, then returns the mask of lost destinations. -/
  | rfence (w : RIWord)
  /-- CWAIT (R473). Holds the group until a window counter reaches a value, the named member is lost, or a timeout expires. -/
  | cwait (w : RIWord)
  /-- WCNT (R336). Reads the executing die's copy of a window counter or live mask. -/
  | wcnt (w : RIWord)
  /-- BAR (R59). Records an arrival at a named barrier with a count and holds the party until its generation completes. -/
  | bar (w : RIWord)
  /-- STGWAIT_EMPTY (R64). Holds until a stage is empty with no copy pending. -/
  | stgwaitEmpty (w : RIWord)
  /-- STGWAIT_FULL (R64). Holds until a stage is full. -/
  | stgwaitFull (w : RIWord)
  /-- STGFREE (R64). Returns a full stage to empty as a release at CLU scope. -/
  | stgfree (w : RIWord)
  /-- LSET (R112). Loads a layout register from 32 S or Q registers. -/
  | lset (w : RIWord)
  /-- LMODE (R113). Replaces or appends one mode, an origin, or ESZ and KIND in a layout. -/
  | lmode (w : RIWord)
  /-- LCHAIN (R116). Composes two layouts. -/
  | lchain (w : RIWord)
  /-- LPART (R117). Selects tile n of a layout divided by a tiler. -/
  | lpart (w : RIWord)
  /-- LTRANS (R118). Permutes the top-level dimensions of a layout. -/
  | ltrans (w : RIWord)
  /-- LFLAT (R119). Merges two adjacent modes of a layout. -/
  | lflat (w : RIWord)
  /-- LFLAT_ALL (R119). Merges every mode of a layout into one mode, or traps. -/
  | lflatAll (w : RIWord)
  /-- LSWZ (R114). Sets the bank-permuting function of a layout. -/
  | lswz (w : RIWord)
  /-- LCHK (R131). Classifies a layout against an engine table and writes LST. -/
  | lchk (w : RIWord)
  /-- LBCD (R137). Computes the bank-conflict degree of a layout and writes BCD. -/
  | lbcd (w : RIWord)
  /-- LGET (R115). Reads one field of a layout into an S register. -/
  | lget (w : RIWord)
  /-- HBIND (R494). Binds a handle register to a handle and starts a record fill if the record is absent. -/
  | hbind (w : RIWord)
  /-- HFLUSH (R495). Invalidates a handle's record in the record caches within a scope, after the release work. -/
  | hflush (w : RIWord)
  /-- HINFO (R496). Reads one 32-bit word of a handle's cached record. -/
  | hinfo (w : RIWord)
  /-- OBRES (R175). Reserves and zeroes an operand-buffer range. -/
  | obres (w : RIWord)
  /-- OBREL (R176). Marks an operand-buffer range releasing until the commands that name it have completed. -/
  | obrel (w : RIWord)
  /-- CPY (R244). Issues a copy command from a source side to a destination side through layouts. -/
  | cpy (w : EWord)
  /-- CPYG_GTH (R247). Issues a gather copy of rows through an index vector. -/
  | cpygGth (w : EWord)
  /-- CPYG_SCT (R247). Issues a scatter copy of rows through an index vector. -/
  | cpygSct (w : EWord)
  /-- CPYZ (R249). Issues a copy that decodes a compressed record tensor. -/
  | cpyz (w : EWord)
  /-- CPYF (R466). Issues a command that fills every element of a destination with a value. -/
  | cpyf (w : EWord)
  /-- COPY_START (R253). The engine begins executing the next queued command, after the previous command's writes. -/
  | copyStart (core : Nat)
  /-- COPY_COMPLETION (R254). Performs the last write, ends ownership, writes the status and performs the stage event and task decrement as one release. -/
  | copyCompletion (core : Nat)
  /-- MMA (R522). Matrix multiply-accumulate into an accumulator tile. -/
  | mma (w : QWord)
  /-- MMAB (R158). Matrix multiply-accumulate with E8M0 block scales. -/
  | mmab (w : QWord)
  /-- MMAT (R193). Ternary-by-INT8 matrix accumulate on the sign-select arrays. -/
  | mmat (w : QWord)
  /-- ACLR (R448). Zeroes n consecutive accumulator tiles. -/
  | aclr (w : QWord)
  /-- ADRN (R198). Drains a tile to one or two destinations with optional scales and quantisation. -/
  | adrn (w : QWord)
  /-- MATRIX_INSTRUCTION_START (R184). A waiting matrix instruction starts in its unit once the unit and the tile ordering allow it. -/
  | matrixInstructionStart (t j : Nat) (drain : Bool)
  /-- MATRIX_COMMIT (R191). A multiplier instruction commits all its element updates at once. -/
  | matrixCommit (t j : Nat)
  /-- ADRN_COMPLETION (R200). The drain completes its last output write, applies .clr and writes BCDM. -/
  | adrnCompletion (t j : Nat)
  /-- AXFR_RD (R195). Reads one tile row into four V registers. -/
  | axfrRd (w : RIWord)
  /-- AXFR_WR (R195). Writes one tile row from four V registers. -/
  | axfrWr (w : RIWord)
  /-- MLOOP (R186). Decrements a Q register and jumps while it is non-zero. -/
  | mloop (w : RIWord)
  /-- MJMP (R186). Jumps within the matrix stream. -/
  | mjmp (w : RIWord)
  /-- MEND (R186). Ends the stream once every matrix instruction it issued has completed. -/
  | mend (w : RIWord)
  /-- TLAUNCH (R353). Submits a launch record from a program and returns whether it was admitted, refused or blocked. -/
  | tlaunch (w : RIWord)
  /-- TDEC (R352). Releases at PKG scope and sends one decrement of a task's dependence counter. -/
  | tdec (w : RIWord)
  /-- STEPADV (R285). Releases at PKG scope, then advances GSTEP by one or is refused. -/
  | stepadv (w : RIWord)
  /-- STEPRD (R286). Reads GSTEP into an S register pair. -/
  | steprd (w : RIWord)
  /-- SWFOLD (R292). Folds a stamped word in registers to the current step. -/
  | swfold (w : RIWord)
  /-- SWMRG (R293). Merges two stamped words lane by lane. -/
  | swmrg (w : RIWord)
  /-- NMLD (R362). A slice thread loads a 256-byte row into four V registers. -/
  | nmld (w : MWord)
  /-- NMST (R364). A slice thread stores a 256-byte row as one indivisible step. -/
  | nmst (w : MWord)
  /-- NMLOG (R367). Appends an undo entry for a row of a logged region for the task's step. -/
  | nmlog (w : MWord)
  /-- NMCOMMIT (R369). Drops the undo entries of steps up to s and zeroes the matching tags. -/
  | nmcommit (w : RIWord)
  /-- NMABORT (R370). Aborts the steps from s onwards, restoring the logged rows. -/
  | nmabort (w : RIWord)
  /-- SYSRD (R551). Reads a system register into S registers. -/
  | sysrd (w : RIWord)
  /-- SYSWR (R551). Writes a system register that has no behaviour of its own (LST, BCD, BCDM, EPC). -/
  | syswr (w : RIWord)
  /-- SYSWR_GSTEP (R299). A privileged write of GSTEP; it releases at PKG scope, updates every copy and starts a sweep. -/
  | syswrGstep (w : RIWord)
  /-- SYSWR_FACTBASE (R288). Sets the factor-table address and ASN and discards the executors' table copies. -/
  | syswrFactbase (w : RIWord)
  /-- SYSWR_RECBASE (R99). Sets the team's record base on every team core without flushing record caches. -/
  | syswrRecbase (w : RIWord)
  /-- SYSWR_TRAPVEC (R99). Sets the team's trap vector on every team core. -/
  | syswrTrapvec (w : RIWord)
  /-- SYSWR_TRNX_ASAT (R95). A write of 0 clears the sticky TRNX or ASAT flag; a write of 1 leaves it. -/
  | syswrTrnxAsat (w : RIWord)
  /-- SYSWR_ARR (R316). A privileged write sets the arrival count of the core's bed on every cutting. -/
  | syswrArr (w : RIWord)
  /-- TRET (R379). Waits for outstanding accesses, restores the lanes and latches from the trap frame and leaves the handler. -/
  | tret (w : RIWord)
  /-- RUN_ISSUE (R83). The quadrant gives its free issue slot to a ready group chosen by wait count and priority. -/
  | runIssue (t g : Nat)
  /-- GROUP_RESUME (R81). A parked group becomes ready once its wait ends, and resumes with a new run. -/
  | groupResume (t g : Nat)
  /-- OPERAND_LOG_REPLAY (R242). Performs a logged access for its masked lanes after residency service and frees the entry. -/
  | operandLogReplay (t g : Nat)
  /-- RESIDENCY_FAULT_SERVICE (R235). The MMP splits a large page if needed, allocates a frame, copies the page, rewrites the leaf and replays the waiters. -/
  | residencyFaultService (die idx : Nat)
  /-- PAGE_MOVE (R239). Holds the lines of a page, copies it, writes the new leaf, shoots down and releases the held accesses. -/
  | pageMove (asn : Nat) (va : DWord) (die : Nat)
  /-- HOST_PAGE_DEADLINE (R236). Expiry of the host's deadline for a host-backed page makes the service fail. -/
  | hostPageDeadline (slot : Nat)
  /-- PAGE_RESPONSE (R389). The host's write of a response word reports a page written or refused. -/
  | pageResponse (slot : Nat) (resp : Word)
  /-- APERTURE_WRITE (R389). A host write into a page-aperture slot; a write after the response is dropped and counted. -/
  | apertureWrite (slot off : Nat) (data : List Byte)
  /-- RECORD_FILL (R168). Reads a tensor record's three lines, checks its CRC and well-formedness, and keeps or rejects the entry. -/
  | recordFill (core asn : Nat) (addr : DWord)
  /-- STORE_PERFORM (R267). A store queue entry is performed at its slice and its completion is signalled back. -/
  | storePerform (core idx : Nat)
  /-- ATOMIC_SERVICE_REQUEST (R276). The atomic service group performs one lane's queued atomic and fills the requester's return slot. -/
  | atomicServiceRequest (cluster : Nat)
  /-- DATA_FRAME (R331). A received Siesque data frame is verified, ordered by SEQ and its records landed in the RX windows. -/
  | dataFrame (f : Frame)
  /-- ACKNOWLEDGEMENT (R339). A received acknowledgement frees acknowledged frames and advances the sent counter. -/
  | acknowledgement (f : Frame)
  /-- KEEPALIVE (R339). Sends a keepalive every DEADLINE/4 on an idle direction. -/
  | keepalive (session : Nat)
  /-- FRAME_RESEND (R339). Resends a frame that has gone unacknowledged for at least 20 µs. -/
  | frameResend (session : Nat) (seq : DWord)
  /-- HANDSHAKE (R340). The link security units run an ECDH exchange with signed identity keys and derive each direction's key. -/
  | handshake (p : PeerShow)
  /-- REKEY (R340). Rekeys a direction by a fresh exchange before its 2^31-th frame under one key. -/
  | rekey (session : Nat)
  /-- PEER_LOST (R335). A peer silent for DEADLINE µs is lost; its live bit clears and sent advances without it. -/
  | peerLost (win : Nat) (member : Bool) (idx : Nat)
  /-- CWAIT_TIMEOUT (R473). Expiry of a CWAIT timeout returns 1. -/
  | cwaitTimeout (t g : Nat)
  /-- ETHERNET_FRAME (R395). The management processor answers ARP, neighbour discovery and ICMP echo, and drops other frames. -/
  | ethernetFrame (port : Nat) (kind : EthKind)
  /-- WINDOW_MAP (R322). System software maps a window through its home-die MMP, which checks and installs the entry. -/
  | windowMap (die : Nat) (entry : BitVec 4608)
  /-- WINDOW_UNMAP (R324). Unmaps a window and marks its granules unmapped with a shootdown. -/
  | windowUnmap (win : Nat)
  /-- BIND_WINDOW_COUNTER (R349). Binds a window counter value to a task id through the MMP. -/
  | bindWindowCounter (win sel : Nat) (n : DWord) (task : Nat)
  /-- REGISTER_STAMPED_REGION (R295). Registers a stamped region on every die that holds one of its pages. -/
  | registerStampedRegion (asn : Nat) (base : DWord) (len : Nat)
  /-- REGISTER_LOGGED_REGION (R365). Registers a logged region, allocates its tag array and marks its pages logged. -/
  | registerLoggedRegion (die asn : Nat) (base : DWord) (len : Nat)
  /-- UNDO_AREA_SIZE (R366). System software sizes a slice's undo area through the MMP. -/
  | undoAreaSize (slice size : Nat)
  /-- PRUNE_SWEEP (R296). When GSTEP reaches a multiple of 8192, the slice units fold the old stamped words of the registered regions. -/
  | pruneSweep (slice : Nat)
  /-- ADD_CUTTING (R317). The MMP pins a bed on an idle core and publishes the updated bed map entry. -/
  | addCutting (t bed core : Nat)
  /-- MESSAGE_INSTALLATION (R311). A core installs the waiting message with the lowest SEQ once a slot and registers are free. -/
  | messageInstallation (t j : Nat)
  /-- QUEUE_DESCRIPTOR_WRITE (R341). System software writes a work-queue descriptor through the management processor. -/
  | queueDescriptorWrite (q : Nat) (desc : BitVec 512)
  /-- DOORBELL (R342). A host doorbell write sets a queue's record count, or stops the queue with ERR. -/
  | doorbell (port q : Nat) (count : Word)
  /-- ADMISSION (R347). A fetched launch record is checked and entered in the task table, or refused. -/
  | admission (q : Nat)
  /-- TASK_DECREMENT (R346). Applies one decrement to a task-table entry, which may make it READY. -/
  | taskDecrement
  /-- PLACEMENT (R354). The placer puts the next team of a READY task on the cores of a fitting cluster. -/
  | placement (task : Nat)
  /-- GANG_AGING (R355). A gang that has waited 50 µs ages and has a cluster's resources reserved for it. -/
  | gangAging (task : Nat)
  /-- TRANSFORM_BINDING (R257). The copy engine executes a placed share's prologue bindings into team space. -/
  | transformBinding (t j : Nat)
  /-- TEAM_START (R33). Starts every share of a team at once when all are resident and bound. -/
  | teamStart (t : Nat)
  /-- GROUP_RETIRE (R35). A group whose lanes have all exited and whose accesses are done returns its slot and registers. -/
  | groupRetire (t g : Nat)
  /-- SHARE_RETIRE (R36). A team share retires once its groups, stream and copies are done, and releases its resources. -/
  | shareRetire (t j : Nat)
  /-- TASK_COMPLETION (R350). Writes the done record, decrements SUCC on success and frees the task-table entry. -/
  | taskCompletion (task : Nat)
  /-- TASK_KILL (R346). System software kills a task; a WAITING entry frees and completes with STATUS 3. -/
  | taskKill (task : Nat)
  /-- KILL (R380). Removes every group, sequencer and command of a team and releases its shares. -/
  | kill (t : Nat) (cause : Byte)
  /-- PREEMPTION_REQUEST (R86). Halts every group and sequencer of the package within 350 cycles. -/
  | preemptionRequest (victims : List Nat)
  /-- CONTEXT_SAVE (R381). The save engine drains and writes the context save area of each victim and releases its shares. -/
  | contextSave (t : Nat)
  /-- CONTEXT_RESTORE (R384). Verifies the save area, places every share whole, re-issues copies and starts every group at once. -/
  | contextRestore (idx : Nat)
  /-- ASYNC_CAUSE_DELIVERY (R375). An asynchronous cause reaches a group and is taken at its next instruction boundary. -/
  | asyncCauseDelivery (t g : Nat)
  /-- MATRIX_ENGINE_RESET (R202). After 2^20 cycles without progress, the engine resets, zeroes the team's tiles and ranges and sends cause 0x40. -/
  | matrixEngineReset (core : Nat)
  /-- FLIT_RECEIVE (R391). A die-link receiver accepts the next flit in order, or discards it and sends a negative acknowledgement. `link` is twice the edge, and one more for its direction back. -/
  | flitReceive (link module seq : Nat) (crcOk : Bool)
  /-- FLIT_REPLAY (R391). On a negative acknowledgement, the sender resends from the flit after the last good one. `link` is twice the edge, and one more for its direction back. -/
  | flitReplay (link module lastGood : Nat)
  /-- RETRAIN (R393). A module retrains after eight CRC failures in 1 µs or a sideband lane fault, and returns at full or half width, or goes down. -/
  | retrain (edge module : Nat) (found : TrainResult)
  /-- ATTESTATION_REQUEST (R402). The management processor returns a signed attestation report through the mailbox and raises vector 2. -/
  | attestationRequest (nonce : BitVec 256)
  /-- FREEZE (R400). Stops every clock within 8 cycles for scan; only a reset ends it. -/
  | freeze
  /-- POWER_ON_RESET (R404). Runs the bring-up sequence, from firmware verification to enabling the host BARs. -/
  | powerOnReset (images : List Image)
  /-- CLOCK_GATED_IDLE (R403). A core with no work enters clock-gated idle and wakes within 2 µs when chosen. -/
  | clockGatedIdle (core : Nat)
  /-- KEEPALIVE_RECEIPT (R335). A keepalive frame from a peer is received, restarting that peer's DEADLINE silence count and carrying its ACK field. -/
  | keepaliveReceipt (f : Frame)
  /-- LOOPBACK_LANDING (R330). A capture on a loop-back path lands in the own package's RX window at its place in path order, and is acknowledged. -/
  | loopbackLanding (win dest : Nat)
  /-- COUNTER_COPY_UPDATE (R334). A die's reflection unit updates its copy of a window counter or live mask, and the CWAITs held on that die are tested again. -/
  | counterCopyUpdate (die win : Nat)
  /-- SWEEP_COMPLETION (R297). A prune sweep becomes complete when every slice unit of every die has finished it, so STEPADV to the next multiple of 8192 is no longer refused. -/
  | sweepCompletion
  /-- INSTRUCTION_LINE_FETCH (R71). The lines of a group's next run arrive in the instruction store with their fetch translations, after any walk or residency service, and the group becomes ready. -/
  | instructionLineFetch (t g : Nat)
  /-- BINDING_REMOVAL (R349). System software removes a window counter binding, for example one whose member is lost, through the window's home-die MMP. -/
  | bindingRemoval (idx : Nat)
  /-- OVERFLOW_AREA_RECLAIM (R314). System software reclaims part of a running team's overflow area through the MMP, so later placements may find no room. -/
  | overflowAreaReclaim (t bytes : Nat)
  /-- HOST_LINK_TRAINING (R386). A PCIe host port's link trains, at x16 or down to x8, x4, x2 or x1 at lower bandwidth. -/
  | hostLinkTraining (port width : Nat)
  /-- UNASSIGNED_OPCODE (R439). A group, sequencer or slice thread issues a word with an unassigned OP or 0xFF and takes cause 0x01, with nothing performed. -/
  | unassignedOpcode (w : InstrWord)
  deriving DecidableEq, Repr

end Sys2Proof
end

