-- ==== Sys2Proof/WellFormed.lean ====
section
/-! DEFINITION. The field rules of the instruction words that no state decides: which operand forms, types and modifiers each opcode admits (R410 to R423, R434 to R437, and the reference entries). -/

namespace Sys2Proof

/-- The assigned type codes (R138). -/
def typeCodes : List Nat := [1, 2, 3, 4, 5, 6, 7, 8, 0x10, 0x11, 0x12, 0x13, 0x14, 0x15, 0x17, 0x18, 0x19]

/-- The integer types (R139). -/
def intTypes : List Nat := [1, 2, 3, 4, 5, 6, 7, 8]

/-- The 32-bit and 64-bit integer types. -/
def intTypes32 : List Nat := [3, 4, 7, 8]

/-- The types of lane float instructions (R139). -/
def floatTypes : List Nat := [0x10, 0x11, 0x12]

/-- The types of MOV, SEL and SHFL. -/
def moveTypes : List Nat := [3, 7, 0x10, 4, 8]

/-- The types of loads and stores (R509). -/
def loadTypes : List Nat := [1, 5, 2, 6, 3, 7, 4, 8, 0x10, 0x11, 0x12, 0x13, 0x14, 0x17]

/-- The types of CVT (R139, R471). -/
def cvtTypes : List Nat := [1, 2, 3, 4, 5, 6, 7, 8, 0x10, 0x11, 0x12, 0x13, 0x14, 0x15, 0x17, 0x18]

/-- The narrow types of PACK and UNPK (R536). -/
def packTypes : List Nat := [0x18, 0x15, 1, 5, 0x13, 0x14, 0x17, 2, 6, 0x11, 0x12]

/-- The types whose values take an even-odd register pair (R140). -/
def wideType (t : BitVec 5) : Bool := t == 4 || t == 8 || t == 0x19

/-- Width of a type in bits (R138, R140). -/
def typeBits (t : BitVec 5) : Nat :=
  match t.toNat with
  | 1 | 5 | 0x13 | 0x14 | 0x17 => 8
  | 2 | 6 | 0x11 | 0x12 => 16
  | 4 | 8 | 0x19 => 64
  | 0x15 => 4
  | 0x18 => 2
  | _ => 32

/-- Is the type a float of lane float instructions? -/
def isFloatT (t : BitVec 5) : Bool := floatTypes.contains t.toNat

/-- Is the type a signed or unsigned integer? -/
def isIntT (t : BitVec 5) : Bool := intTypes.contains t.toNat

/-- Is the type a signed integer? -/
def isSignedT (t : BitVec 5) : Bool := t == 1 || t == 2 || t == 3 || t == 4

/-- What a source field of an opcode may hold. -/
inductive SrcKind where
  | zero
  | any
  | any32
  | noImm
  | cvt
  | uniform
  | sOrImm
  | sOrNat (max : Nat)
  | sOrPos (max : Nat)
  | s
  | sMax (max : Nat)
  | sEven
  | pair
  | v
  | vMax (max : Nat)
  | vEven (max : Nat)
  | vDst
  | idx (max : Nat)
  | side
  deriving DecidableEq, Repr

/-- What a destination field of an opcode may hold. -/
inductive DstKind where
  | zero
  | reg
  | regT
  | pair
  | pred
  | v
  | vT
  | vMax (max : Nat)
  | vEven
  | s
  | sEven
  | q
  | idx (max : Nat)
  deriving DecidableEq, Repr

/-- Index is even. -/
def even {n : Nat} (i : BitVec n) : Bool := i.toNat % 2 == 0

/-- Does a side descriptor obey R421, for the selectors allowed? -/
def sideOk (sels : List Nat) (maxHandle : Nat) (maxLay : Nat) (x : Side) : Bool :=
  sels.contains x.sel.toNat && x.lay.toNat ≤ maxLay &&
  (x.sel != 0 || x.num == 0) && (x.sel != 1 || x.num.toNat ≤ maxHandle)

/-- The side descriptor in bits 11:1 of a B field (R419, R421). -/
def sideOf (i : BitVec 12) : Side := { sel := fld i 10 2, num := fld i 5 5, lay := fld i 1 4 }

/-- Does a source obey its kind, where `wide` says that the operand takes 64 bits? (R412 to R414, R441) -/
def srcOk (k : SrcKind) (wide : Bool) (x : Src) : Bool :=
  match k, x with
  | .zero, .idx i => i == 0
  | .any, .v i => !wide || even i
  | .any, .s i => !wide || even i
  | .any, .x _ => !wide
  | .any, .sp _ => !wide
  | .any, .imm _ => true
  | .any32, .v _ | .any32, .s _ | .any32, .x _ | .any32, .sp _ | .any32, .imm _ => true
  | .noImm, .v _ | .noImm, .s _ | .noImm, .x _ | .noImm, .sp _ => true
  | .cvt, .v i => !wide || even i
  | .cvt, .s i => !wide || even i
  | .cvt, .x _ => !wide
  | .cvt, .sp _ => !wide
  | .cvt, .imm _ => true
  | .uniform, .s _ | .uniform, .x _ | .uniform, .imm _ => true
  | .uniform, .sp k => k != 0
  | .sOrImm, .s _ | .sOrImm, .imm _ => true
  | .sOrNat _, .s _ => true
  | .sOrNat m, .imm k => k.toNat < 512 && k.toNat ≤ m
  | .sOrPos _, .s _ => true
  | .sOrPos m, .imm k => 1 ≤ k.toNat && k.toNat < 512 && k.toNat ≤ m
  | .s, .s _ => true
  | .sMax m, .s i => i.toNat ≤ m
  | .sEven, .s i => even i
  | .pair, .s i => even i
  | .pair, .v i => even i
  | .v, .v _ => true
  | .vMax m, .v i => i.toNat ≤ m
  | .vEven m, .v i => even i && i.toNat ≤ m
  | .vDst, .v i => !wide || even i
  | .idx m, .idx i => i.toNat ≤ m
  | .side, .idx i => fld i 0 1 == 0 && sideOk [0, 1] 15 15 (sideOf i)
  | _, _ => false

/-- Does a destination obey its kind? `pw` says that the word writes a predicate (R474). -/
def dstOk (k : DstKind) (wide pw : Bool) (x : Dst) : Bool :=
  match k, x with
  | .zero, .idx i => i == 0
  | .reg, .v _ | .reg, .s _ => true
  | .regT, .v i => !wide || even i
  | .regT, .s i => !wide || even i
  | .pair, .v i => even i
  | .pair, .s i => even i
  | .pred, .idx i => pw && i == 0
  | .pred, .v _ | .pred, .s _ => !pw
  | .v, .v _ => true
  | .vT, .v i => !wide || even i
  | .vMax m, .v i => i.toNat ≤ m
  | .vEven, .v i => even i
  | .s, .s _ => true
  | .sEven, .s i => even i
  | .q, .s i => i.toNat ≤ 63
  | .idx m, .idx i => i.toNat ≤ m
  | _, _ => false

/-- Does a source vary by lane as written (R441)? A latch is found out at issue. -/
def variesStatic : Src → Bool
  | .v _ => true
  | .sp k => k == 0
  | _ => false

/-- What an opcode of format R or I admits. -/
structure RISig where
  op : Byte
  r : Bool := true
  i : Bool := false
  vars : List Nat := [0]
  d : DstKind := .zero
  a : SrcKind := .zero
  b : SrcKind := .zero
  c : SrcKind := .zero
  t : List Nat := [0]
  t2 : List Nat := [0]
  rm : Bool := false
  sat : Bool := false
  ftz : Bool := false
  prod : Bool := false
  guard : Bool := false
  free : Bool := false
  immForA : Bool := false
  xf : Nat := 0

/-- Does the word name a predicate destination (R474)? -/
def RISig.pw (g : RISig) (w : RIWord) : Bool := g.d == .pred && fld w.xf 3 1 == 1

/-- Is the word a latch producer (R77)? A MOV of a special value is a read of that value, and none (R90). -/
def RISig.producer (g : RISig) (w : RIWord) : Bool :=
  g.prod && (match g.d with
    | .regT | .vT => !wideType w.t
    | .pred => fld w.xf 3 1 == 0
    | _ => true) && !(g.op == 0x32 && (match w.a with | .sp _ => true | _ => false))

/-- The further rules of single opcodes: .sat with .hi, the predicate field, RM and FTZ of the reductions, SHR.a, the slots of PACK and UNPK, a handle in IMM. -/
def riExtra (g : RISig) (w : RIWord) : Bool :=
  match g.op.toNat with
  | 0x22 => !(w.sat && fld w.xf 0 1 == 1)
  | 0x27 | 0x45 => fld w.xf 3 1 == 1 || w.xf == 0
  | 0x2C => w.var == 0 || isSignedT w.t
  | 0x65 => (w.rm == 0 || (isFloatT w.t && w.var == 0)) && (!w.ftz || isFloatT w.t) && (w.var.toNat < 3 || isIntT w.t)
  | 0x66 => (w.rm == 0 || (isFloatT w.t && w.var.toNat < 2)) && (!w.ftz || isFloatT w.t)
  | 0x60 => (match w.a with | .imm _ => isIntT w.t2 | _ => true)
  | 0x67 => (match w.a with | .imm _ => !wideType w.t | _ => true)
  | 0x61 => w.xf.toNat * 2 * typeBits w.t < 32
  | 0x62 => w.xf.toNat * typeBits w.t < 32
  | 0xAA => w.imm.toNat < 65536
  | _ => true

/-- Does a word of format R or I obey the field rules of its opcode? -/
def riOk (g : RISig) (w : RIWord) : Bool :=
  (if w.isImm then g.i && w.c == .idx 0 && w.t2 == 0 && w.xf.toNat < 1024 else g.r && w.imm == 0) &&
  g.vars.contains w.var.toNat &&
  dstOk g.d (wideType w.t) (g.pw w) w.d &&
  srcOk (if w.isImm && g.immForA then .zero else g.a) (wideType (if g.a == .cvt then w.t2 else w.t)) w.a &&
  (if w.isImm then w.b == .idx 0 else srcOk g.b (wideType w.t) w.b) &&
  (w.isImm || srcOk g.c (wideType w.t) w.c) &&
  g.t.contains w.t.toNat && g.t2.contains w.t2.toNat &&
  (g.rm || w.rm == 0) && (g.sat || !w.sat) && (g.ftz || !w.ftz) &&
  (!w.hdr.noWrite || g.producer w) && (g.guard || w.hdr.guard == 0) &&
  (match w.d with
    | .s _ => g.free || !(variesStatic w.a || variesStatic w.b || variesStatic w.c)
    | _ => true) &&
  w.xf.toNat ≤ g.xf && riExtra g w

/-! The rows of formats R and I, from the tables of the reference entries. -/

def Sig.bra : RISig := { op := 0x01, r := false, i := true, guard := true }
def Sig.jmp : RISig := { op := 0x02, a := .pair, guard := true }
def Sig.call : RISig := { op := 0x03, r := false, i := true, d := .pair, guard := true }
def Sig.callReg : RISig := { op := 0x03, d := .pair, a := .pair, guard := true }
def Sig.ret : RISig := { op := 0x04, a := .pair, guard := true }
def Sig.exit : RISig := { op := 0x05 }
def Sig.trap : RISig := { op := 0x06, r := false, i := true }
def Sig.brk : RISig := { op := 0x07, xf := 0xfff }
def Sig.join : RISig := { op := 0x08, a := .idx 11 }
def Sig.leave : RISig := { op := 0x09, a := .idx 11 }
def Sig.wait : RISig := { op := 0x0A, a := .idx 11 }
def Sig.meet : RISig := { op := 0x0B, r := false, i := true }
def Sig.meetReg : RISig := { op := 0x0B, a := .pair }
def Sig.meetClr : RISig := { op := 0x0B, vars := [1] }
def Sig.mskopMov : RISig := { op := 0x0C, vars := [0], a := .idx 11, b := .uniform }
def Sig.mskopAnd : RISig := { op := 0x0C, vars := [1], a := .idx 11, b := .uniform }
def Sig.mskopOr : RISig := { op := 0x0C, vars := [2], a := .idx 11, b := .uniform }
def Sig.mskopXor : RISig := { op := 0x0C, vars := [3], a := .idx 11, b := .uniform }
def Sig.mskopAndn : RISig := { op := 0x0C, vars := [4], a := .idx 11, b := .uniform }
def Sig.mskopRd : RISig := { op := 0x0C, vars := [5], d := .reg, a := .idx 11, prod := true, free := true }
def Sig.graft : RISig := { op := 0x0D, r := false, i := true, a := .idx 1024, xf := 0x100 }
def Sig.graftReg : RISig := { op := 0x0D, a := .sEven, c := .idx 1024, xf := 0x100 }
def Sig.migr : RISig := { op := 0x0E, a := .sOrImm }
def Sig.iadd : RISig := { op := 0x20, i := true, d := .regT, a := .any, b := .any, t := intTypes, sat := true, prod := true }
def Sig.isub : RISig := { op := 0x21, i := true, d := .regT, a := .any, b := .any, t := intTypes, sat := true, prod := true }
def Sig.imul : RISig := { op := 0x22, i := true, d := .regT, a := .any, b := .any, t := intTypes, sat := true, prod := true, xf := 1 }
def Sig.imad : RISig := { op := 0x23, d := .regT, a := .any, b := .any, c := .any, t := intTypes, sat := true, prod := true }
def Sig.imin : RISig := { op := 0x24, i := true, d := .regT, a := .any, b := .any, t := intTypes, prod := true }
def Sig.imax : RISig := { op := 0x25, i := true, d := .regT, a := .any, b := .any, t := intTypes, prod := true }
def Sig.iabs : RISig := { op := 0x26, d := .regT, a := .any, t := intTypes, sat := true, prod := true }
def Sig.icmp : RISig := { op := 0x27, i := true, vars := [0, 1, 2, 3, 4, 5], d := .pred, a := .any, b := .any, t := intTypes, prod := true, xf := 15 }
def Sig.and : RISig := { op := 0x28, i := true, d := .regT, a := .any, b := .any, t := intTypes, prod := true }
def Sig.or : RISig := { op := 0x29, i := true, d := .regT, a := .any, b := .any, t := intTypes, prod := true }
def Sig.xor : RISig := { op := 0x2A, i := true, d := .regT, a := .any, b := .any, t := intTypes, prod := true }
def Sig.shl : RISig := { op := 0x2B, i := true, d := .regT, a := .any, b := .any32, t := intTypes, prod := true }
def Sig.shr : RISig := { op := 0x2C, i := true, d := .regT, a := .any, b := .any32, t := intTypes, prod := true }
def Sig.shrA : RISig := { op := 0x2C, i := true, vars := [1], d := .regT, a := .any, b := .any32, t := intTypes, prod := true }
def Sig.bfe : RISig := { op := 0x2D, d := .regT, a := .any, b := .any32, c := .any32, t := intTypes32, prod := true }
def Sig.bfi : RISig := { op := 0x2E, d := .regT, a := .any, b := .any, c := .any32, t := intTypes32, prod := true }
def Sig.popc : RISig := { op := 0x2F, d := .reg, a := .any, t := intTypes32, prod := true }
def Sig.clz : RISig := { op := 0x30, d := .reg, a := .any, t := intTypes32, prod := true }
def Sig.brev : RISig := { op := 0x31, d := .regT, a := .any, t := intTypes32, prod := true }
def Sig.mov : RISig := { op := 0x32, d := .regT, a := .any, t := moveTypes, prod := true }
def Sig.movi : RISig := { op := 0x33, r := false, i := true, d := .regT, t := [1, 2, 3, 4, 5, 6, 7, 8, 0x10, 0x11, 0x12, 0x13, 0x14, 0x17], prod := true }
def Sig.sel : RISig := { op := 0x34, d := .regT, a := .any, b := .any, t := moveTypes, prod := true, guard := true }
def Sig.addr : RISig := { op := 0x35, i := true, d := .pair, a := .pair, b := .any32, t := [3, 7], xf := 7 }
def Sig.plop : RISig := { op := 0x36, a := .idx 7, b := .idx 7, c := .idx 7, xf := 0x7ff }
def Sig.fadd : RISig := { op := 0x40, i := true, d := .reg, a := .noImm, b := .noImm, t := floatTypes, rm := true, sat := true, ftz := true, prod := true }
def Sig.fmul : RISig := { op := 0x41, i := true, d := .reg, a := .noImm, b := .noImm, t := floatTypes, rm := true, sat := true, ftz := true, prod := true }
def Sig.fma : RISig := { op := 0x42, d := .reg, a := .noImm, b := .noImm, c := .noImm, t := floatTypes, rm := true, sat := true, ftz := true, prod := true }
def Sig.fmin : RISig := { op := 0x43, i := true, d := .reg, a := .noImm, b := .noImm, t := floatTypes, ftz := true, prod := true }
def Sig.fmax : RISig := { op := 0x44, i := true, d := .reg, a := .noImm, b := .noImm, t := floatTypes, ftz := true, prod := true }
def Sig.fcmp : RISig := { op := 0x45, i := true, vars := [0, 1, 2, 3, 4, 5, 6, 7], d := .pred, a := .noImm, b := .noImm, t := floatTypes, ftz := true, prod := true, xf := 15 }
def Sig.fclass : RISig := { op := 0x4C, d := .reg, a := .noImm, t := floatTypes, prod := true }
def Sig.frcp : RISig := { op := 0x46, d := .reg, a := .noImm, t := floatTypes, rm := true, sat := true, ftz := true, prod := true }
def Sig.frsq : RISig := { op := 0x47, d := .reg, a := .noImm, t := floatTypes, sat := true, ftz := true, prod := true }
def Sig.fsqrt : RISig := { op := 0x48, d := .reg, a := .noImm, t := floatTypes, rm := true, sat := true, ftz := true, prod := true }
def Sig.fexp : RISig := { op := 0x49, d := .reg, a := .noImm, t := floatTypes, sat := true, ftz := true, prod := true }
def Sig.flog : RISig := { op := 0x4A, d := .reg, a := .noImm, t := floatTypes, sat := true, ftz := true, prod := true }
def Sig.ftanh : RISig := { op := 0x4B, d := .reg, a := .noImm, t := floatTypes, sat := true, ftz := true, prod := true }
def Sig.cvt : RISig := { op := 0x60, d := .regT, a := .cvt, t := cvtTypes, t2 := cvtTypes, rm := true, sat := true, ftz := true, prod := true }
def Sig.pack : RISig := { op := 0x61, d := .reg, a := .any32, b := .any32, c := .any32, t := packTypes, prod := true, xf := 7 }
def Sig.unpk : RISig := { op := 0x62, d := .reg, a := .any32, t := packTypes, prod := true, xf := 15 }
def Sig.shfl : RISig := { op := 0x63, vars := [0, 1, 2, 3], d := .vT, a := .any, b := .any32, t := moveTypes, prod := true }
def Sig.vote : RISig := { op := 0x64, vars := [0, 1, 2, 3], d := .reg, a := .idx 7, prod := true, free := true, xf := 1 }
def Sig.redx : RISig := { op := 0x65, vars := [0, 1, 2, 3, 4, 5], d := .regT, a := .any, t := intTypes ++ floatTypes, rm := true, ftz := true, prod := true, free := true }
def Sig.prfx : RISig := { op := 0x66, vars := [0, 1, 2, 3], d := .vT, a := .any, t := intTypes ++ floatTypes, rm := true, ftz := true, prod := true }
def Sig.matchLanes : RISig := { op := 0x67, vars := [0, 1], d := .reg, a := .any, t := intTypes32, prod := true }
def Sig.fence : RISig := { op := 0x90, vars := [5, 6, 7, 9, 10, 11, 13, 14, 15, 17, 18, 19, 21, 22, 23] }
def Sig.rfence : RISig := { op := 0x91, d := .sEven, a := .s }
def Sig.cwait : RISig := { op := 0x92, d := .sEven, a := .s, b := .sOrNat 67, c := .sEven, xf := 0x3ff }
def Sig.wcnt : RISig := { op := 0x93, d := .sEven, a := .s, b := .sOrNat 67 }
def Sig.bar : RISig := { op := 0x94, a := .idx 15, b := .sOrPos 511 }
def Sig.stgwaitEmpty : RISig := { op := 0x95, a := .sOrNat 7, b := .sOrNat 15 }
def Sig.stgwaitFull : RISig := { op := 0x95, vars := [1], a := .sOrNat 7, b := .sOrNat 15 }
def Sig.stgfree : RISig := { op := 0x96, a := .sOrNat 7, b := .sOrNat 15 }
def Sig.lset : RISig := { op := 0xA0, d := .idx 15, a := .sMax 992 }
def Sig.lmode : RISig := { op := 0xA1, d := .idx 15, a := .idx 15, b := .sOrImm, c := .sOrImm, xf := 14 }
def Sig.lchain : RISig := { op := 0xA2, d := .idx 15, a := .idx 15, b := .idx 15 }
def Sig.lpart : RISig := { op := 0xA3, d := .idx 15, a := .idx 15, b := .idx 15, c := .sOrImm }
def Sig.ltrans : RISig := { op := 0xA4, i := true, d := .idx 15, a := .idx 15, b := .sOrImm }
def Sig.lflat : RISig := { op := 0xA5, d := .idx 15, a := .idx 15, xf := 6 }
def Sig.lflatAll : RISig := { op := 0xA5, vars := [1], d := .idx 15, a := .idx 15 }
def Sig.lswz : RISig := { op := 0xA6, i := true, d := .idx 15, a := .idx 15, b := .sOrImm }
def Sig.lchk : RISig := { op := 0xA7, a := .idx 15, b := .idx 31, t := 0 :: typeCodes, xf := 5 }
def Sig.lbcd : RISig := { op := 0xA8, a := .idx 15, b := .idx 31, t := 0 :: typeCodes, xf := 5 }
def Sig.lget : RISig := { op := 0xA9, d := .s, a := .idx 15, b := .sOrImm, prod := true }
def Sig.hbind : RISig := { op := 0xAA, i := true, d := .idx 15, a := .sOrNat 511, immForA := true }
def Sig.hflush : RISig := { op := 0xAB, vars := [2, 3, 4, 5], a := .idx 15 }
def Sig.hinfo : RISig := { op := 0xAC, d := .reg, a := .idx 15, b := .sOrNat 47 }
def Sig.obres : RISig := { op := 0xAD, d := .idx 31, a := .s }
def Sig.obrel : RISig := { op := 0xAE, a := .idx 31 }
def Sig.axfrRd : RISig := { op := 0xC5, d := .v, a := .sOrNat 511, b := .sOrNat 63 }
def Sig.axfrWr : RISig := { op := 0xC5, vars := [1], a := .sOrNat 511, b := .sOrNat 63, c := .v }
def Sig.mloop : RISig := { op := 0xC8, r := false, i := true, d := .q }
def Sig.mjmp : RISig := { op := 0xC9, r := false, i := true }
def Sig.mend : RISig := { op := 0xCA }
def Sig.tlaunch : RISig := { op := 0xD0, d := .s, a := .sEven }
def Sig.tdec : RISig := { op := 0xD1, a := .sOrNat 511 }
def Sig.stepadv : RISig := { op := 0xD4, d := .s }
def Sig.steprd : RISig := { op := 0xD5, d := .sEven }
def Sig.swfold : RISig := { op := 0xD6, d := .pair, a := .pair, t := [0x19] }
def Sig.swmrg : RISig := { op := 0xD7, d := .pair, a := .pair, b := .pair, t := [0x19] }
def Sig.nmcommit : RISig := { op := 0xE3, a := .vEven 62 }
def Sig.nmabort : RISig := { op := 0xE4, a := .vEven 62 }
def Sig.sysrd : RISig := { op := 0xF0, d := .s, xf := 0xfff }
def Sig.syswr : RISig := { op := 0xF1, a := .s, xf := 0xfff }
def Sig.syswrGstep : RISig := { op := 0xF1, a := .s, xf := 0xfff }
def Sig.syswrFactbase : RISig := { op := 0xF1, a := .s, xf := 0xfff }
def Sig.syswrRecbase : RISig := { op := 0xF1, a := .s, xf := 0xfff }
def Sig.syswrTrapvec : RISig := { op := 0xF1, a := .s, xf := 0xfff }
def Sig.syswrTrnxAsat : RISig := { op := 0xF1, a := .s, xf := 0xfff }
def Sig.syswrArr : RISig := { op := 0xF1, a := .s, xf := 0xfff }
def Sig.tret : RISig := { op := 0xF2 }

/-- The system register number that a SYSWR word names (R550). -/
def sysNum (w : RIWord) : Nat := (fld w.xf 0 12).toNat

/-- What an opcode of format M admits. `wideOnly` fields follow R419; `ops` are the values of FN bits 6:2. -/
structure MSig where
  op : Byte
  spaces : List Nat := [0, 1, 2, 3]
  ops : List Nat := [0]
  d : DstKind := .zero
  base : Bool := true
  b : SrcKind := .zero
  c : SrcKind := .zero
  t : List Nat := [0]
  acq : Bool := false
  rel : Bool := false
  guard : Bool := false
  ordered : Bool := true

/-- May the base field hold this source (R419)? -/
def baseOk (wide : Bool) (x : Src) : Bool :=
  match x with
  | .v i => !wide || even i
  | .s i => !wide || even i
  | .idx _ => false
  | _ => !wide

/-- The qualifier rules of R266: an ordering with a scope, .prm only on an acquire wider than CORE. -/
def orderOk (g : MSig) (w : MWord) : Bool :=
  (w.ord == 0 || (w.ord == 1 && g.acq) || (w.ord == 2 && g.rel) || (w.ord == 3 && g.acq && g.rel)) &&
  ((w.ord == 0) == (w.scope == 0)) && w.scope.toNat ≤ 5 &&
  (!w.prm || (fld w.ord 0 1 == 1 && w.scope.toNat ≥ 3))

/-- The further rules of single opcodes of format M: types of RED by operation, S destinations (R510), the space of a side (R436). -/
def mExtra (g : MSig) (w : MWord) : Bool :=
  match g.op.toNat with
  | 0x70 | 0x74 | 0x75 =>
    (match w.d with
      | .s _ => w.space != 0 && !variesStatic w.a
      | _ => true)
  | 0x7B => isIntT w.t || w.op.toNat ≤ 2
  | 0x72 | 0x73 =>
    (match w.b with
      | .idx i => (sideOf i).sel != 0 || w.space == 1
      | _ => false)
  | _ => true

/-- Does a word of format M obey the field rules of its opcode? -/
def mOk (g : MSig) (w : MWord) : Bool :=
  g.spaces.contains w.space.toNat && g.ops.contains w.op.toNat &&
  dstOk g.d (wideType w.t) false w.d &&
  (if g.base then baseOk w.wide w.a && (!w.wide || w.space == 3) else w.a == .idx 0 && !w.wide && w.off == 0) &&
  srcOk g.b (wideType w.t) w.b && srcOk g.c (wideType w.t) w.c && g.t.contains w.t.toNat &&
  orderOk g w && !w.hdr.noWrite && (g.guard || w.hdr.guard == 0) && mExtra g w

/-! The rows of format M. -/

def MSig.ld : MSig := { op := 0x70, d := .regT, t := loadTypes, acq := true }
def MSig.ldv : MSig := { op := 0x74, spaces := [3], d := .regT, c := .sEven, t := loadTypes, acq := true }
def MSig.ldt : MSig := { op := 0x72, spaces := [1, 2, 3], d := .v, base := false, b := .side, t := loadTypes, acq := true }
def MSig.st : MSig := { op := 0x71, b := .any, t := loadTypes, rel := true, guard := true }
def MSig.stt : MSig := { op := 0x73, spaces := [1, 2, 3], base := false, b := .side, c := .v, t := loadTypes, rel := true, guard := true }
def MSig.swld : MSig := { op := 0x75, d := .reg, t := [0x19], acq := true }
def MSig.swldRaw : MSig := { op := 0x75, ops := [1], d := .pair, t := [0x19], acq := true }
def MSig.atom (k : Nat) : MSig := { op := 0x78, ops := [k], d := .vT, b := .any, t := intTypes32, acq := true, rel := true, guard := true }
def MSig.atomf : MSig := { op := 0x79, ops := [0, 1, 2], d := .v, b := .any, t := floatTypes, acq := true, rel := true, guard := true }
def MSig.acas : MSig := { op := 0x7A, d := .vT, b := .any, c := .any, t := intTypes32, acq := true, rel := true, guard := true }
def MSig.red : MSig := { op := 0x7B, ops := [0, 1, 2, 3, 4, 5], b := .any, t := intTypes32 ++ floatTypes, rel := true, guard := true }
def MSig.swadd : MSig := { op := 0x7C, d := .vEven, b := .any32, c := .sOrNat 255, t := [0x19], acq := true, rel := true, guard := true }
def MSig.enq : MSig := { op := 0x7D, spaces := [1, 3], d := .v, b := .any, t := [7, 8], rel := true, guard := true }
def MSig.deq : MSig := { op := 0x7E, spaces := [1, 3], d := .v, c := .vDst, t := [7, 8], acq := true, guard := true }
def MSig.nmld : MSig := { op := 0xE0, spaces := [3], d := .vMax 60 }
def MSig.nmst : MSig := { op := 0xE1, spaces := [3], b := .vMax 60 }
def MSig.nmlog : MSig := { op := 0xE2, spaces := [3] }

/-- A suffix operand that names an S register, even where asked. -/
def sfxS (even_ : Bool) : Sfx → Bool
  | .s i => !even_ || even i
  | .imm _ => false

/-- A suffix operand that is an S register or an immediate not above `max`. -/
def sfxMax (max : Nat) : Sfx → Bool
  | .s _ => true
  | .imm k => k.toNat ≤ max

/-- The rules a copy word's suffix operands obey, in the order in which they fill P0 onwards (R420, R465). -/
def sfxRules (w : EWord) : List (Sfx → Bool) :=
  (if w.ver then [sfxS true] else []) ++ (if w.stg then [sfxMax 7, sfxMax 15] else []) ++
  (if w.tdec then [sfxS false] else []) ++ (if w.sts then [sfxS false] else [])

/-- The suffix fields of a copy word, P0 first. -/
def sfxFields (w : EWord) : List Sfx := [w.p0, w.p1, w.p2, w.p3, w.p4]

/-- Each suffix operand obeys its rule, and the fields beyond the last are zero. -/
def sfxOk : List (Sfx → Bool) → List Sfx → Bool
  | _, [] => true
  | [], f :: fs => f == .s 0 && sfxOk [] fs
  | r :: rs, f :: fs => r f && sfxOk rs fs

/-- The copy opcodes. -/
inductive CopyOp where
  | cpy
  | gth
  | sct
  | cpyz
  | cpyf
  deriving DecidableEq, Repr

/-- Does a word of format E obey the field rules of its opcode (R420, R421, R437, R464)? -/
def eOk (k : CopyOp) (w : EWord) : Bool :=
  !w.hdr.noWrite && w.hdr.guard == 0 && sfxOk (sfxRules w) (sfxFields w) &&
  sideOk (if k == .sct then [1] else [0, 1, 2]) 15 15 w.dside &&
  (match k with
    | .cpy => sideOk [0, 1, 2] 15 15 w.sside && (!w.ver || w.sside.sel == 1)
    | .gth => sideOk [1] 15 15 w.sside
    | .sct => sideOk [0, 1, 2] 15 15 w.sside && (!w.ver || w.sside.sel == 1)
    | .cpyz => sideOk [1] 15 15 w.sside && !w.ver
    | .cpyf => w.sside.sel == 3 && !w.ver) &&
  (if k == .gth || k == .sct then w.dim.toNat ≤ 5 else w.xl == 0 && w.dim == 0)

/-- The all-zero side descriptor. -/
def Side.none : Side := { sel := 0, num := 0, lay := 0 }

/-- The operand pairs of MMA (R521). -/
def mmaPairs : List (Nat × Nat) :=
  [(0x11, 0x11), (0x12, 0x12), (0x13, 0x13), (0x13, 0x14), (0x14, 0x13), (0x14, 0x14), (0x15, 0x15), (1, 1)]

/-- The opcodes of format Q. -/
inductive MatOp where
  | mma
  | mmab
  | mmat
  | aclr
  | adrn
  deriving DecidableEq, Repr

/-- Does the pairing of ADRN's types obey R197? -/
def drainTypesOk (w : QWord) : Bool :=
  let out (t : BitVec 5) : Bool := [0x10, 0x12, 0x11, 0x13, 0x14, 0x15].contains t.toNat || (t == 3 && w.tc == 3 && w.z == Side.none)
  (w.tc == 0x10 || w.tc == 3) && out w.ta && (if w.tr then out w.tb else w.tb == 0)

/-- Does a word of format Q obey the field rules of its opcode (R422, R447, R452, R521)? -/
def qOk (k : MatOp) (w : QWord) : Bool :=
  !w.hdr.noWrite && !w.hdr.runEnd && w.hdr.guard == 0 &&
  (match k with
    | .aclr => w.x == Side.none && w.y == Side.none && w.z == Side.none && w.ta == 0 && w.tb == 0 && w.tc == 0 && !w.zc && !w.tr
    | .adrn =>
      sideOk [0, 1, 2] 3 3 w.x && (if w.tr then sideOk [0, 1, 2] 3 3 w.y else w.y == Side.none) &&
      (w.z == Side.none || (w.z.sel == 2 && w.z.lay == 0)) && drainTypesOk w && w.cnt == 0
    | .mmat =>
      sideOk [0, 2] 3 3 w.x && sideOk [0, 2] 3 3 w.y && w.z == Side.none && w.ta == 1 && w.tb == 0x18 && w.tc == 0 && !w.tr && w.cnt == 0
    | _ =>
      sideOk [0, 2] 3 3 w.x && sideOk [0, 2] 3 3 w.y && w.z == Side.none && w.tc == 0 && !w.tr && w.cnt == 0 &&
      mmaPairs.contains (w.ta.toNat, w.tb.toNat) && (k == .mma || w.ta != 1))

/-- The assigned major opcodes (R432). -/
def assignedOps : List Nat :=
  [0x00, 0x01, 0x02, 0x03, 0x04, 0x05, 0x06, 0x07, 0x08, 0x09, 0x0A, 0x0B, 0x0C, 0x0D, 0x0E,
   0x20, 0x21, 0x22, 0x23, 0x24, 0x25, 0x26, 0x27, 0x28, 0x29, 0x2A, 0x2B, 0x2C, 0x2D, 0x2E, 0x2F,
   0x30, 0x31, 0x32, 0x33, 0x34, 0x35, 0x36,
   0x40, 0x41, 0x42, 0x43, 0x44, 0x45, 0x46, 0x47, 0x48, 0x49, 0x4A, 0x4B, 0x4C,
   0x60, 0x61, 0x62, 0x63, 0x64, 0x65, 0x66, 0x67,
   0x70, 0x71, 0x72, 0x73, 0x74, 0x75, 0x78, 0x79, 0x7A, 0x7B, 0x7C, 0x7D, 0x7E,
   0x90, 0x91, 0x92, 0x93, 0x94, 0x95, 0x96,
   0xA0, 0xA1, 0xA2, 0xA3, 0xA4, 0xA5, 0xA6, 0xA7, 0xA8, 0xA9, 0xAA, 0xAB, 0xAC, 0xAD, 0xAE,
   0xB0, 0xB1, 0xB2, 0xB3, 0xC0, 0xC1, 0xC2, 0xC3, 0xC4, 0xC5, 0xC8, 0xC9, 0xCA,
   0xD0, 0xD1, 0xD4, 0xD5, 0xD6, 0xD7, 0xE0, 0xE1, 0xE2, 0xE3, 0xE4, 0xF0, 0xF1, 0xF2]

/-- The system registers whose SYSWR has a row of its own. -/
def ownSysRows : List Nat := [0x010, 0x021, 0x020, 0x022, 4, 5, 0x040]

/-- A well-formed instruction: its word obeys the field rules, or the event's arguments lie in their ranges. -/
def Instr.wf : Instr → Bool
  | .nop _ => true
  | .bra w => riOk Sig.bra w
  | .jmp w => riOk Sig.jmp w
  | .call w => riOk Sig.call w
  | .callReg w => riOk Sig.callReg w
  | .ret w => riOk Sig.ret w
  | .exit w => riOk Sig.exit w
  | .trap w => riOk Sig.trap w
  | .brk w => riOk Sig.brk w
  | .join w => riOk Sig.join w
  | .leave w => riOk Sig.leave w
  | .wait w => riOk Sig.wait w
  | .meet w => riOk Sig.meet w
  | .meetReg w => riOk Sig.meetReg w
  | .meetClr w => riOk Sig.meetClr w
  | .mskopMov w => riOk Sig.mskopMov w
  | .mskopAnd w => riOk Sig.mskopAnd w
  | .mskopOr w => riOk Sig.mskopOr w
  | .mskopXor w => riOk Sig.mskopXor w
  | .mskopAndn w => riOk Sig.mskopAndn w
  | .mskopRd w => riOk Sig.mskopRd w
  | .graft w => riOk Sig.graft w
  | .graftReg w => riOk Sig.graftReg w
  | .migr w => riOk Sig.migr w
  | .iadd w => riOk Sig.iadd w
  | .isub w => riOk Sig.isub w
  | .imul w => riOk Sig.imul w
  | .imad w => riOk Sig.imad w
  | .imin w => riOk Sig.imin w
  | .imax w => riOk Sig.imax w
  | .iabs w => riOk Sig.iabs w
  | .icmp w => riOk Sig.icmp w
  | .and w => riOk Sig.and w
  | .or w => riOk Sig.or w
  | .xor w => riOk Sig.xor w
  | .shl w => riOk Sig.shl w
  | .shr w => riOk Sig.shr w
  | .shrA w => riOk Sig.shrA w
  | .bfe w => riOk Sig.bfe w
  | .bfi w => riOk Sig.bfi w
  | .popc w => riOk Sig.popc w
  | .clz w => riOk Sig.clz w
  | .brev w => riOk Sig.brev w
  | .mov w => riOk Sig.mov w
  | .movi w => riOk Sig.movi w
  | .sel w => riOk Sig.sel w
  | .addr w => riOk Sig.addr w
  | .plop w => riOk Sig.plop w
  | .fadd w => riOk Sig.fadd w
  | .fmul w => riOk Sig.fmul w
  | .fma w => riOk Sig.fma w
  | .fmin w => riOk Sig.fmin w
  | .fmax w => riOk Sig.fmax w
  | .fcmp w => riOk Sig.fcmp w
  | .fclass w => riOk Sig.fclass w
  | .frcp w => riOk Sig.frcp w
  | .frsq w => riOk Sig.frsq w
  | .fsqrt w => riOk Sig.fsqrt w
  | .fexp w => riOk Sig.fexp w
  | .flog w => riOk Sig.flog w
  | .ftanh w => riOk Sig.ftanh w
  | .cvt w => riOk Sig.cvt w
  | .pack w => riOk Sig.pack w
  | .unpk w => riOk Sig.unpk w
  | .shfl w => riOk Sig.shfl w
  | .vote w => riOk Sig.vote w
  | .redx w => riOk Sig.redx w
  | .prfx w => riOk Sig.prfx w
  | .matchLanes w => riOk Sig.matchLanes w
  | .ld w => mOk MSig.ld w
  | .ldv w => mOk MSig.ldv w
  | .ldt w => mOk MSig.ldt w
  | .st w => mOk MSig.st w
  | .stt w => mOk MSig.stt w
  | .swld w => mOk MSig.swld w
  | .swldRaw w => mOk MSig.swldRaw w
  | .atomAdd w => mOk (MSig.atom 0) w
  | .atomMin w => mOk (MSig.atom 1) w
  | .atomMax w => mOk (MSig.atom 2) w
  | .atomAnd w => mOk (MSig.atom 3) w
  | .atomOr w => mOk (MSig.atom 4) w
  | .atomXor w => mOk (MSig.atom 5) w
  | .atomExch w => mOk (MSig.atom 6) w
  | .atomf w => mOk MSig.atomf w
  | .acas w => mOk MSig.acas w
  | .red w => mOk MSig.red w
  | .swadd w => mOk MSig.swadd w
  | .enq w => mOk MSig.enq w
  | .deq w => mOk MSig.deq w
  | .fence w => riOk Sig.fence w
  | .rfence w => riOk Sig.rfence w
  | .cwait w => riOk Sig.cwait w
  | .wcnt w => riOk Sig.wcnt w
  | .bar w => riOk Sig.bar w
  | .stgwaitEmpty w => riOk Sig.stgwaitEmpty w
  | .stgwaitFull w => riOk Sig.stgwaitFull w
  | .stgfree w => riOk Sig.stgfree w
  | .lset w => riOk Sig.lset w
  | .lmode w => riOk Sig.lmode w
  | .lchain w => riOk Sig.lchain w
  | .lpart w => riOk Sig.lpart w
  | .ltrans w => riOk Sig.ltrans w
  | .lflat w => riOk Sig.lflat w
  | .lflatAll w => riOk Sig.lflatAll w
  | .lswz w => riOk Sig.lswz w
  | .lchk w => riOk Sig.lchk w
  | .lbcd w => riOk Sig.lbcd w
  | .lget w => riOk Sig.lget w
  | .hbind w => riOk Sig.hbind w
  | .hflush w => riOk Sig.hflush w
  | .hinfo w => riOk Sig.hinfo w
  | .obres w => riOk Sig.obres w
  | .obrel w => riOk Sig.obrel w
  | .cpy w => eOk .cpy w
  | .cpygGth w => eOk .gth w
  | .cpygSct w => eOk .sct w
  | .cpyz w => eOk .cpyz w
  | .cpyf w => eOk .cpyf w
  | .copyStart _ => true
  | .copyCompletion _ => true
  | .mma w => qOk .mma w
  | .mmab w => qOk .mmab w
  | .mmat w => qOk .mmat w
  | .aclr w => qOk .aclr w
  | .adrn w => qOk .adrn w
  | .matrixInstructionStart _ _ _ => true
  | .matrixCommit _ _ => true
  | .adrnCompletion _ _ => true
  | .axfrRd w => riOk Sig.axfrRd w
  | .axfrWr w => riOk Sig.axfrWr w
  | .mloop w => riOk Sig.mloop w
  | .mjmp w => riOk Sig.mjmp w
  | .mend w => riOk Sig.mend w
  | .tlaunch w => riOk Sig.tlaunch w
  | .tdec w => riOk Sig.tdec w
  | .stepadv w => riOk Sig.stepadv w
  | .steprd w => riOk Sig.steprd w
  | .swfold w => riOk Sig.swfold w
  | .swmrg w => riOk Sig.swmrg w
  | .nmld w => mOk MSig.nmld w
  | .nmst w => mOk MSig.nmst w
  | .nmlog w => mOk MSig.nmlog w
  | .nmcommit w => riOk Sig.nmcommit w
  | .nmabort w => riOk Sig.nmabort w
  | .sysrd w => riOk Sig.sysrd w
  | .syswr w => riOk Sig.syswr w && !ownSysRows.contains (sysNum w)
  | .syswrGstep w => riOk Sig.syswrGstep w && [0x010].contains (sysNum w)
  | .syswrFactbase w => riOk Sig.syswrFactbase w && [0x021].contains (sysNum w)
  | .syswrRecbase w => riOk Sig.syswrRecbase w && [0x020].contains (sysNum w)
  | .syswrTrapvec w => riOk Sig.syswrTrapvec w && [0x022].contains (sysNum w)
  | .syswrTrnxAsat w => riOk Sig.syswrTrnxAsat w && [4, 5].contains (sysNum w)
  | .syswrArr w => riOk Sig.syswrArr w && [0x040].contains (sysNum w)
  | .tret w => riOk Sig.tret w
  | .runIssue _ _ => true
  | .groupResume _ _ => true
  | .operandLogReplay _ _ => true
  | .residencyFaultService _ _ => true
  | .pageMove _ _ _ => true
  | .hostPageDeadline slot => slot < 16
  | .pageResponse slot _ => slot < 16
  | .apertureWrite slot off data => slot < 16 && off + data.length ≤ 65536
  | .recordFill _ _ _ => true
  | .storePerform _ _ => true
  | .atomicServiceRequest _ => true
  | .dataFrame _ => true
  | .acknowledgement _ => true
  | .keepalive _ => true
  | .frameResend _ _ => true
  | .handshake p => p.setup.all (fun q => q.net.port < 8 && 1472 ≤ q.net.payload && q.net.payload ≤ 9000)
  | .rekey _ => true
  | .peerLost _ _ _ => true
  | .cwaitTimeout _ _ => true
  | .ethernetFrame port _ => port < 8
  | .windowMap _ _ => true
  | .windowUnmap _ => true
  | .bindWindowCounter win k _ task => win < 4096 && k ≤ 64 && task < 65536
  | .registerStampedRegion _ _ _ => true
  | .registerLoggedRegion _ _ _ _ => true
  | .undoAreaSize slice size => slice < 1024 && size % 65536 == 0 && 65536 ≤ size && size ≤ 16777216
  | .pruneSweep slice => slice < 1024
  | .addCutting _ bed core => bed < 4096 && core < 16
  | .messageInstallation _ _ => true
  | .queueDescriptorWrite q _ => q < 131072
  | .doorbell port q _ => port < 2 && q < 131072
  | .admission _ => true
  | .taskDecrement => true
  | .placement _ => true
  | .gangAging _ => true
  | .transformBinding _ _ => true
  | .teamStart _ => true
  | .groupRetire _ _ => true
  | .shareRetire _ _ => true
  | .taskCompletion _ => true
  | .taskKill task => task < 65536
  | .kill _ _ => true
  | .preemptionRequest _ => true
  | .contextSave _ => true
  | .contextRestore _ => true
  | .asyncCauseDelivery _ _ => true
  | .matrixEngineReset _ => true
  | .flitReceive link _ seq _ => link < 28 && seq < 1024
  | .flitReplay _ _ _ => true
  | .retrain edge _ _ => edge < 14
  | .attestationRequest _ => true
  | .freeze => true
  | .powerOnReset images => 1 ≤ images.length && images.length ≤ 8
  | .clockGatedIdle _ => true
  | .keepaliveReceipt _ => true
  | .loopbackLanding _ _ => true
  | .counterCopyUpdate _ _ => true
  | .sweepCompletion => true
  | .instructionLineFetch _ _ => true
  | .bindingRemoval _ => true
  | .overflowAreaReclaim _ _ => true
  | .hostLinkTraining port width => port < 2 && [16, 8, 4, 2, 1].contains width
  | .unassignedOpcode w => !assignedOps.contains (fldN w 88 8)

end Sys2Proof
end

