-- ==== Sys2Proof/Decode.lean ====
section
/-! DEFINITION. The decoder of instruction words and the encoder, both from the formats of R410 to R423. -/

namespace Sys2Proof

/-- Why a word is no instruction: its OP is unassigned (R432), or a field of it is faulty (R411 step 4). -/
inductive DecodeError where
  | unassigned
  | badField (op : Byte)
  deriving DecidableEq, Repr

/-- A one-bit field as a truth value. -/
def flag {n : Nat} (w : BitVec n) (i : Nat) : Bool := w.getLsbD i

/-- A truth value as a one-bit field. -/
def bit (x : Bool) : BitVec 1 := BitVec.ofBool x

/-- Reads a source field (R412) or a plain index (R414), as its kind says. -/
def readSrc (k : SrcKind) (f : BitVec 12) : Src :=
  match k with
  | .zero | .idx _ | .side => .idx f
  | .vDst => .v (fld f 1 8)
  | _ =>
    match (fld f 10 2).toNat with
    | 0 => .v (fld f 0 8)
    | 1 => .s (fld f 0 10)
    | 2 => if (fld f 8 2) == 0 then .x (fld f 0 3) else .sp (fld f 0 3)
    | _ => .imm (fld f 0 10)

/-- Writes a source field. -/
def encSrc (k : SrcKind) (x : Src) : BitVec 12 :=
  match k, x with
  | .vDst, .v i => (0#3 ++ i ++ 0#1 : BitVec 12)
  | _, .v i => (0#4 ++ i : BitVec 12)
  | _, .s i => (1#2 ++ i : BitVec 12)
  | _, .x n => (2#2 ++ 0#7 ++ n : BitVec 12)
  | _, .sp n => (2#2 ++ 1#2 ++ 0#5 ++ n : BitVec 12)
  | _, .imm n => (3#2 ++ n : BitVec 12)
  | _, .idx i => i

/-- Reads a destination field (R413) or a plain index in its place; `pw` says that a predicate is written (R474). -/
def readDst (k : DstKind) (pw : Bool) (f : BitVec 11) : Dst :=
  match k, pw with
  | .zero, _ | .idx _, _ | .pred, true => .idx f
  | _, _ => if flag f 10 then .s (fld f 0 10) else .v (fld f 0 8)

/-- Writes a destination field. -/
def encDst (x : Dst) : BitVec 11 :=
  match x with
  | .v i => (0#3 ++ i : BitVec 11)
  | .s i => (1#1 ++ i : BitVec 11)
  | .idx i => i

/-- Reads the header fields below FN (R410). -/
def readHdr (w : InstrWord) : Hdr := { runEnd := flag w 79, noWrite := flag w 78, guard := fld w 74 4 }

/-- Writes OP, FN and the header fields. -/
def encHdr (op fn : Byte) (h : Hdr) : BitVec 22 := (op ++ fn ++ bit h.runEnd ++ bit h.noWrite ++ h.guard : BitVec 22)

/-- Reads a word of format R or I (R415 to R417). -/
def readRI (g : RISig) (w : InstrWord) : RIWord :=
  let im := flag w 87
  let xf : BitVec 13 := if im then (fld w 0 10).setWidth 13 else fld w 0 13
  { hdr := readHdr w, isImm := im, var := fld w 80 7,
    d := readDst g.d (g.d == .pred && fld xf 3 1 == 1) (fld w 63 11),
    a := readSrc (if im && g.immForA then .zero else g.a) (fld w 51 12),
    b := if im then .idx 0 else readSrc g.b (fld w 39 12),
    c := if im then .idx 0 else readSrc g.c (fld w 27 12),
    imm := if im then fld w 19 32 else 0,
    t := if im then fld w 14 5 else fld w 22 5,
    rm := if im then fld w 12 2 else fld w 20 2,
    sat := if im then flag w 11 else flag w 19,
    ftz := if im then flag w 10 else flag w 18,
    t2 := if im then 0 else fld w 13 5,
    xf := xf }

/-- Writes a word of format R or I. -/
def encRI (g : RISig) (x : RIWord) : InstrWord :=
  let h := encHdr g.op (bit x.isImm ++ x.var) x.hdr
  let a := encSrc (if x.isImm && g.immForA then .zero else g.a) x.a
  if x.isImm then
    (h ++ encDst x.d ++ a ++ x.imm ++ x.t ++ x.rm ++ bit x.sat ++ bit x.ftz ++ x.xf.setWidth 10 : BitVec 96)
  else
    (h ++ encDst x.d ++ a ++ encSrc g.b x.b ++ encSrc g.c x.c ++ x.t ++ x.rm ++ bit x.sat ++ bit x.ftz ++ x.t2 ++ x.xf : BitVec 96)

/-- Reads a word of format M (R419). -/
def readM (g : MSig) (w : InstrWord) : MWord :=
  { hdr := readHdr w, op := fld w 82 5, space := fld w 80 2, d := readDst g.d false (fld w 63 11),
    a := readSrc (if g.base then .any else .zero) (fld w 51 12), b := readSrc g.b (fld w 39 12), c := readSrc g.c (fld w 27 12),
    t := fld w 22 5, ord := fld w 20 2, scope := fld w 17 3, prm := flag w 16, wide := flag w 15, off := fld w 0 15 }

/-- Writes a word of format M. -/
def encM (g : MSig) (x : MWord) : InstrWord :=
  (encHdr g.op (0#1 ++ x.op ++ x.space) x.hdr ++ encDst x.d ++ encSrc (if g.base then .any else .zero) x.a ++ encSrc g.b x.b ++
    encSrc g.c x.c ++ x.t ++ x.ord ++ x.scope ++ bit x.prm ++ bit x.wide ++ x.off : BitVec 96)

/-- Reads a side descriptor (R421). -/
def readSide (f : BitVec 11) : Side := { sel := fld f 9 2, num := fld f 4 5, lay := fld f 0 4 }

/-- Writes a side descriptor. -/
def encSide (x : Side) : BitVec 11 := (x.sel ++ x.num ++ x.lay : BitVec 11)

/-- Reads a suffix operand (R420). -/
def readSfx (f : BitVec 9) : Sfx := if flag f 8 then .imm (fld f 0 8) else .s (fld f 0 8)

/-- Writes a suffix operand. -/
def encSfx (x : Sfx) : BitVec 9 :=
  match x with
  | .s i => (0#1 ++ i : BitVec 9)
  | .imm k => (1#1 ++ k : BitVec 9)

/-- OP of a copy command (R464). -/
def CopyOp.op : CopyOp → Byte
  | .cpy => 0xB0
  | .gth | .sct => 0xB1
  | .cpyz => 0xB2
  | .cpyf => 0xB3

/-- Reads a word of format E (R420). -/
def readE (w : InstrWord) : EWord :=
  { hdr := readHdr w, stg := flag w 80, tdec := flag w 81, sts := flag w 82, ver := flag w 83,
    dside := readSide (fld w 63 11), sside := readSide (fld w 52 11), xl := fld w 48 4, dim := fld w 45 3,
    p0 := readSfx (fld w 36 9), p1 := readSfx (fld w 27 9), p2 := readSfx (fld w 18 9), p3 := readSfx (fld w 9 9), p4 := readSfx (fld w 0 9) }

/-- Writes a word of format E. -/
def encE (k : CopyOp) (x : EWord) : InstrWord :=
  (encHdr k.op (0#3 ++ bit (k == .sct) ++ bit x.ver ++ bit x.sts ++ bit x.tdec ++ bit x.stg) x.hdr ++ encSide x.dside ++ encSide x.sside ++
    x.xl ++ x.dim ++ encSfx x.p0 ++ encSfx x.p1 ++ encSfx x.p2 ++ encSfx x.p3 ++ encSfx x.p4 : BitVec 96)

/-- OP of a matrix instruction (R447, R452, R521). -/
def MatOp.op : MatOp → Byte
  | .mma => 0xC0
  | .mmab => 0xC1
  | .mmat => 0xC2
  | .aclr => 0xC3
  | .adrn => 0xC4

/-- Reads a word of format Q (R422). -/
def readQ (w : InstrWord) : QWord :=
  { hdr := readHdr w, tq := flag w 73, tile := fld w 67 6, x := readSide (fld w 56 11), y := readSide (fld w 45 11), z := readSide (fld w 34 11),
    ta := fld w 29 5, tb := fld w 24 5, tc := fld w 19 5, zc := flag w 18, tr := flag w 17, cnt := fld w 11 6 }

/-- Writes a word of format Q. -/
def encQ (k : MatOp) (x : QWord) : InstrWord :=
  (encHdr k.op 0 x.hdr ++ bit x.tq ++ x.tile ++ encSide x.x ++ encSide x.y ++ encSide x.z ++ x.ta ++ x.tb ++ x.tc ++ bit x.zc ++ bit x.tr ++ x.cnt ++ 0#11 : BitVec 96)

/-- Decodes a word of an opcode of format R or I: the fields must obey the opcode's rules, and no other bit may be set (R411, R414). -/
def decRI (g : RISig) (k : RIWord → Instr) (w : InstrWord) : Except DecodeError Instr :=
  let x := readRI g w
  if riOk g x && encRI g x == w then .ok (k x) else .error (.badField g.op)

/-- Decodes a word of an opcode of format M. -/
def decM (g : MSig) (k : MWord → Instr) (w : InstrWord) : Except DecodeError Instr :=
  let x := readM g w
  if mOk g x && encM g x == w then .ok (k x) else .error (.badField g.op)

/-- Decodes a word of format E. -/
def decE (c : CopyOp) (k : EWord → Instr) (w : InstrWord) : Except DecodeError Instr :=
  let x := readE w
  if eOk c x && encE c x == w then .ok (k x) else .error (.badField c.op)

/-- Decodes a word of format Q. -/
def decQ (c : MatOp) (k : QWord → Instr) (w : InstrWord) : Except DecodeError Instr :=
  let x := readQ w
  if qOk c x && encQ c x == w then .ok (k x) else .error (.badField c.op)

/-- SYSWR words by the register they name: the registers with a row of their own, and the others (R97, R550). -/
def syswrOf (x : RIWord) : Instr :=
  match sysNum x with
  | 0x010 => .syswrGstep x
  | 0x021 => .syswrFactbase x
  | 0x020 => .syswrRecbase x
  | 0x022 => .syswrTrapvec x
  | 4 => .syswrTrnxAsat x
  | 5 => .syswrTrnxAsat x
  | 0x040 => .syswrArr x
  | _ => .syswr x

/-- Decodes a word whose OP is `op` (R432). -/
def decodeOp (op : Nat) (w : InstrWord) : Except DecodeError Instr :=
  match op with
  | 0x00 => if w.setWidth 79 == 0 && fldN w 80 8 == 0 then .ok (.nop (flag w 79)) else .error (.badField 0)
  | 0x01 => decRI Sig.bra .bra w
  | 0x02 => decRI Sig.jmp .jmp w
  | 0x03 => if flag w 87 then decRI Sig.call .call w else decRI Sig.callReg .callReg w
  | 0x04 => decRI Sig.ret .ret w
  | 0x05 => decRI Sig.exit .exit w
  | 0x06 => decRI Sig.trap .trap w
  | 0x07 => decRI Sig.brk .brk w
  | 0x08 => decRI Sig.join .join w
  | 0x09 => decRI Sig.leave .leave w
  | 0x0A => decRI Sig.wait .wait w
  | 0x0B => if flag w 87 then decRI Sig.meet .meet w else if fldN w 80 7 == 1 then decRI Sig.meetClr .meetClr w else decRI Sig.meetReg .meetReg w
  | 0x0C => if fldN w 80 7 == 1 then decRI Sig.mskopAnd .mskopAnd w else if fldN w 80 7 == 2 then decRI Sig.mskopOr .mskopOr w else if fldN w 80 7 == 3 then decRI Sig.mskopXor .mskopXor w else if fldN w 80 7 == 4 then decRI Sig.mskopAndn .mskopAndn w else if fldN w 80 7 == 5 then decRI Sig.mskopRd .mskopRd w else decRI Sig.mskopMov .mskopMov w
  | 0x0D => if flag w 87 then decRI Sig.graft .graft w else decRI Sig.graftReg .graftReg w
  | 0x0E => decRI Sig.migr .migr w
  | 0x20 => decRI Sig.iadd .iadd w
  | 0x21 => decRI Sig.isub .isub w
  | 0x22 => decRI Sig.imul .imul w
  | 0x23 => decRI Sig.imad .imad w
  | 0x24 => decRI Sig.imin .imin w
  | 0x25 => decRI Sig.imax .imax w
  | 0x26 => decRI Sig.iabs .iabs w
  | 0x27 => decRI Sig.icmp .icmp w
  | 0x28 => decRI Sig.and .and w
  | 0x29 => decRI Sig.or .or w
  | 0x2A => decRI Sig.xor .xor w
  | 0x2B => decRI Sig.shl .shl w
  | 0x2C => if fldN w 80 7 == 1 then decRI Sig.shrA .shrA w else decRI Sig.shr .shr w
  | 0x2D => decRI Sig.bfe .bfe w
  | 0x2E => decRI Sig.bfi .bfi w
  | 0x2F => decRI Sig.popc .popc w
  | 0x30 => decRI Sig.clz .clz w
  | 0x31 => decRI Sig.brev .brev w
  | 0x32 => decRI Sig.mov .mov w
  | 0x33 => decRI Sig.movi .movi w
  | 0x34 => decRI Sig.sel .sel w
  | 0x35 => decRI Sig.addr .addr w
  | 0x36 => decRI Sig.plop .plop w
  | 0x40 => decRI Sig.fadd .fadd w
  | 0x41 => decRI Sig.fmul .fmul w
  | 0x42 => decRI Sig.fma .fma w
  | 0x43 => decRI Sig.fmin .fmin w
  | 0x44 => decRI Sig.fmax .fmax w
  | 0x45 => decRI Sig.fcmp .fcmp w
  | 0x46 => decRI Sig.frcp .frcp w
  | 0x47 => decRI Sig.frsq .frsq w
  | 0x48 => decRI Sig.fsqrt .fsqrt w
  | 0x49 => decRI Sig.fexp .fexp w
  | 0x4A => decRI Sig.flog .flog w
  | 0x4B => decRI Sig.ftanh .ftanh w
  | 0x4C => decRI Sig.fclass .fclass w
  | 0x60 => decRI Sig.cvt .cvt w
  | 0x61 => decRI Sig.pack .pack w
  | 0x62 => decRI Sig.unpk .unpk w
  | 0x63 => decRI Sig.shfl .shfl w
  | 0x64 => decRI Sig.vote .vote w
  | 0x65 => decRI Sig.redx .redx w
  | 0x66 => decRI Sig.prfx .prfx w
  | 0x67 => decRI Sig.matchLanes .matchLanes w
  | 0x70 => decM MSig.ld .ld w
  | 0x71 => decM MSig.st .st w
  | 0x72 => decM MSig.ldt .ldt w
  | 0x73 => decM MSig.stt .stt w
  | 0x74 => decM MSig.ldv .ldv w
  | 0x75 => if fldN w 82 5 == 1 then decM MSig.swldRaw .swldRaw w else decM MSig.swld .swld w
  | 0x78 => if fldN w 82 5 == 1 then decM (MSig.atom 1) .atomMin w else if fldN w 82 5 == 2 then decM (MSig.atom 2) .atomMax w else if fldN w 82 5 == 3 then decM (MSig.atom 3) .atomAnd w else if fldN w 82 5 == 4 then decM (MSig.atom 4) .atomOr w else if fldN w 82 5 == 5 then decM (MSig.atom 5) .atomXor w else if fldN w 82 5 == 6 then decM (MSig.atom 6) .atomExch w else decM (MSig.atom 0) .atomAdd w
  | 0x79 => decM MSig.atomf .atomf w
  | 0x7A => decM MSig.acas .acas w
  | 0x7B => decM MSig.red .red w
  | 0x7C => decM MSig.swadd .swadd w
  | 0x7D => decM MSig.enq .enq w
  | 0x7E => decM MSig.deq .deq w
  | 0x90 => decRI Sig.fence .fence w
  | 0x91 => decRI Sig.rfence .rfence w
  | 0x92 => decRI Sig.cwait .cwait w
  | 0x93 => decRI Sig.wcnt .wcnt w
  | 0x94 => decRI Sig.bar .bar w
  | 0x95 => if fldN w 80 7 == 1 then decRI Sig.stgwaitFull .stgwaitFull w else decRI Sig.stgwaitEmpty .stgwaitEmpty w
  | 0x96 => decRI Sig.stgfree .stgfree w
  | 0xA0 => decRI Sig.lset .lset w
  | 0xA1 => decRI Sig.lmode .lmode w
  | 0xA2 => decRI Sig.lchain .lchain w
  | 0xA3 => decRI Sig.lpart .lpart w
  | 0xA4 => decRI Sig.ltrans .ltrans w
  | 0xA5 => if fldN w 80 7 == 1 then decRI Sig.lflatAll .lflatAll w else decRI Sig.lflat .lflat w
  | 0xA6 => decRI Sig.lswz .lswz w
  | 0xA7 => decRI Sig.lchk .lchk w
  | 0xA8 => decRI Sig.lbcd .lbcd w
  | 0xA9 => decRI Sig.lget .lget w
  | 0xAA => decRI Sig.hbind .hbind w
  | 0xAB => decRI Sig.hflush .hflush w
  | 0xAC => decRI Sig.hinfo .hinfo w
  | 0xAD => decRI Sig.obres .obres w
  | 0xAE => decRI Sig.obrel .obrel w
  | 0xB0 => decE .cpy .cpy w
  | 0xB1 => if flag w 84 then decE .sct .cpygSct w else decE .gth .cpygGth w
  | 0xB2 => decE .cpyz .cpyz w
  | 0xB3 => decE .cpyf .cpyf w
  | 0xC0 => decQ .mma .mma w
  | 0xC1 => decQ .mmab .mmab w
  | 0xC2 => decQ .mmat .mmat w
  | 0xC3 => decQ .aclr .aclr w
  | 0xC4 => decQ .adrn .adrn w
  | 0xC5 => if fldN w 80 7 == 1 then decRI Sig.axfrWr .axfrWr w else decRI Sig.axfrRd .axfrRd w
  | 0xC8 => decRI Sig.mloop .mloop w
  | 0xC9 => decRI Sig.mjmp .mjmp w
  | 0xCA => decRI Sig.mend .mend w
  | 0xD0 => decRI Sig.tlaunch .tlaunch w
  | 0xD1 => decRI Sig.tdec .tdec w
  | 0xD4 => decRI Sig.stepadv .stepadv w
  | 0xD5 => decRI Sig.steprd .steprd w
  | 0xD6 => decRI Sig.swfold .swfold w
  | 0xD7 => decRI Sig.swmrg .swmrg w
  | 0xE0 => decM MSig.nmld .nmld w
  | 0xE1 => decM MSig.nmst .nmst w
  | 0xE2 => decM MSig.nmlog .nmlog w
  | 0xE3 => decRI Sig.nmcommit .nmcommit w
  | 0xE4 => decRI Sig.nmabort .nmabort w
  | 0xF0 => decRI Sig.sysrd .sysrd w
  | 0xF1 => decRI Sig.syswr syswrOf w
  | 0xF2 => decRI Sig.tret .tret w
  | _ => .error .unassigned

/-- Decodes an instruction word: total on any 96 bits, refusing by name (R411, R432, R439). -/
def decode (w : InstrWord) : Except DecodeError Instr := decodeOp (fldN w 88 8) w

/-- The word of an instruction; an event has none. -/
def encode : Instr → Option InstrWord
  | .nop b => some (0#16 ++ bit b ++ 0#79 : BitVec 96)
  | .bra w => some (encRI Sig.bra w)
  | .jmp w => some (encRI Sig.jmp w)
  | .call w => some (encRI Sig.call w)
  | .callReg w => some (encRI Sig.callReg w)
  | .ret w => some (encRI Sig.ret w)
  | .exit w => some (encRI Sig.exit w)
  | .trap w => some (encRI Sig.trap w)
  | .brk w => some (encRI Sig.brk w)
  | .join w => some (encRI Sig.join w)
  | .leave w => some (encRI Sig.leave w)
  | .wait w => some (encRI Sig.wait w)
  | .meet w => some (encRI Sig.meet w)
  | .meetReg w => some (encRI Sig.meetReg w)
  | .meetClr w => some (encRI Sig.meetClr w)
  | .mskopMov w => some (encRI Sig.mskopMov w)
  | .mskopAnd w => some (encRI Sig.mskopAnd w)
  | .mskopOr w => some (encRI Sig.mskopOr w)
  | .mskopXor w => some (encRI Sig.mskopXor w)
  | .mskopAndn w => some (encRI Sig.mskopAndn w)
  | .mskopRd w => some (encRI Sig.mskopRd w)
  | .graft w => some (encRI Sig.graft w)
  | .graftReg w => some (encRI Sig.graftReg w)
  | .migr w => some (encRI Sig.migr w)
  | .iadd w => some (encRI Sig.iadd w)
  | .isub w => some (encRI Sig.isub w)
  | .imul w => some (encRI Sig.imul w)
  | .imad w => some (encRI Sig.imad w)
  | .imin w => some (encRI Sig.imin w)
  | .imax w => some (encRI Sig.imax w)
  | .iabs w => some (encRI Sig.iabs w)
  | .icmp w => some (encRI Sig.icmp w)
  | .and w => some (encRI Sig.and w)
  | .or w => some (encRI Sig.or w)
  | .xor w => some (encRI Sig.xor w)
  | .shl w => some (encRI Sig.shl w)
  | .shr w => some (encRI Sig.shr w)
  | .shrA w => some (encRI Sig.shrA w)
  | .bfe w => some (encRI Sig.bfe w)
  | .bfi w => some (encRI Sig.bfi w)
  | .popc w => some (encRI Sig.popc w)
  | .clz w => some (encRI Sig.clz w)
  | .brev w => some (encRI Sig.brev w)
  | .mov w => some (encRI Sig.mov w)
  | .movi w => some (encRI Sig.movi w)
  | .sel w => some (encRI Sig.sel w)
  | .addr w => some (encRI Sig.addr w)
  | .plop w => some (encRI Sig.plop w)
  | .fadd w => some (encRI Sig.fadd w)
  | .fmul w => some (encRI Sig.fmul w)
  | .fma w => some (encRI Sig.fma w)
  | .fmin w => some (encRI Sig.fmin w)
  | .fmax w => some (encRI Sig.fmax w)
  | .fcmp w => some (encRI Sig.fcmp w)
  | .fclass w => some (encRI Sig.fclass w)
  | .frcp w => some (encRI Sig.frcp w)
  | .frsq w => some (encRI Sig.frsq w)
  | .fsqrt w => some (encRI Sig.fsqrt w)
  | .fexp w => some (encRI Sig.fexp w)
  | .flog w => some (encRI Sig.flog w)
  | .ftanh w => some (encRI Sig.ftanh w)
  | .cvt w => some (encRI Sig.cvt w)
  | .pack w => some (encRI Sig.pack w)
  | .unpk w => some (encRI Sig.unpk w)
  | .shfl w => some (encRI Sig.shfl w)
  | .vote w => some (encRI Sig.vote w)
  | .redx w => some (encRI Sig.redx w)
  | .prfx w => some (encRI Sig.prfx w)
  | .matchLanes w => some (encRI Sig.matchLanes w)
  | .ld w => some (encM MSig.ld w)
  | .ldv w => some (encM MSig.ldv w)
  | .ldt w => some (encM MSig.ldt w)
  | .st w => some (encM MSig.st w)
  | .stt w => some (encM MSig.stt w)
  | .swld w => some (encM MSig.swld w)
  | .swldRaw w => some (encM MSig.swldRaw w)
  | .atomAdd w => some (encM (MSig.atom 0) w)
  | .atomMin w => some (encM (MSig.atom 1) w)
  | .atomMax w => some (encM (MSig.atom 2) w)
  | .atomAnd w => some (encM (MSig.atom 3) w)
  | .atomOr w => some (encM (MSig.atom 4) w)
  | .atomXor w => some (encM (MSig.atom 5) w)
  | .atomExch w => some (encM (MSig.atom 6) w)
  | .atomf w => some (encM MSig.atomf w)
  | .acas w => some (encM MSig.acas w)
  | .red w => some (encM MSig.red w)
  | .swadd w => some (encM MSig.swadd w)
  | .enq w => some (encM MSig.enq w)
  | .deq w => some (encM MSig.deq w)
  | .fence w => some (encRI Sig.fence w)
  | .rfence w => some (encRI Sig.rfence w)
  | .cwait w => some (encRI Sig.cwait w)
  | .wcnt w => some (encRI Sig.wcnt w)
  | .bar w => some (encRI Sig.bar w)
  | .stgwaitEmpty w => some (encRI Sig.stgwaitEmpty w)
  | .stgwaitFull w => some (encRI Sig.stgwaitFull w)
  | .stgfree w => some (encRI Sig.stgfree w)
  | .lset w => some (encRI Sig.lset w)
  | .lmode w => some (encRI Sig.lmode w)
  | .lchain w => some (encRI Sig.lchain w)
  | .lpart w => some (encRI Sig.lpart w)
  | .ltrans w => some (encRI Sig.ltrans w)
  | .lflat w => some (encRI Sig.lflat w)
  | .lflatAll w => some (encRI Sig.lflatAll w)
  | .lswz w => some (encRI Sig.lswz w)
  | .lchk w => some (encRI Sig.lchk w)
  | .lbcd w => some (encRI Sig.lbcd w)
  | .lget w => some (encRI Sig.lget w)
  | .hbind w => some (encRI Sig.hbind w)
  | .hflush w => some (encRI Sig.hflush w)
  | .hinfo w => some (encRI Sig.hinfo w)
  | .obres w => some (encRI Sig.obres w)
  | .obrel w => some (encRI Sig.obrel w)
  | .cpy w => some (encE .cpy w)
  | .cpygGth w => some (encE .gth w)
  | .cpygSct w => some (encE .sct w)
  | .cpyz w => some (encE .cpyz w)
  | .cpyf w => some (encE .cpyf w)
  | .copyStart _ => none
  | .copyCompletion _ => none
  | .mma w => some (encQ .mma w)
  | .mmab w => some (encQ .mmab w)
  | .mmat w => some (encQ .mmat w)
  | .aclr w => some (encQ .aclr w)
  | .adrn w => some (encQ .adrn w)
  | .matrixInstructionStart _ _ _ => none
  | .matrixCommit _ _ => none
  | .adrnCompletion _ _ => none
  | .axfrRd w => some (encRI Sig.axfrRd w)
  | .axfrWr w => some (encRI Sig.axfrWr w)
  | .mloop w => some (encRI Sig.mloop w)
  | .mjmp w => some (encRI Sig.mjmp w)
  | .mend w => some (encRI Sig.mend w)
  | .tlaunch w => some (encRI Sig.tlaunch w)
  | .tdec w => some (encRI Sig.tdec w)
  | .stepadv w => some (encRI Sig.stepadv w)
  | .steprd w => some (encRI Sig.steprd w)
  | .swfold w => some (encRI Sig.swfold w)
  | .swmrg w => some (encRI Sig.swmrg w)
  | .nmld w => some (encM MSig.nmld w)
  | .nmst w => some (encM MSig.nmst w)
  | .nmlog w => some (encM MSig.nmlog w)
  | .nmcommit w => some (encRI Sig.nmcommit w)
  | .nmabort w => some (encRI Sig.nmabort w)
  | .sysrd w => some (encRI Sig.sysrd w)
  | .syswr w => some (encRI Sig.syswr w)
  | .syswrGstep w => some (encRI Sig.syswrGstep w)
  | .syswrFactbase w => some (encRI Sig.syswrFactbase w)
  | .syswrRecbase w => some (encRI Sig.syswrRecbase w)
  | .syswrTrapvec w => some (encRI Sig.syswrTrapvec w)
  | .syswrTrnxAsat w => some (encRI Sig.syswrTrnxAsat w)
  | .syswrArr w => some (encRI Sig.syswrArr w)
  | .tret w => some (encRI Sig.tret w)
  | .runIssue _ _ => none
  | .groupResume _ _ => none
  | .operandLogReplay _ _ => none
  | .residencyFaultService _ _ => none
  | .pageMove _ _ _ => none
  | .hostPageDeadline _ => none
  | .pageResponse _ _ => none
  | .apertureWrite _ _ _ => none
  | .recordFill _ _ _ => none
  | .storePerform _ _ => none
  | .atomicServiceRequest _ => none
  | .dataFrame _ => none
  | .acknowledgement _ => none
  | .keepalive _ => none
  | .frameResend _ _ => none
  | .handshake _ => none
  | .rekey _ => none
  | .peerLost _ _ _ => none
  | .cwaitTimeout _ _ => none
  | .ethernetFrame _ _ => none
  | .windowMap _ _ => none
  | .windowUnmap _ => none
  | .bindWindowCounter _ _ _ _ => none
  | .registerStampedRegion _ _ _ => none
  | .registerLoggedRegion _ _ _ _ => none
  | .undoAreaSize _ _ => none
  | .pruneSweep _ => none
  | .addCutting _ _ _ => none
  | .messageInstallation _ _ => none
  | .queueDescriptorWrite _ _ => none
  | .doorbell _ _ _ => none
  | .admission _ => none
  | .taskDecrement => none
  | .placement _ => none
  | .gangAging _ => none
  | .transformBinding _ _ => none
  | .teamStart _ => none
  | .groupRetire _ _ => none
  | .shareRetire _ _ => none
  | .taskCompletion _ => none
  | .taskKill _ => none
  | .kill _ _ => none
  | .preemptionRequest _ => none
  | .contextSave _ => none
  | .contextRestore _ => none
  | .asyncCauseDelivery _ _ => none
  | .matrixEngineReset _ => none
  | .flitReceive _ _ _ _ => none
  | .flitReplay _ _ _ => none
  | .retrain _ _ _ => none
  | .attestationRequest _ => none
  | .freeze => none
  | .powerOnReset _ => none
  | .clockGatedIdle _ => none
  | .keepaliveReceipt _ => none
  | .loopbackLanding _ _ => none
  | .counterCopyUpdate _ _ => none
  | .sweepCompletion => none
  | .instructionLineFetch _ _ => none
  | .bindingRemoval _ => none
  | .overflowAreaReclaim _ _ => none
  | .hostLinkTraining _ _ => none
  | .unassignedOpcode w => some w

/-- Is the instruction encoded by a word? -/
def Instr.isWord (i : Instr) : Bool := (encode i).isSome

/-- The instruction that the decoder reads from the word `w` of the opcode table's numbering; every instruction is one 96-bit word. -/
def decodeTableWord (nbits w : Nat) : Option Instr :=
  if nbits ≤ 96 then
    match decode (BitVec.ofNat 96 w) with
    | .ok i => some i
    | .error .unassigned => some (.unassignedOpcode (BitVec.ofNat 96 w))
    | .error (.badField _) => none
  else none

end Sys2Proof
end

