-- ==== Sys2Proof/Machine/Sparse.lean ====
section
/-! DEFINITION. Maps from numbers to data held as lists: keys strictly rising, and no entry equal to what an unlisted key reads as. -/

namespace Sys2Proof.Machine

/-- What key `k` holds; `d` where nothing is listed. It reads every list alike, in canonical form or not. -/
def spGet {α : Type} (d : α) : List (Nat × α) → Nat → α
  | [], _ => d
  | (j, x) :: r, k => if j = k then x else spGet d r k

/-- Puts an entry in its place, replacing the key's old one. -/
def spIns {α : Type} (k : Nat) (x : α) : List (Nat × α) → List (Nat × α)
  | [] => [(k, x)]
  | (j, y) :: r => if j = k then (k, x) :: r else if k < j then (k, x) :: (j, y) :: r else (j, y) :: spIns k x r

/-- Removes a key's entry. -/
def spDel {α : Type} (k : Nat) : List (Nat × α) → List (Nat × α)
  | [] => []
  | (j, y) :: r => if j = k then spDel k r else (j, y) :: spDel k r

/-- Makes key `k` hold `x`; an entry equal to `d` is not kept. -/
def spPut {α : Type} [DecidableEq α] (d : α) (m : List (Nat × α)) (k : Nat) (x : α) : List (Nat × α) :=
  if x = d then spDel k m else spIns k x m

/-- Are the keys strictly rising from `lo`, with no entry equal to `d`? -/
def spWfFrom {α : Type} [DecidableEq α] (d : α) : Nat → List (Nat × α) → Bool
  | _, [] => true
  | lo, (k, x) :: r => decide (lo ≤ k) && decide (x ≠ d) && spWfFrom d (k + 1) r

/-- The canonical form. -/
def spWf {α : Type} [DecidableEq α] (d : α) (m : List (Nat × α)) : Bool := spWfFrom d 0 m

/-- The entry of a key, if one is listed. -/
def spFind {α : Type} (m : List (Nat × α)) (k : Nat) : Option α := (m.find? (·.1 == k)).map (·.2)

end Sys2Proof.Machine
end

