-- ==== Sys2Proof/Machine/Bits.lean ====
section
/-! DEFINITION. Byte order, sign extension, lanes, and CRC-32C. -/

namespace Sys2Proof.Machine

/-- The number whose bytes are listed lowest first (R3). -/
def bytesNat : List Byte → Nat
  | [] => 0
  | b :: r => b.toNat + 256 * bytesNat r

/-- The `n` low bytes of a number, lowest first (R3). -/
def natBytes : Nat → Nat → List Byte
  | 0, _ => []
  | n + 1, x => BitVec.ofNat 8 (x % 256) :: natBytes n (x / 256)

/-- A number of `w` bits read as two's complement. -/
def signedOf (w x : Nat) : Int := if x < 2 ^ (w - 1) then (x : Int) else (x : Int) - 2 ^ w

/-- The low `w` bits of an integer in two's complement. -/
def wrapTo (w : Nat) (x : Int) : Nat := (x % (2 ^ w : Int)).toNat

/-- A number of `w` bits sign-extended to 64 bits. -/
def sext64 (w x : Nat) : DWord := BitVec.ofInt 64 (signedOf w x)

/-- The lane numbers 0 to 15. -/
def laneList : List Nat := [0, 1, 2, 3, 4, 5, 6, 7, 8, 9, 10, 11, 12, 13, 14, 15]

/-- Is lane `l` in the mask? -/
def inMask (m : Lanes) (l : Nat) : Bool := m.getLsbD l

/-- The lanes for which `f` holds. -/
def maskOf (f : Nat → Bool) : Lanes := BitVec.ofNat 16 (laneList.foldl (fun a l => if f l then a + 2 ^ l else a) 0)

/-- The lanes of a mask, lowest first. -/
def lanesOf (m : Lanes) : List Nat := laneList.filter (inMask m)

/-- The lowest lane of a mask. -/
def lowestLane (m : Lanes) : Option Nat := (lanesOf m).head?

/-- One bit step of the reflected CRC-32C (R168). -/
def crcBit (c : Nat) : Nat := if c % 2 = 1 then (c / 2) ^^^ 0x82F63B78 else c / 2

/-- One byte step of CRC-32C. -/
def crcByte (c : Nat) (b : Byte) : Nat := crcBit (crcBit (crcBit (crcBit (crcBit (crcBit (crcBit (crcBit (c ^^^ b.toNat))))))))

/-- CRC-32C of a string of bytes (R168). -/
def crc32c (bs : List Byte) : Nat := (bs.foldl crcByte 0xFFFFFFFF) ^^^ 0xFFFFFFFF

/-- Distributes a list of `k` items over their positions: the item at `i`, or `d`. -/
def nth {α : Type} (d : α) (l : List α) (i : Nat) : α := l.getD i d

/-- Replaces the item at position `i`. -/
def setNth {α : Type} : List α → Nat → α → List α
  | [], _, _ => []
  | _ :: r, 0, x => x :: r
  | y :: r, i + 1, x => y :: setNth r i x

/-- The numbers from `lo` up, `n` of them. -/
def upFrom : Nat → Nat → List Nat
  | _, 0 => []
  | lo, n + 1 => lo :: upFrom (lo + 1) n

/-- Rounds up to a multiple of `k`. -/
def roundUp (k n : Nat) : Nat := (n + k - 1) / k * k

/-- Division rounded up. -/
def ceilDiv (n k : Nat) : Nat := (n + k - 1) / k

end Sys2Proof.Machine
end

