-- ==== Sys2Proof/Machine/Float.lean ====
section
/-! DEFINITION. The number formats and their rounding (R141 to R155). -/

namespace Sys2Proof.Machine

/-- A floating format (R141): fraction bits, bias, largest finite code without its sign, the code of infinity if there is one, the canonical NaN if there is one, and its width. -/
structure Fmt where
  m : Nat
  bias : Nat
  maxCode : Nat
  inf : Option Nat
  nan : Option Nat
  width : Nat

def fmt32 : Fmt := { m := 23, bias := 127, maxCode := 0x7F7FFFFF, inf := some 0x7F800000, nan := some 0x7FC00000, width := 32 }
def fmt16 : Fmt := { m := 10, bias := 15, maxCode := 0x7BFF, inf := some 0x7C00, nan := some 0x7E00, width := 16 }
def fmtB16 : Fmt := { m := 7, bias := 127, maxCode := 0x7F7F, inf := some 0x7F80, nan := some 0x7FC0, width := 16 }
def fmtE4M3 : Fmt := { m := 3, bias := 7, maxCode := 0x7E, inf := none, nan := some 0x7F, width := 8 }
def fmtE5M2 : Fmt := { m := 2, bias := 15, maxCode := 0x7B, inf := some 0x7C, nan := some 0x7E, width := 8 }
def fmtE2M1 : Fmt := { m := 1, bias := 1, maxCode := 7, inf := none, nan := none, width := 4 }

/-- The floating format of a type code. -/
def fmtOf (t : Nat) : Option Fmt :=
  match t with
  | 0x10 => some fmt32
  | 0x11 => some fmt16
  | 0x12 => some fmtB16
  | 0x13 => some fmtE4M3
  | 0x14 => some fmtE5M2
  | 0x15 => some fmtE2M1
  | _ => none

/-- A value: NaN, an infinity, or (−1)^neg × m × 2^e. -/
inductive FVal where
  | nan
  | inf (neg : Bool)
  | fin (neg : Bool) (m : Nat) (e : Int)
  deriving DecidableEq, Repr

/-- The value of a code (R141). -/
def fdecode (f : Fmt) (x : Nat) : FVal :=
  let x := x % 2 ^ f.width
  let neg := x / 2 ^ (f.width - 1) = 1
  let code := x % 2 ^ (f.width - 1)
  let isNan : Bool := match f.inf with
    | some i => code > i
    | none => match f.nan with
      | some n => code == n
      | none => false
  if isNan then .nan
  else if f.inf == some code then .inf neg
  else
    let e := code / 2 ^ f.m
    let fr := code % 2 ^ f.m
    if e = 0 then .fin neg fr (1 - (f.bias : Int) - f.m) else .fin neg (2 ^ f.m + fr) ((e : Int) - f.bias - f.m)

/-- A code with its sign bit. -/
def withSign (f : Fmt) (neg : Bool) (code : Nat) : Nat := if neg then code + 2 ^ (f.width - 1) else code

/-- The canonical NaN of a format; +0 for E2M1 (R141, R154). -/
def canonNan (f : Fmt) : Nat := f.nan.getD 0

/-- Rounding modes (R145). -/
inductive RMode where
  | rne
  | rtz
  | rup
  | rdn
  deriving DecidableEq, Repr

/-- The mode of an RM field (R416). -/
def rmOf (x : BitVec 2) : RMode :=
  match x.toNat with
  | 0 => .rne
  | 1 => .rtz
  | 2 => .rup
  | _ => .rdn

/-- Does a magnitude whose integer part is `n`, with remainder `rem` of `2^sh` and a non-zero tail below it when `sticky`, round away from zero? (R145) -/
def roundsUp (rm : RMode) (neg : Bool) (n rem sh : Nat) (sticky : Bool) : Bool :=
  match rm with
  | .rne => if sh = 0 then false else decide (2 ^ (sh - 1) < rem) || (rem == 2 ^ (sh - 1) && (sticky || n % 2 == 1))
  | .rtz => false
  | .rup => !neg && (rem != 0 || sticky)
  | .rdn => neg && (rem != 0 || sticky)

/-- The result of an overflow (R146). -/
def overflowCode (f : Fmt) (rm : RMode) (sat neg : Bool) : Nat :=
  if sat then withSign f neg f.maxCode
  else
    let away := match rm with
      | .rne => true
      | .rtz => false
      | .rup => !neg
      | .rdn => neg
    if f.width = 4 then withSign f neg f.maxCode
    else if away then
      match f.inf with
      | some i => withSign f neg i
      | none => canonNan f
    else withSign f neg f.maxCode

/-- Rounds the magnitude m × 2^e, or a value between it and (m + 1) × 2^e when `sticky`, to a format (R145 to R147). -/
def roundTo (f : Fmt) (rm : RMode) (sat ftz neg : Bool) (m : Nat) (e : Int) (sticky : Bool := false) : Nat :=
  if m = 0 then withSign f neg 0
  else
    let top : Int := (Nat.log2 m : Int) + e
    let emin : Int := 1 - (f.bias : Int)
    let q : Int := max top emin - f.m
    let sh : Int := q - e
    let n0 : Nat := if sh ≤ 0 then m * 2 ^ (-sh).toNat else m / 2 ^ sh.toNat
    let rem : Nat := if sh ≤ 0 then 0 else m % 2 ^ sh.toNat
    let n : Nat := if roundsUp rm neg n0 rem sh.toNat sticky then n0 + 1 else n0
    if n < 2 ^ f.m then (if ftz then withSign f neg 0 else withSign f neg n)
    else
      let k := Nat.log2 n
      let frac := n / 2 ^ (k - f.m) - 2 ^ f.m
      let field : Int := (k : Int) + q + f.bias
      let code : Int := field * 2 ^ f.m + frac
      if code > f.maxCode then overflowCode f rm sat neg else withSign f neg code.toNat

/-- Replaces a subnormal by a zero of its sign (R147). -/
def flushIn (f : Fmt) (ftz : Bool) (x : FVal) : FVal :=
  match x with
  | .fin neg m e => if ftz && decide (m < 2 ^ f.m) && decide (e = 1 - (f.bias : Int) - f.m) then .fin neg 0 0 else .fin neg m e
  | y => y

/-- The code of an infinite result; with `sat` the largest finite value (R146). -/
def infCode (f : Fmt) (sat neg : Bool) : Nat :=
  if sat then withSign f neg f.maxCode
  else match f.inf with
    | some i => withSign f neg i
    | none => if f.width = 4 then withSign f neg f.maxCode else canonNan f

/-- An exact value in a format, rounded; infinities pass and NaN becomes canonical. -/
def fencode (f : Fmt) (rm : RMode) (sat ftz : Bool) (x : FVal) : Nat :=
  match x with
  | .nan => canonNan f
  | .inf neg => infCode f false neg
  | .fin neg m e => roundTo f rm sat ftz neg m e

/-- Sign of an exact sum that is zero (R149). -/
def zeroSumNeg (rm : RMode) (na nb : Bool) : Bool := if na == nb then na else rm == .rdn

/-- The exact sum of two values; a zero carries the sign of R149. -/
def faddExact (rm : RMode) (a b : FVal) : FVal :=
  match a, b with
  | .nan, _ => .nan
  | _, .nan => .nan
  | .inf na, .inf nb => if na == nb then .inf na else .nan
  | .inf na, _ => .inf na
  | _, .inf nb => .inf nb
  | .fin na ma ea, .fin nb mb eb =>
    if ma = 0 ∧ mb = 0 then .fin (zeroSumNeg rm na nb) 0 0
    else if ma = 0 then .fin nb mb eb
    else if mb = 0 then .fin na ma ea
    else
      let e := min ea eb
      let xa : Int := (if na then -1 else 1) * ((ma * 2 ^ (ea - e).toNat : Nat) : Int)
      let xb : Int := (if nb then -1 else 1) * ((mb * 2 ^ (eb - e).toNat : Nat) : Int)
      let x := xa + xb
      if x = 0 then .fin (rm == .rdn) 0 0 else .fin (decide (x < 0)) x.natAbs e

/-- The exact product of two values. -/
def fmulExact (a b : FVal) : FVal :=
  match a, b with
  | .nan, _ => .nan
  | _, .nan => .nan
  | .inf na, .inf nb => .inf (na != nb)
  | .inf na, .fin nb mb _ => if mb = 0 then .nan else .inf (na != nb)
  | .fin na ma _, .inf nb => if ma = 0 then .nan else .inf (na != nb)
  | .fin na ma ea, .fin nb mb eb => .fin (na != nb) (ma * mb) (ea + eb)

/-- Is the value below the other? Both are numbers. -/
def fltVal (a b : FVal) : Bool :=
  match a, b with
  | .inf na, .inf nb => na && !nb
  | .inf na, .fin _ _ _ => na
  | .fin _ _ _, .inf nb => !nb
  | .fin na ma ea, .fin nb mb eb =>
    let e := min ea eb
    let xa : Int := (if na then -1 else 1) * ((ma * 2 ^ (ea - e).toNat : Nat) : Int)
    let xb : Int := (if nb then -1 else 1) * ((mb * 2 ^ (eb - e).toNat : Nat) : Int)
    decide (xa < xb)
  | _, _ => false

/-- Is the value −0? -/
def isNegZero : FVal → Bool
  | .fin n m _ => n && m == 0
  | _ => false

/-- FMIN or FMAX of two values (R148). -/
def fminmaxVal (max_ : Bool) (a b : FVal) : FVal :=
  match a, b with
  | .nan, .nan => .nan
  | .nan, y => y
  | x, .nan => x
  | x, y =>
    if fltVal x y then (if max_ then y else x)
    else if fltVal y x then (if max_ then x else y)
    else if max_ then (if isNegZero x then y else x) else (if isNegZero x then x else y)

/-- FADD in a format (R151, R483). -/
def faddBits (f : Fmt) (rm : RMode) (sat ftz : Bool) (a b : Nat) : Nat :=
  fencode f rm sat ftz (faddExact rm (flushIn f ftz (fdecode f a)) (flushIn f ftz (fdecode f b)))

/-- FMUL in a format (R151, R483). -/
def fmulBits (f : Fmt) (rm : RMode) (sat ftz : Bool) (a b : Nat) : Nat :=
  fencode f rm sat ftz (fmulExact (flushIn f ftz (fdecode f a)) (flushIn f ftz (fdecode f b)))

/-- FMA in a format: one rounding (R151, R483). -/
def fmaBits (f : Fmt) (rm : RMode) (sat ftz : Bool) (a b c : Nat) : Nat :=
  fencode f rm sat ftz (faddExact rm (fmulExact (flushIn f ftz (fdecode f a)) (flushIn f ftz (fdecode f b))) (flushIn f ftz (fdecode f c)))

/-- FMIN or FMAX in a format (R148, R483). -/
def fminmaxBits (f : Fmt) (ftz max_ : Bool) (a b : Nat) : Nat :=
  fencode f .rne false ftz (fminmaxVal max_ (flushIn f ftz (fdecode f a)) (flushIn f ftz (fdecode f b)))

/-- Rounding to FP32 with ties to even (the helper rne32 of the scope). -/
def rne32 (x : FVal) : Nat := fencode fmt32 .rne false false x

/-- The FP32 product rounded to even. -/
def mul32 (a b : Nat) : Nat := fmulBits fmt32 .rne false false a b

/-- The FP32 sum rounded to even. -/
def add32 (a b : Nat) : Nat := faddBits fmt32 .rne false false a b

/-- Is the code a NaN of the format? -/
def isNanCode (f : Fmt) (x : Nat) : Bool := fdecode f x == .nan

/-- FCMP on codes (R148, R485): 0 eq, 1 ne, 2 lt, 3 le, 4 gt, 5 ge, 6 un, 7 ord. -/
def fcmpBits (f : Fmt) (ftz : Bool) (rel : Nat) (a b : Nat) : Bool :=
  let x := flushIn f ftz (fdecode f a)
  let y := flushIn f ftz (fdecode f b)
  let un := x == .nan || y == .nan
  let lt := fltVal x y
  let gt := fltVal y x
  match rel with
  | 0 => !un && !lt && !gt
  | 1 => un || lt || gt
  | 2 => !un && lt
  | 3 => !un && !gt
  | 4 => !un && gt
  | 5 => !un && !lt
  | 6 => un
  | _ => !un

/-- FCLASS of a code (R486). -/
def fclassBits (f : Fmt) (a : Nat) : Nat :=
  match fdecode f a with
  | .nan => 256
  | .inf neg => if neg then 1 else 128
  | .fin neg m e =>
    if m = 0 then (if neg then 8 else 16)
    else if m < 2 ^ f.m ∧ e = 1 - (f.bias : Int) - f.m then (if neg then 4 else 32)
    else (if neg then 2 else 64)

/-- An exact value rounded to an integer under a mode. -/
def roundInt (rm : RMode) (neg : Bool) (m : Nat) (e : Int) : Int :=
  let n0 : Nat := if 0 ≤ e then m * 2 ^ e.toNat else m / 2 ^ (-e).toNat
  let rem : Nat := if 0 ≤ e then 0 else m % 2 ^ (-e).toNat
  let n : Nat := if roundsUp rm neg n0 rem (-e).toNat false then n0 + 1 else n0
  if neg then -(n : Int) else n

/-- The range of an integer type: width and signedness. -/
def intRange (w : Nat) (signed : Bool) : Int × Int :=
  if signed then (-(2 ^ (w - 1) : Int), 2 ^ (w - 1) - 1) else (0, 2 ^ w - 1)

/-- Clamps to a range. -/
def clampInt (r : Int × Int) (x : Int) : Int := max r.1 (min r.2 x)

/-- Conversion of a magnitude to E8M0 (R155). -/
def toE8M0 (rm : RMode) (sat : Bool) (m : Nat) (e : Int) : Nat :=
  if m = 0 then 0
  else
    let lo : Int := (Nat.log2 m : Int) + e
    if lo < -127 then 0
    else
      let pow : Bool := m == 2 ^ Nat.log2 m
      let code : Int := match rm with
        | .rtz | .rdn => lo + 127
        | .rup => if pow then lo + 127 else lo + 128
        | .rne =>
          let twice := 2 * m
          let mid := 3 * 2 ^ Nat.log2 m
          if twice < mid then lo + 127 else if mid < twice then lo + 128
          else if (lo + 127) % 2 = 0 then lo + 127 else lo + 128
      if code > 254 then (if sat then 0xFE else 0xFF) else code.toNat

/-- The value a type's bits stand for: an integer, a float, or a power of two. -/
inductive Num where
  | int (x : Int)
  | flt (x : FVal)
  deriving DecidableEq, Repr

/-- Reads a source of CVT (R143, R154); the flag says that the reserved ternary code was read. -/
def cvtRead (t : BitVec 5) (ftz : Bool) (x : Nat) : Num × Bool :=
  match t.toNat with
  | 0x18 => (.int (match x % 4 with | 1 => 1 | 3 => -1 | _ => 0), x % 4 == 2)
  | 0x17 => (.flt (if x % 256 = 255 then .nan else .fin false 1 ((x % 256 : Nat) - 127)), false)
  | n =>
    match fmtOf n with
    | some f => (.flt (flushIn f ftz (fdecode f x)), false)
    | none =>
      let w := match n with | 1 | 5 => 8 | 2 | 6 => 16 | 4 | 8 => 64 | _ => 32
      (.int (if n ≤ 4 then signedOf w (x % 2 ^ w) else ((x % 2 ^ w : Nat) : Int)), false)

/-- A number as an exact float value. -/
def numFloat : Num → FVal
  | .flt x => x
  | .int x => .fin (decide (x < 0)) x.natAbs 0

/-- A number as an integer, rounded and clamped to a range as a float is (R154). -/
def numInt (rm : RMode) (r : Int × Int) : Num → Int
  | .int x => clampInt r x
  | .flt .nan => 0
  | .flt (.inf neg) => if neg then r.1 else r.2
  | .flt (.fin neg m e) => clampInt r (roundInt rm neg m e)

/-- Is every value of the source type a value of the target (R154)? -/
def widens (src dst : Nat) : Bool :=
  match src, dst with
  | 0x15, 0x10 | 0x15, 0x11 | 0x15, 0x12 | 0x15, 0x13 | 0x15, 0x14 => true
  | 0x13, 0x10 | 0x13, 0x11 | 0x13, 0x12 | 0x14, 0x10 | 0x14, 0x11 | 0x14, 0x12 => true
  | 0x11, 0x10 | 0x12, 0x10 => true
  | a, b => a == b

/-- Conversion of `x` from type `t2` to type `t` (R154, R155, R470): the bits of the result in its width, and whether TRNX is set. -/
def cvtBits (t t2 : BitVec 5) (rm : RMode) (sat ftz : Bool) (x : Nat) : Nat × Bool :=
  let (v, trnx) := cvtRead t2 ftz x
  let res : Nat :=
    match t.toNat with
    | 0x18 =>
      (match v with
        | .int y => if t2 == 0x18 then wrapTo 2 y else wrapTo 2 (clampInt (-1, 1) y)
        | _ => wrapTo 2 (numInt rm (-1, 1) v))
    | 0x17 =>
      (match t2.toNat, numFloat v with
        | 0x17, .nan => 0xFF
        | _, .nan => 0xFF
        | _, .inf _ => if sat then 0xFE else 0xFF
        | _, .fin _ m e => toE8M0 rm sat m e)
    | n =>
      match fmtOf n with
      | some f =>
        (match numFloat v with
          | .nan => canonNan f
          | .inf neg => infCode f sat neg
          | .fin neg m e => if widens t2.toNat n then roundTo f .rne false false neg m e else roundTo f rm sat ftz neg m e)
      | none =>
        let w := match n with | 1 | 5 => 8 | 2 | 6 => 16 | 4 | 8 => 64 | _ => 32
        let r := intRange w (decide (n ≤ 4))
        (match v with
          | .int y => if sat then wrapTo w (clampInt r y) else wrapTo w y
          | _ => wrapTo w (numInt rm r v))
  (res, trnx)

/-- Places a result of `w` bits in a register or pair (R140): sign-extended for narrow signed integers, zero above otherwise. -/
def placeBits (signed : Bool) (w x : Nat) : DWord :=
  if signed && decide (w < 32) then BitVec.ofNat 64 (wrapTo 32 (signedOf w (x % 2 ^ w))) else BitVec.ofNat 64 (x % 2 ^ w)

end Sys2Proof.Machine
end

