-- ==== Sys2Proof/Machine/State.lean ====
section
/-! DEFINITION. The state of the package as plain data, and the state at power-on. -/

namespace Sys2Proof.Machine

/-- Why no step is possible. -/
inductive Fault where
  /-- Raised by `step` when FREEZE has stopped every clock and no reset is asked for (R400). Safe: the spec says that the package stands still. -/
  | frozen
  /-- Raised by `step` when a refused image holds the package in reset and neither a new reset nor its mailbox is asked for (R401). Safe: the spec says that the package stays in reset. -/
  | heldInReset
  /-- Raised by the meaning of an instruction word when no party is there to issue it. Safe: no run reaches it, since `step` names the party first. -/
  | noParty
  deriving DecidableEq, Repr

/-- Why an instruction has no meaning. -/
inductive Refusal where
  /-- Raised by an arm of `exec` whose instruction has no meaning yet. Safe: the machine stops. -/
  | notModelled (mnemonic : String)
  deriving DecidableEq, Repr

/-- The role of a group (R22). The third role, MATRIX, is the sequencer. -/
inductive Role where
  | copy
  | vector
  deriving DecidableEq, Repr

/-- A party that issues instruction words: a group of a team, the sequencer of a team's share, or a slice thread. -/
inductive Party where
  | group (t g : Nat)
  | seq (t j : Nat)
  | thread (slice k : Nat)
  deriving DecidableEq, Repr

/-- The stores of the package that hold bytes. -/
inductive Store where
  | sram
  | lpddr
  | scratch
  | obuf
  | acc
  deriving DecidableEq, Repr

/-- The place of a byte: a store, the die or core that has it, and the offset within it. -/
structure PAddr where
  store : Store
  unit : Nat
  off : Nat
  deriving DecidableEq, Repr

/-- The four spaces of a lane access (R204). -/
inductive Space where
  | priv
  | team
  | peer
  | glb
  deriving DecidableEq, Repr

/-- What a lane waits for, as HOLD of R310 records it. -/
inductive Hold where
  | runnable
  | exited
  | meet
  | wait (m : Nat)
  | bar (b count : Nat)
  | stg (ring stage : Nat) (full : Bool)
  deriving DecidableEq, Repr

/-- The state of one lane (R20). A register not listed holds zero; `meet` absent means MEET is clear. -/
structure Lane where
  pc : DWord
  meet : Option DWord
  v : List (Nat × Word)
  p : Byte
  hold : Hold
  wcnt : Nat
  deriving DecidableEq, Repr

/-- A register write, with the lanes it writes where the register has lanes. -/
inductive RegWrite where
  | v (r : Nat) (mask : Lanes) (vals : List Word)
  | s (r : Nat) (val : Word)
  | p (r : Nat) (mask vals : Lanes)
  | m (r : Nat) (val : Half)
  | l (r : Nat) (val : LayBits)
  | h (r : Nat) (val : Half)
  | lst (val : Word)
  | bcd (val : Word)
  /-- Sets TRNX of the group's share, which is no register of the group (R95, R96). -/
  | trnx
  deriving DecidableEq, Repr

/-- A result on its way to its register: it is written in cycle `due` of the run (R72, R73). -/
structure Pend where
  due : Nat
  w : RegWrite
  deriving DecidableEq, Repr

/-- The result of a latch producer, a value per lane, present from cycle `due` of the run; `uni` when it was fed by an S destination (R77). -/
structure Latch where
  due : Nat
  uni : Bool
  vals : List Word
  deriving DecidableEq, Repr

/-- The run in progress: the lanes of its PC set, the instructions issued so far, the next issue cycle, the results not yet written, and whether the next instruction is the second of a pair, whether that pair holds a cut point, the issue cycles it has to come, the TIME at which its first half issued, and whether the instruction is held in the slot (R68, R70, R71, R75, R90). -/
structure Run where
  act : Lanes
  count : Nat
  clk : Nat
  pend : List Pend
  second : Bool
  pairCut : Bool
  extra : Nat
  now : DWord
  stalled : Bool
  deriving DecidableEq, Repr

/-- One element of a lane access: its lane, its address, its size in bytes, the destination register's offset from D, the bit where it starts in that register, the datum of a store or the operands of an atomic; `fill` marks an element that a load fills with `data` (R106). -/
structure Elem where
  lane : Nat
  addr : DWord
  size : Nat
  reg : Nat
  sh : Nat
  data : DWord
  data2 : DWord
  fill : Bool
  deriving DecidableEq, Repr

/-- A lane access with its operands read: what the instruction is, where it stands, the lanes that execute it, its space, its lanes, its elements, the registers that an LDT covers, the step of an LDV or the GSTEP that an SWLD observed, and its place in the order of issue. -/
structure Access where
  instr : Instr
  pc : DWord
  ex : Lanes
  space : Space
  lanes : Lanes
  elems : List Elem
  regs : Nat
  step : DWord
  stamp : Nat
  deriving DecidableEq, Repr

/-- What an atomic does to its location (R275, R282, R294). -/
inductive AtomKind where
  | add
  | min
  | max
  | and
  | or
  | xor
  | exch
  | fadd
  | fmin
  | fmax
  | cas
  | swadd
  | enq
  | deq
  deriving DecidableEq, Repr

/-- One lane's atomic: kind, type code, address as written and as translated, operands, the address space it runs in, the group and lane it is for, whether a return slot waits for the reply, its place in the order of issue, the core that issued it, whether it is a release at CORE scope, and whether it carries .prm. -/
structure AtomReq where
  kind : AtomKind
  ty : BitVec 5
  space : Space
  va : DWord
  pa : PAddr
  x : DWord
  y : DWord
  asn : Nat
  t : Nat
  g : Nat
  lane : Nat
  reply : Bool
  stamp : Nat
  core : Nat
  coreRel : Bool
  prm : Bool
  deriving DecidableEq, Repr

/-- What a lane of an atomic has come to: the reply, the cause it failed with, a ring slot whose page is not resident, or nothing, beside a lane of the same replay that failed. -/
inductive AtomDone where
  | value (val : DWord) (stat : Word)
  | noChange (stat : Word)
  | failed (cause : Byte)
  | residency
  | unperformed
  deriving DecidableEq, Repr

/-- How an operand-log entry has failed (R243): the cause, the lanes that it names, and the address that it reports, if any. -/
structure LogFail where
  cause : Byte
  names : Lanes
  eaddr : Option DWord
  deriving DecidableEq, Repr

/-- An operand-log entry (R241): a logged access or atomic for the lanes of `mask`, the pages whose residency it waits for, and how it has failed, if it has (R243). -/
structure LogEntry where
  acc : Access
  mask : Lanes
  pages : List Nat
  failed : Option LogFail
  deriving DecidableEq, Repr

/-- Why a group is parked (R80, R81). -/
inductive Park where
  /-- Only its results were awaited. -/
  | done
  /-- A lane access that is performed whole at the resume. -/
  | access (a : Access)
  /-- An instruction that has not executed, re-issued at the resume: a reader of a pending destination, or one of R242 that waits for the log. -/
  | reissue
  /-- A store or RED in the operand log: waits for the log to be empty. -/
  | logged
  /-- An atomic performed or under way for the lanes of an access, of which those of `done` have their results already: waits for the return slot of every other lane. -/
  | atomic (a : Access) (done : Lanes)
  /-- A group whose lanes are all held at one BAR, before its arrival: waits for the release work of R61; the lanes whose BAR completed the group, and its address (R58). -/
  | arrive (upTo : Nat) (lanes : Lanes) (pc : DWord)
  /-- A fence: waits for the entries of the store queue with a stamp below `upTo` and for the group's own atomics and REDs (R268). -/
  | release (upTo : Nat)
  /-- CWAIT: window, selector, target value, time of expiry, destination, the instruction's PC and lanes. -/
  | cwait (win sel : Nat) (target : DWord) (expires : DWord) (d : Nat) (pc : DWord) (lanes : Lanes)
  /-- RFENCE: first its release work, then the count to reach; the destination of its result. -/
  | rfence (win : Nat) (upTo : Nat) (goal : Option DWord) (d : Nat)
  /-- MIGR to a cluster rank. -/
  | migr (dest : Nat) (pc : DWord) (lanes : Lanes)
  /-- GRAFT to a target in another bed, with the counts to ship. -/
  | graft (target : DWord) (vc sc : Nat) (pc : DWord)
  /-- TRET. -/
  | tret
  /-- A group in trap entry that leaves its core for the bed of the handler's address (R318). -/
  | away (target : DWord)
  deriving DecidableEq, Repr

/-- Where a cause comes from (R377). -/
inductive CauseSrc where
  | own
  | sequencer
  | engine
  | teamWide
  | replay
  deriving DecidableEq, Repr

/-- An undelivered asynchronous cause (R375), with the address it reports where the manual gives it one (R377). -/
structure Async where
  cause : Byte
  src : CauseSrc
  rank : Nat
  eaddr : Option DWord
  deriving DecidableEq, Repr

/-- A lane record of the trap frame (R310, R376). -/
structure LaneRec where
  pc : DWord
  meet : Option DWord
  hold : Hold
  wcnt : Nat
  p : Byte
  deriving DecidableEq, Repr

/-- A trap frame (R376): the lane records, the latches with their LIVE count (the list's length), the EPC at entry, the CWAIT that held the group, and whether the group had been counted at the BAR that holds its lanes. -/
structure TrapFrame where
  lanes : List LaneRec
  xs : List Latch
  epc : DWord
  held : List Park
  counted : Bool
  deriving DecidableEq, Repr

/-- Where a message lies (R309 DEST, R312): arrival frame `k` of team core `j`, or place `k` of the overflow area, addressed to a bed or, for MIGR, to a team core. -/
inductive MsgAt where
  | frame (j k : Nat)
  | overflow (bed : Option Nat) (dest k : Nat)
  deriving DecidableEq, Repr

/-- The header of a group message (R309). -/
structure MsgHdr where
  kind : Nat
  vcount : Nat
  scount : Nat
  bed : Option Nat
  target : DWord
  len : Nat
  seq : Word
  at_ : MsgAt
  deriving DecidableEq, Repr

/-- Where a group is (R39, R311). -/
inductive Place where
  | slot (quad : Nat)
  | message (hdr : MsgHdr)
  | retired
  deriving DecidableEq, Repr

/-- A group of a team (R20). `core` is the team core index of the core that executes it. -/
structure Group where
  gid : Nat
  role : Role
  prio : Nat
  priv : Bool
  core : Nat
  place : Place
  lanes : List Lane
  s : List (Nat × Word)
  m : List (Nat × Half)
  l : List (Nat × LayBits)
  h : List (Nat × Half)
  xs : List Latch
  /-- What the latches held before the cut point at which the count of R79 begins: an early reader may still receive it (R72). -/
  xprev : List Latch
  slots : List (Nat × AtomDone)
  /-- The widest scope of the release fences that the group has issued: 0 none, 1 CORE, 2 wider (R265). -/
  relFence : Nat
  /-- Has the group been counted at the BAR that holds its lanes (R58)? -/
  counted : Bool
  /-- The branch targets whose legal-target bit is still to be tested, at the first fetch there: that of the GRAFT by which the group came (R307), and those in lines that could not be read when their instruction was performed (log 66). -/
  untested : List DWord
  log : List LogEntry
  lst : Word
  bcd : Word
  cause : Word
  epc : DWord
  eaddr : DWord
  elanes : Word
  inHandler : Bool
  frame : Option TrapFrame
  causes : List Async
  run : Option Run
  parks : List Park
  ready : Bool
  qwait : Nat
  lastIssue : Option Nat
  since : Nat
  /-- Where the group's private space begins in the team's frames for it (R206). -/
  privBase : Nat
  deriving DecidableEq, Repr

/-- A named barrier (R59). -/
structure Barrier where
  count : Nat
  arrived : Nat
  gen : Bool
  deriving DecidableEq, Repr

/-- A stage of a ring (R63). -/
structure Stage where
  full : Bool
  pending : Nat
  deriving DecidableEq, Repr

/-- The state of an operand-buffer reservation (R174). -/
inductive RangeState where
  | free
  | reserved
  | releasing
  deriving DecidableEq, Repr

/-- A reservation record (R174). -/
structure RangeRec where
  base : Nat
  len : Nat
  form : Word
  bsoff : Nat
  rsoff : Nat
  csoff : Nat
  st : RangeState
  deriving DecidableEq, Repr

/-- A side of an engine command, with what it read at issue (R120, R170): its selector, its layout, and the record or reservation it names. -/
structure SideVal where
  sel : Nat
  num : Nat
  lay : LayBits
  recAddr : DWord
  image : Option RecBits
  range : Option RangeRec
  deriving DecidableEq, Repr

/-- A copy command in a queue or in flight (R244, R245, R253), with the die-SRAM lines it owns and the scratchpad lines, by core, whose presence it has cleared (R252). -/
structure CopyCmd where
  op : Instr
  t : Nat
  g : Nat
  j : Nat
  asn : Nat
  dst : SideVal
  src : Option SideVal
  index : Option SideVal
  dim : Nat
  fill : DWord
  ver : Option DWord
  stage : Option (Nat × Nat)
  tdec : Option Nat
  sts : Option Nat
  binding : Bool
  order : Nat
  owned : List Nat
  absent : List (Nat × Nat)
  deriving DecidableEq, Repr

/-- The write of one element of a destination: the place and its bytes, or bits for packed elements. -/
structure ElemWrite where
  pa : PAddr
  bit : Nat
  bits : Nat
  val : DWord
  deriving DecidableEq, Repr

/-- A copy command in flight: what it has written to operand-buffer ranges, which a reset of the matrix engine lets land again (R202), what is left to write, the chunks that still hold a permit and its decode space (R251), what its completion reports (R254), and the bytes it writes in TX granules, in index order (R328). -/
structure InFlight where
  cmd : CopyCmd
  first : List ElemWrite
  last : List ElemWrite
  permits : List (Nat × Int)
  delivered : Nat
  clipped : Nat
  degree : Nat
  cost : Nat
  captures : List PAddr
  deriving DecidableEq, Repr

/-- A matrix instruction passed to a unit, with what it read at issue (R184). -/
structure MatCmd where
  instr : Instr
  pc : DWord
  tile : Nat
  count : Nat
  a : Option SideVal
  b : Option SideVal
  z : Option SideVal
  order : Nat
  deriving DecidableEq, Repr

/-- A started matrix instruction (R190, R198): for each element of the tile the words it adds, the writes of a drain still to come, the bytes a drain writes in TX granules, whether the reserved ternary code was read, and the degree that a drain reports; `held` where a drain has started and waits for a page, with nothing read or written yet. -/
structure MatRun where
  cmd : MatCmd
  held : Bool
  adds : List (List Word)
  outs : List ElemWrite
  captures : List PAddr
  trnx : Bool
  degree : Nat
  deriving DecidableEq, Repr

/-- A unit of the matrix engine: at most one started and one waiting instruction (R184). -/
structure MatUnit where
  started : Option MatRun
  waiting : Option MatCmd
  deriving DecidableEq, Repr

/-- The run state of a sequencer (R60, R64, R182, R187). -/
inductive SeqSt where
  | absent
  | running
  | bar (b count : Nat) (arrived : Bool)
  | stg (ring stage : Nat) (full : Bool)
  | stopped
  | ended
  deriving DecidableEq, Repr

/-- The team sequencer of a share (R182, R183). -/
structure Seq where
  st : SeqSt
  pc : DWord
  q : List (Nat × Word)
  l : List (Nat × LayBits)
  h : List (Nat × Half)
  deriving DecidableEq, Repr

/-- A set of TRNX that had not taken effect when its group's run ended (R96): the group, its quadrant, the cycles it then had to go, whether another group was ready to follow in the quadrant, and the runs begun there since. -/
structure LateSet where
  gid : Nat
  quad : Nat
  left : Nat
  tight : Bool
  runs : Nat
  deriving DecidableEq, Repr

/-- A team's share on one core (R36). `core` is the package-wide core number; `homed` lists the groups homed or installed there; `bound` counts the transform bindings done. -/
structure Share where
  core : Nat
  scratchBase : Nat
  scratchLen : Nat
  obufBase : Nat
  obufLen : Nat
  ranges : List (Nat × RangeRec)
  tiles : List Nat
  trnx : Bool
  /-- The sets of TRNX on their way beyond the end of a run (R96). -/
  trnxLate : List LateSet
  asat : Bool
  bcdm : Word
  seq : Seq
  mul : MatUnit
  drain : MatUnit
  /-- The matrix commands that a halt has abandoned, which the stream is to issue again, oldest first (R176, R201). -/
  redo : List MatCmd
  watchdog : Nat
  homed : List Nat
  bound : Nat
  pinned : Option Nat
  retired : Bool
  deriving DecidableEq, Repr

/-- How far a team has come (R33, R37, R380). -/
inductive TeamPhase where
  | placed
  | running
  | killed (cause : Byte) (bySystem : Bool)
  | done
  deriving DecidableEq, Repr

/-- A launch record as admission reads it (R343). -/
structure Launch where
  kind : Nat
  prio : Nat
  graft : Bool
  migr : Bool
  stepown : Bool
  priv : Bool
  succv : Bool
  cores : Nat
  nv : Nat
  nc : Nat
  vbudV : Nat
  vbudS : Nat
  vbudL : Nat
  cbudV : Nat
  cbudS : Nat
  cbudL : Nat
  tiles : Nat
  privb : Nat
  scratch : Nat
  obuf : Nat
  teams : Nat
  overflow : Nat
  task : Nat
  deps : Nat
  succ : Nat
  entryV : Nat
  entryC : Nat
  entryM : Option Nat
  traph : Option Nat
  code : DWord
  param : DWord
  bedmap : DWord
  done : DWord
  binds : List DWord
  deriving DecidableEq, Repr

/-- A bed map entry (R301). -/
structure Bed where
  base : DWord
  lines : Nat
  cores : List Nat
  deriving DecidableEq, Repr

/-- A resident team (R20). `id` is the model's name of it; `die` is the die whose SRAM holds its private space, in the frames `homes`; `area` are the frames of its arrival frames and its overflow area, on die `areaDie` (R206, R312); its cores stand in its shares. -/
structure Team where
  id : Nat
  task : Nat
  teamId : Nat
  asn : Nat
  die : Nat
  homes : List Nat
  areaDie : Nat
  area : List Nat
  launch : Launch
  queue : Nat
  phase : TeamPhase
  groups : List Group
  shares : List Share
  bars : List (Nat × Barrier)
  stages : List (Nat × Stage)
  trapvec : DWord
  recbase : DWord
  seq : Word
  beds : List (Nat × Bed)
  arr : List (Nat × DWord)
  ovfBytes : Nat
  restoredAt : Nat
  deriving DecidableEq, Repr

/-- A line of an L1 (R211, R219): the line's place, whether it is private space, whether it is dirty, whether its check word mismatched when it was filled (R397), its bytes. -/
structure L1Line where
  die : Nat
  line : Nat
  priv : Bool
  dirty : Bool
  bad : Bool
  data : BitVec 512
  deriving DecidableEq, Repr

/-- A TLB entry (R231): address space, first page of 64 KiB, 1 or 4096 pages, the leaf it was filled from, whether writes may use it, and the marks of its granules (R324, R365). -/
structure TlbEntry where
  asn : Nat
  page : Nat
  pages : Nat
  leaf : DWord
  writeOk : Bool
  marks : BitVec 49
  deriving DecidableEq, Repr

/-- A line of an instruction store (R71); `bad` where its check word mismatched when it was fetched (R385). -/
structure ILine where
  asn : Nat
  addr : DWord
  data : BitVec 512
  bad : Bool
  deriving DecidableEq, Repr

/-- A store-queue entry (R267): a store, an atomic still on its way, or an STGFREE whose release work is awaited (R65), of a group; `rel` a release wider than CORE, which waits for the entries before it, `coreRel` a release at CORE scope (R268, R270). -/
structure SqEntry where
  stamp : Nat
  t : Nat
  g : Nat
  bytes : List (PAddr × Byte)
  red : Option AtomReq
  stage : Option (Nat × Nat)
  rel : Bool
  coreRel : Bool
  deriving DecidableEq, Repr

/-- A cached tensor record (R168). -/
structure RecEntry where
  asn : Nat
  addr : DWord
  image : RecBits
  deriving DecidableEq, Repr

/-- A fill of a record that is in progress, or whose outcome has not been taken (R169, R171, R495): the team, the party whose instruction caused it and waits for it (none for an HBIND), whether its result is to be kept, and its outcome: a cause, or an image that is not kept. -/
structure Fill where
  asn : Nat
  addr : DWord
  t : Nat
  by_ : Option Party
  keep : Bool
  cause : Option Byte
  image : Option RecBits
  deriving DecidableEq, Repr

/-- A quadrant of a core: the group that holds the issue slot, and whether the last run was a service run (R83, R276). -/
structure Quad where
  holder : Option (Nat × Nat)
  lastSvc : Bool
  deriving DecidableEq, Repr

/-- A core (R12). -/
structure Core where
  l1 : List L1Line
  tlb : List TlbEntry
  wtlb : List TlbEntry
  istore : List ILine
  recs : List RecEntry
  fills : List Fill
  sq : List SqEntry
  cq : List CopyCmd
  cur : Option InFlight
  absent : List (Nat × Nat)
  quads : List (Nat × Quad)
  gated : Bool
  deriving DecidableEq, Repr

/-- The bytes of the package and what is recorded for each 64-byte line: mismatching check words, single-bit upsets, engine ownership with the number of commands that own it, the 64 KiB frames held by a page move, and the release-owner field with the order of the release (R221, R239, R270, R385). A line is named by its place's key divided by 64, a frame by the key divided by 65536. -/
structure Mem where
  cells : List Host.Cell
  poison : List Nat
  upsets : List Nat
  owned : List (Nat × Nat)
  held : List Nat
  relOwner : List (Nat × Nat × Nat)
  deriving DecidableEq, Repr

/-- An address space (R226): its number, its owner die, its root table, the count of residency faults and the deadline of host pages. -/
structure AddrSpace where
  asn : Nat
  owner : Nat
  root : Nat
  resident : Nat
  deadline : Nat
  deriving DecidableEq, Repr

/-- A 64 KiB frame in use (R237): die, memory, number, whether it is pinned, the LPDDR frame behind it, its page, and whether it was made resident for a fault. -/
structure Frame64 where
  die : Nat
  sram : Bool
  num : Nat
  pinned : Bool
  backing : Option (Nat × Nat)
  asn : Nat
  page : Nat
  /-- Marks of the 16 granules (R324): bit k TX, bit 16 + k RX, bit 32 + k unmapped; bit 48 logged (R365). -/
  marks : BitVec 49
  fresh : Bool
  deriving DecidableEq, Repr

/-- An entry of a die's fault table (R238). -/
structure FaultEntry where
  asn : Nat
  page : Nat
  write : Bool
  core : Nat
  slot : Option Nat
  deriving DecidableEq, Repr

/-- An aperture slot in use (R389): die, frame, page and request number, and when it was posted. -/
structure ApSlot where
  die : Nat
  frame : Nat
  asn : Nat
  page : Nat
  req : DWord
  posted : Nat
  deriving DecidableEq, Repr

/-- A registered region: address space, base and length (R295, R365); for a logged region, the place of its tag array. -/
structure Region where
  asn : Nat
  base : DWord
  len : Nat
  tags : Nat
  deriving DecidableEq, Repr

/-- An undo area (R366): its base in its die's SRAM, its size, and the slots of its ring in use, oldest first. -/
structure Undo where
  base : Nat
  size : Nat
  used : List Nat
  next : Nat
  deriving DecidableEq, Repr

/-- What the memory-management processors keep. -/
structure Mmp where
  spaces : List AddrSpace
  frames : List Frame64
  faults : List (Nat × List FaultEntry)
  slots : List (Nat × ApSlot)
  req : DWord
  /-- The ring in host memory that system software has named through the mailbox, if it has (R389). -/
  ring : Option DWord
  /-- The 32-byte page requests written to host memory, oldest first, each with the ring that it was written to (R389). -/
  posted : List (DWord × List Byte)
  stamped : List (Nat × List Region)
  logged : List (Nat × List Region)
  undo : List (Nat × Undo)
  deriving DecidableEq, Repr

/-- A capture of a window (R326): the bytes and their offsets, or Q8 blocks, and the bytes it counts. -/
structure Capture where
  recs : List FrameRec
  bytes : Nat
  bad : Bool
  deriving DecidableEq, Repr

/-- The sender's side of a path (R330): the captures handed on so far and those acknowledged, and whether the destination is live. -/
structure PathSt where
  sentCaps : Nat
  ackedCaps : Nat
  live : Bool
  stopped : Bool
  heard : Nat
  deriving DecidableEq, Repr

/-- The receiver's side of a member (R334, R335). -/
structure MemberSt where
  landed : DWord
  live : Bool
  heard : Nat
  deriving DecidableEq, Repr

/-- A copy of a window's counters and live masks (R334). -/
structure CounterCopy where
  captured : DWord
  sent : DWord
  landed : List DWord
  txLive : DWord
  rxLive : DWord
  deriving DecidableEq, Repr

/-- A mapped window (R322, R323). -/
structure Window where
  id : Nat
  die : Nat
  tx : Bool
  rx : Bool
  mode : Nat
  loop : Bool
  base : DWord
  size : Nat
  asn : Nat
  pathId : Nat
  session : Nat
  deadline : Nat
  resid : DWord
  dests : List (Nat × Nat)
  mems : List (Nat × Nat)
  caps : List Capture
  captured : DWord
  sent : DWord
  paths : List PathSt
  members : List MemberSt
  masks : List (Nat × Word)
  copies : List (Nat × CounterCopy)
  updates : List (Nat × List CounterCopy)
  deriving DecidableEq, Repr

/-- A window counter bound to a task (R349). -/
structure Binding where
  win : Nat
  sel : Nat
  n : DWord
  task : Nat
  deriving DecidableEq, Repr

/-- A frame as it leaves a port (R337, R338, R340): the settings of its peer, the nonce of its sealing, the bytes of its header, and the bytes of its body before they are sealed. -/
structure Sent where
  frame : Frame
  net : PeerNet
  nonce : BitVec 96
  header : List Byte
  body : List Byte
  deriving DecidableEq, Repr

/-- A security session with a peer (R337 to R340), with the salts of its two directions. -/
structure Session where
  id : Nat
  peer : Nat
  open_ : Bool
  nextSeq : DWord
  recvSeq : DWord
  kept : List (Frame × Nat × List (Nat × Nat × Nat))
  heldFrames : List Frame
  keyFrames : Nat
  /-- Has this package sent its part of an exchange that the peer has not answered yet (R340)? -/
  asked : Bool
  keyGen : Nat
  txSalt : Word
  rxSalt : Word
  lastSent : Nat
  deriving DecidableEq, Repr

/-- The reflection units and link security units: `peers` holds the settings of peer packages, `keys` the digests of the keys that each session accepts. -/
structure Refl where
  windows : List Window
  binds : List Binding
  sessions : List Session
  peers : List (Nat × PeerNet)
  keys : List (Nat × List (BitVec 512))
  txFrames : List Sent
  deriving DecidableEq, Repr

/-- What a flit carries (R561): the request of an atomic, the answer to one, or other traffic, of which the model does not keep the bytes. -/
inductive FlitLoad where
  | other
  | request (r : AtomReq)
  | answer (r : AtomReq) (d : AtomDone)
  deriving DecidableEq, Repr

/-- One direction of a die-link module (R391, R561, R562): what waits to be sent, its sender's next sequence number and replay buffer, the numbers that it has to resend, its receiver's last number in order, the flits delivered and the negative acknowledgement on its way. -/
structure LinkDir where
  queue : List FlitLoad
  txSeq : Nat
  rxSeq : Nat
  replay : List (Nat × FlitLoad)
  again : List Nat
  delivered : List Nat
  naks : List Nat
  deriving DecidableEq, Repr

/-- A die-link module (R391, R393, R562): width in lanes, whether half width is on lanes 32 to 63, its two directions (`there` leaves the die of lower number, or the compute die at an I/O die), times of recent CRC failures, and its three counts. -/
structure LinkMod where
  width : Nat
  high : Bool
  there : LinkDir
  back : LinkDir
  crcTimes : List Nat
  crcFails : Nat
  replays : Nat
  retrains : Nat
  down : Bool
  deriving DecidableEq, Repr

/-- A work queue (R341): the descriptor's fields and the last doorbell. -/
structure WorkQueue where
  ring : DWord
  log2n : Nat
  en : Bool
  priv : Bool
  err : Bool
  priomax : Nat
  asn : Nat
  tidBase : Nat
  tidCount : Nat
  head : Word
  recbase : DWord
  bell : Word
  deriving DecidableEq, Repr

/-- The state of a task-table entry (R346). -/
inductive TaskSt where
  | free
  | waiting
  | ready
  deriving DecidableEq, Repr

/-- A task-table entry (R346), with what the placer and the completion keep of it; `aborted` says that another abort has failed its step (R370). -/
structure Task where
  st : TaskSt
  counter : Half
  launch : Option Launch
  queue : Nat
  readyAt : Nat
  readyTime : Nat
  nextTeam : Nat
  doneTeams : Nat
  failed : Option (Byte × Nat)
  killed : Bool
  aborted : Bool
  step : DWord
  threads : Nat
  aged : Option Nat
  deriving DecidableEq, Repr

/-- A decrement on its way to the scheduler (R348). -/
structure Dec where
  task : Nat
  deriving DecidableEq, Repr

/-- A team put aside by the save engine (R382): its state; for each team core the bytes of its regions and tiles and their mismatching lines, by the place they have in the share; its copy commands; its area; since when it is READY again, and its place among the aged gangs (R355, R356). -/
structure Saved where
  team : Team
  cells : List (Nat × List Host.Cell)
  poison : List (Nat × List Nat)
  cmds : List (Nat × List CopyCmd)
  area : PAddr
  areaLen : Nat
  readyTime : Nat
  aged : Option Nat
  deriving DecidableEq, Repr

/-- What is set aside on a core for an aged gang, of what arriving groups could take: slots and V registers of each quadrant, S and L registers (R355). -/
structure Reserve where
  slots : List Nat
  v : List Nat
  s : Nat
  l : Nat
  deriving DecidableEq, Repr

/-- The task scheduler and the placer. `gangs` are the aged gangs that hold a cluster: the task, or 65536 and the name of a saved team; cluster; order; `reserved` is what each core of such a cluster has set aside. -/
structure Sched where
  queues : List (Nat × WorkQueue)
  tasks : List (Nat × Task)
  decs : List Dec
  turn : Nat
  saved : List Saved
  gangs : List (Nat × Nat × Nat)
  reserved : List (Nat × Reserve)
  deriving DecidableEq, Repr

/-- A slice thread (R357): its slice, its place in the slice's unit, its number in its task, and the issues of the unit's threads since its own (R359). -/
structure Thread where
  slice : Nat
  num : Nat
  idx : Nat
  waited : Nat
  task : Nat
  asn : Nat
  queue : Nat
  pc : DWord
  v : List (Nat × List Word)
  p : List (Nat × Lanes)
  step : DWord
  deriving DecidableEq, Repr

/-- The power state of the package (R401, R404). -/
inductive Power where
  | inReset
  | refused
  | on
  deriving DecidableEq, Repr

/-- Error counts (R388, R395, R331, R340). -/
structure Errs where
  corrected : Nat
  integrity : Nat
  sched : Nat
  retrains : Nat
  stoppedPaths : Nat
  ethDropped : Nat
  badTags : Nat
  misaligned : Nat
  apDropped : Nat
  deriving DecidableEq, Repr

/-- The registers of a cluster's atomic service group: 32 V registers a lane, 256 S registers and 4 layout registers (R276). -/
structure SvcRegs where
  v : List (Nat × List Word)
  s : List (Nat × Word)
  l : List (Nat × LayBits)
  deriving DecidableEq, Repr

/-- What the package holds once. -/
structure Pkg where
  power : Power
  bars : Bool
  frozen : Bool
  debugOn : Bool
  time : DWord
  gstep : DWord
  /-- What each core observes of GSTEP: its copy, which the I/O die updates (R284). -/
  stepCopy : List (Nat × DWord)
  sweeps : List (DWord × List (Nat × Nat))
  factBase : DWord
  factAsn : Nat
  factCopy : List (Nat × Word)
  pkgid : Nat
  flash : List Image
  meas : List (BitVec 512)
  svn : Nat
  ports : List (Nat × Nat)
  mailbox : List Byte
  /-- The port that raises each vector, as system software chose; port 0 where it chose none (R388). -/
  vecPort : List (Nat × Nat)
  /-- The interrupts raised: port and vector. -/
  irqs : List (Nat × Nat)
  errs : Errs
  svc : List (Nat × List AtomReq)
  svcRegs : List (Nat × SvcRegs)
  halt : Option (List Nat)
  ethOut : List (Nat × EthKind)
  /-- The Ethernet ports that are down (R395). -/
  ethDown : List Nat
  /-- What host reads of the page aperture have returned, oldest first: the data, and whether as a poisoned completion (R398). -/
  hostReads : List (List Byte × Bool)
  deriving DecidableEq, Repr

/-- What system software, the host or the wire asks of a port or the mailbox beside the instructions of the opcode table: the port that raises a vector (R388), the ring of the page requests (R389), an Ethernet port that goes up or down (R395), and a host read of the page aperture (R398). -/
inductive Setting where
  | vectorPort (vector port : Nat)
  | pageRing (addr : DWord)
  | ethernetPort (port : Nat) (up : Bool)
  | apertureRead (slot off len : Nat)
  deriving DecidableEq, Repr

/-- The model's own: a counter of free choices, a counter of issues, the next name of a team, the party that issues next if it is fixed, and the requests and settings of the outside world not yet taken. -/
structure Ctl where
  draws : Nat
  stamp : Nat
  nextTeam : Nat
  actor : Option Party
  inputs : List Instr
  settings : List Setting
  deriving DecidableEq, Repr

/-- The state of the package. -/
structure State where
  ctl : Ctl
  pkg : Pkg
  mem : Mem
  mmp : Mmp
  refl : Refl
  links : List (Nat × LinkMod)
  sched : Sched
  cores : List (Nat × Core)
  teams : List Team
  threads : List Thread
  deriving DecidableEq, Repr

/-- The state at power-on, before the bring-up of R404: the first step performs it. Programs come later, through queues that the outside world fills (log 1). -/
def State.reset : State where
  ctl := { draws := 0, stamp := 0, nextTeam := 0, actor := none, inputs := [], settings := [] }
  pkg := { power := .inReset, bars := false, frozen := false, debugOn := true, time := 0, gstep := 0, stepCopy := [], sweeps := [],
           factBase := 0, factAsn := 0, factCopy := [], pkgid := 0,
           flash := [{ sigOk := true, svn := 0, meas := 0, debug := true }], meas := [], svn := 0, ports := [], mailbox := [], vecPort := [], irqs := [],
           errs := { corrected := 0, integrity := 0, sched := 0, retrains := 0, stoppedPaths := 0, ethDropped := 0, badTags := 0, misaligned := 0, apDropped := 0 },
           svc := [], svcRegs := [], halt := none, ethOut := [], ethDown := [], hostReads := [] }
  mem := { cells := [], poison := [], upsets := [], owned := [], held := [], relOwner := [] }
  mmp := { spaces := [], frames := [], faults := [], slots := [], req := 0, ring := none, posted := [], stamped := [], logged := [], undo := [] }
  refl := { windows := [], binds := [], sessions := [], peers := [], keys := [], txFrames := [] }
  links := []
  sched := { queues := [], tasks := [], decs := [], turn := 0, saved := [], gangs := [], reserved := [] }
  cores := []
  teams := []
  threads := []

end Sys2Proof.Machine
end

