-- ==== Sys2Proof/Machine/Ops.lean ====
section
/-! DEFINITION. The named operations over the state: who is where, bytes of memory, register files, the passing of a step, taking a trap and returning from one. -/

namespace Sys2Proof.Machine

/-! ### Looking up and replacing parts of the state -/

/-- A core on which nothing is cached, queued or running. -/
def Core.empty : Core :=
  { l1 := [], tlb := [], wtlb := [], istore := [], recs := [], fills := [], sq := [], cq := [], cur := none, absent := [], quads := [], gated := false }

/-- The core with a package-wide number (R12). -/
def State.core (s : State) (c : Nat) : Core := spGet Core.empty s.cores c

/-- Replaces a core. -/
def State.setCore (s : State) (c : Nat) (x : Core) : State := { s with cores := spPut Core.empty s.cores c x }

/-- The resident team with a given name. -/
def State.team? (s : State) (t : Nat) : Option Team := s.teams.find? (·.id == t)

/-- Replaces the team that has the same name. -/
def State.setTeam (s : State) (T : Team) : State := { s with teams := s.teams.map (fun x => if x.id == T.id then T else x) }

/-- The group of a team with a given GRPID. -/
def Team.group? (T : Team) (g : Nat) : Option Group := T.groups.find? (·.gid == g)

/-- Replaces the group that has the same GRPID. -/
def Team.setGroup (T : Team) (G : Group) : Team := { T with groups := T.groups.map (fun x => if x.gid == G.gid then G else x) }

/-- The share of a team on team core `j`. -/
def Team.share? (T : Team) (j : Nat) : Option Share := T.shares[j]?

/-- Replaces a share. -/
def Team.setShare (T : Team) (j : Nat) (x : Share) : Team := { T with shares := setNth T.shares j x }

/-- A group of a resident team. -/
def State.group? (s : State) (t g : Nat) : Option Group := (s.team? t).bind (fun T => T.group? g)

/-- Changes a group of a team. -/
def State.modGroup (s : State) (t g : Nat) (f : Group → Group) : State :=
  match s.team? t with
  | some T =>
    match T.group? g with
    | some G => s.setTeam (T.setGroup (f G))
    | none => s
  | none => s

/-- Parks a group behind what it waits for already. -/
def State.park (s : State) (t g : Nat) (p : Park) : State := s.modGroup t g (fun G => { G with parks := G.parks ++ [p] })

/-- Changes a share of a team. -/
def State.modShare (s : State) (t j : Nat) (f : Share → Share) : State :=
  match s.team? t with
  | some T =>
    match T.share? j with
    | some x => s.setTeam (T.setShare j (f x))
    | none => s
  | none => s

/-- Changes a team. -/
def State.modTeam (s : State) (t : Nat) (f : Team → Team) : State :=
  match s.team? t with
  | some T => s.setTeam (f T)
  | none => s

/-- Changes a core. -/
def State.modCore (s : State) (c : Nat) (f : Core → Core) : State := s.setCore c (f (s.core c))

/-- Changes what the package holds once. -/
def State.modPkg (s : State) (f : Pkg → Pkg) : State := { s with pkg := f s.pkg }

/-- Changes the memory. -/
def State.modMem (s : State) (f : Mem → Mem) : State := { s with mem := f s.mem }

/-- Changes what the MMPs keep. -/
def State.modMmp (s : State) (f : Mmp → Mmp) : State := { s with mmp := f s.mmp }

/-- Changes the reflection units. -/
def State.modRefl (s : State) (f : Refl → Refl) : State := { s with refl := f s.refl }

/-- Changes the scheduler. -/
def State.modSched (s : State) (f : Sched → Sched) : State := { s with sched := f s.sched }

/-- Changes the model's own part. -/
def State.modCtl (s : State) (f : Ctl → Ctl) : State := { s with ctl := f s.ctl }

/-- Counts an error (R388). -/
def State.modErrs (s : State) (f : Errs → Errs) : State := s.modPkg (fun p => { p with errs := f p.errs })

/-- The port that raises a vector (R388). -/
def State.irqPort (s : State) (vec : Nat) : Nat := (spFind s.pkg.vecPort vec).getD 0

/-- Raises an interrupt vector, at its port (R388). -/
def State.raise (s : State) (vec : Nat) : State := s.modPkg (fun p => { p with irqs := p.irqs ++ [(s.irqPort vec, vec)] })

/-- GSTEP as a core observes it (R284). -/
def State.stepOf (s : State) (core : Nat) : DWord := spGet 0 s.pkg.stepCopy core

/-- The copies of GSTEP once the I/O die has updated them all. -/
def stepCopies (n : DWord) : List (Nat × DWord) := if n == 0 then [] else (upFrom 0 512).map (fun c => (c, n))

/-- GSTEP takes a value, and the copies of all cores with it. -/
def State.setStep (s : State) (n : DWord) : State := s.modPkg (fun p => { p with gstep := n, stepCopy := stepCopies n })

/-- The compute die of a core (R12). -/
def dieOf (core : Nat) : Nat := core / 64

/-- The cluster of a core within its die (R12). -/
def clusterOf (core : Nat) : Nat := core / 16 % 4

/-- The rank of a core within its cluster (R12). -/
def rankOf (core : Nat) : Nat := core % 16

/-- The package-wide number of a core (R12). -/
def coreId (die cluster rank : Nat) : Nat := 64 * die + 16 * cluster + rank

/-- Starts a new count of issues: the stamp that orders stores and issues. -/
def State.bumpStamp (s : State) : State := s.modCtl (fun c => { c with stamp := c.stamp + 1 })

/-! ### Bytes of memory -/

/-- The key of a place: every byte of the package has its own number. -/
def PAddr.key (a : PAddr) : Nat :=
  match a.store with
  | .sram => a.unit * 2 ^ 36 + a.off
  | .lpddr => 2 ^ 40 + a.unit * 2 ^ 36 + a.off
  | .scratch => 2 ^ 41 + a.unit * 2 ^ 20 + a.off
  | .obuf => 2 ^ 42 + a.unit * 2 ^ 20 + a.off
  | .acc => 2 ^ 43 + a.unit * 2 ^ 20 + a.off

/-- How many bytes one die or core has of a store (01). -/
def Store.size : Store → Nat
  | .sram => 2 ^ 30
  | .lpddr => 2 ^ 36
  | .scratch => 2 ^ 20
  | .obuf => 768 * 1024
  | .acc => 2 ^ 20

/-- Does the place exist? -/
def PAddr.ok (a : PAddr) : Bool :=
  decide (a.off < a.store.size) && decide (a.unit < (match a.store with | .sram | .lpddr => 8 | _ => 512))

/-- The place `n` bytes further. -/
def PAddr.add (a : PAddr) (n : Nat) : PAddr := { a with off := a.off + n }

/-- The 64-byte line of a place (R396). -/
def PAddr.line (a : PAddr) : Nat := a.key / 64

/-- What a byte that is not listed reads as: SRAM is zeroed at bring-up (R404), scratchpads, ranges and tiles are zero when they are given out (R213, R87), and LPDDR reads zero by the model's choice (log 5). -/
def memDefault : Byte := 0

/-- The canonical form of memory. -/
def Mem.wf (m : Mem) : Bool := spWf memDefault m.cells

/-- Reads one byte. -/
def Mem.byte (m : Mem) (a : PAddr) : Byte := spGet memDefault m.cells a.key

/-- Writes one byte. -/
def Mem.setByte (m : Mem) (a : PAddr) (x : Byte) : Mem := { m with cells := spPut memDefault m.cells a.key x }

/-- Writes bytes at their places, in order. -/
def Mem.setBytes (m : Mem) : List (PAddr × Byte) → Mem
  | [] => m
  | (a, x) :: r => (m.setByte a x).setBytes r

/-- The bytes of a run of places. -/
def Mem.bytes (m : Mem) (a : PAddr) (n : Nat) : List Byte := (upFrom 0 n).map (fun i => m.byte (a.add i))

/-- A number of `n` bytes, little-endian (R3). -/
def Mem.num (m : Mem) (a : PAddr) (n : Nat) : Nat := bytesNat (m.bytes a n)

/-- The places and bytes of a number of `n` bytes. -/
def numBytes (a : PAddr) (n x : Nat) : List (PAddr × Byte) := (upFrom 0 n).map (fun i => (a.add i, BitVec.ofNat 8 (x / 256 ^ i % 256)))

/-- The lines that a list of byte writes covers whole: only these lose a mismatching check word (R397). -/
def wholeLines (w : List (PAddr × Byte)) : List Nat :=
  ((w.map (fun x => x.1.line)).eraseDups).filter (fun l =>
    (upFrom 0 64).all (fun i => w.any (fun x => x.1.key == 64 * l + i)))

/-- One store: writes the bytes, clears the check mismatch of the lines it covers whole (R397), and the release-owner fields of the die-SRAM lines it touches (R270). -/
def Mem.store (m : Mem) (w : List (PAddr × Byte)) : Mem :=
  let m := m.setBytes w
  let ls := w.map (fun x => x.1.line)
  let whole := if m.poison == [] then [] else wholeLines w
  { m with poison := m.poison.filter (fun l => !whole.contains l), relOwner := if m.relOwner == [] then [] else m.relOwner.filter (fun x => !ls.contains x.1 || 2 ^ 41 / 64 ≤ x.1) }

/-- Makes a range of bytes zero, which is what an unlisted byte reads as; lines covered whole have no mismatch left (R397). -/
def Mem.zeroRange (m : Mem) (a : PAddr) (n : Nat) : Mem :=
  { m with
    cells := m.cells.filter (fun c => !(decide (a.key ≤ c.1) && decide (c.1 < a.key + n))),
    poison := m.poison.filter (fun l => !(decide (a.key ≤ 64 * l) && decide (64 * l + 64 ≤ a.key + n))) }

/-- Makes the check words of lines mismatch: a line that is written poisoned (R397). -/
def Mem.spoil (m : Mem) (ls : List Nat) : Mem := { m with poison := m.poison ++ ls.filter (fun l => !m.poison.contains l) }

/-- Does a read of these lines meet a mismatching check word (R385)? -/
def Mem.poisoned (m : Mem) (ls : List Nat) : Bool := ls.any (fun l => m.poison.contains l)

/-- A read of these lines corrects and counts the single-bit errors it finds (R399). -/
def State.scrub (s : State) (ls : List Nat) : State :=
  let hit := s.mem.upsets.filter (fun l => ls.contains l)
  if hit == [] then s
  else
    let s := s.modMem (fun m => { m with upsets := m.upsets.filter (fun l => !ls.contains l) })
    (s.modErrs (fun e => { e with corrected := e.corrected + hit.length })).raise 3

/-- The image of `n` bytes as a bit vector, lowest byte first. -/
def imageOf (n : Nat) (bs : List Byte) : BitVec n := BitVec.ofNat n (bytesNat bs)

/-- The bytes of a bit vector, lowest first. -/
def bytesOf {n : Nat} (x : BitVec n) : List Byte := natBytes (n / 8) x.toNat

/-! ### Code addresses -/

/-- Is it a slot address (R409)? -/
def isSlot (a : DWord) : Bool := [0, 12, 24, 36, 48].contains (a.toNat % 64)

/-- The slot of a code address within its line (R406). -/
def slotOf (a : DWord) : Nat := a.toNat % 64 / 12

/-- The line of a code address. -/
def lineAddr (a : DWord) : DWord := a &&& ~~~63#64

/-- The address of the instruction after (R406). -/
def nextSlot (a : DWord) : DWord := if slotOf a = 4 then a + 16 else a + 12

/-! ### Lanes and groups -/

/-- A lane at the start of its group (R34). -/
def Lane.start (pc : DWord) : Lane := { pc := pc, meet := none, v := [], p := 0, hold := .runnable, wcnt := 0 }

/-- Lane `l` of a group. -/
def Group.lane (G : Group) (l : Nat) : Lane := nth (Lane.start 0) G.lanes l

/-- Changes the lanes of a mask. -/
def mapLanes (m : Lanes) (f : Nat → Lane → Lane) (ls : List Lane) : List Lane :=
  ls.zipIdx.map (fun x => if inMask m x.2 then f x.2 x.1 else x.1)

/-- Changes the lanes of a mask of a group. -/
def Group.modLanes (G : Group) (m : Lanes) (f : Nat → Lane → Lane) : Group := { G with lanes := mapLanes m f G.lanes }

/-- The lanes that have not exited. -/
def Group.live (G : Group) : Lanes := maskOf (fun l => (G.lane l).hold != .exited)

/-- The lanes that are runnable (R46). -/
def Group.runnable (G : Group) : Lanes := maskOf (fun l => (G.lane l).hold == .runnable)

/-- Is the group converged (R56)? -/
def Group.converged (G : Group) : Bool :=
  let ls := lanesOf G.live
  ls.all (fun l => (G.lane l).hold == .runnable && (G.lane l).pc == (G.lane (ls.headD 0)).pc)

/-- Predicate `n` of a lane; P0 reads true (R87). -/
def Lane.pred (L : Lane) (n : Nat) : Bool := n == 0 || L.p.getLsbD n

/-- The lanes among `m` whose guard is true (R410). -/
def Group.guarded (G : Group) (g : BitVec 4) (m : Lanes) : Lanes :=
  maskOf (fun l => inMask m l && ((G.lane l).pred (fldN g 0 3) != g.getLsbD 3))

/-- The release test of mask register `r` (R53, R54): when it enrols a lane and every lane it enrols is held at its WAIT, the lanes held there go on and the mask becomes zero. A lane whose bit the change from `old` has cleared stays held. -/
def Group.releaseMask (G : Group) (r : Nat) (old : Half) : Group :=
  let m := spGet 0 G.m r
  if m != 0 && (lanesOf m).all (fun l => (G.lane l).hold == .wait r) then
    let free := maskOf (fun l => (G.lane l).hold == .wait r && !inMask (old &&& ~~~m) l)
    { G.modLanes free (fun _ L => { L with pc := nextSlot L.pc, hold := .runnable, wcnt := 0 }) with m := spPut 0 G.m r 0 }
  else G

/-- Releases the lanes held at a meeting address once every live lane whose MEET is that address is held (R51). -/
def Group.meetSettle (G : Group) : Group :=
  let free := maskOf (fun l => (G.lane l).hold == .meet &&
    (lanesOf G.live).all (fun k => (G.lane k).meet != (G.lane l).meet || (G.lane k).hold == .meet))
  G.modLanes free (fun _ L => { L with meet := none, hold := .runnable, wcnt := 0 })

/-- At the start of a run, a runnable lane at its meeting address is held, and the releases are made (R50, R51). -/
def Group.meetHold (G : Group) : Group :=
  Group.meetSettle (G.modLanes (maskOf (fun l => (G.lane l).hold == .runnable && (G.lane l).meet == some (G.lane l).pc))
    (fun _ L => { L with hold := .meet }))

/-- Writes a register of a group: the committed value (R70). Mask bits of exited lanes stay clear (R503). -/
def Group.write (G : Group) (w : RegWrite) : Group :=
  match w with
  | .v r m vals => G.modLanes m (fun l L => { L with v := spPut 0 L.v r (nth 0 vals l) })
  | .s r x => { G with s := spPut 0 G.s r x }
  | .p r m vals => if r = 0 then G else G.modLanes m (fun l L => { L with p := if inMask vals l then L.p ||| (1#8 <<< r) else L.p &&& ~~~(1#8 <<< r) })
  | .m r x => Group.releaseMask { G with m := spPut 0 G.m r (x &&& G.live) } r (spGet 0 G.m r)
  | .l r x => { G with l := spPut 0 G.l r x }
  | .h r x => { G with h := spPut 0 G.h r x }
  | .lst x => { G with lst := x }
  | .bcd x => { G with bcd := x }
  | .trnx => G

/-- Inserts a pending result behind those due no later: results are written in order of their cycle, and on equal cycles in program order (R73). -/
def insPend (x : Pend) : List Pend → List Pend
  | [] => [x]
  | y :: r => if x.due < y.due then x :: y :: r else y :: insPend x r

/-- Writes the results due in cycle `c` or before (R72). -/
def Group.commitTo (G : Group) (c : Nat) : List Pend → Group × List Pend
  | [] => (G, [])
  | p :: r => if p.due ≤ c then (G.write p.w).commitTo c r else (G, p :: r)

/-- Writes all pending results: the run's end (R70). -/
def Group.commitAll (G : Group) : List Pend → Group
  | [] => G
  | p :: r => (G.write p.w).commitAll r

/-- Sets TRNX of a share where one of some results sets it (R95, R96). -/
def Share.takeTrnx (sh : Share) (ps : List Pend) : Share := { sh with trnx := sh.trnx || ps.any (fun p => p.w == .trnx) }

/-- Is another group ready to follow in the quadrant of a group, so that its run begins in the cycle after this one's end (R84)? -/
def State.followed (s : State) (c : Nat) (G : Group) : Bool :=
  s.teams.any (fun T => T.groups.any (fun H => H.place == G.place && (T.share? H.core).map (·.core) == some c && H.run.isNone && H.ready && H.parks == []))

/-- The sets of TRNX among the results of a run that ends: one due before cycle `clk`, in which the next run of the quadrant may begin, takes effect; a later one is on its way (R96). -/
def Share.lateTrnx (sh : Share) (G : Group) (tight : Bool) (clk : Nat) (ps : List Pend) : Share :=
  let sets := ps.filter (fun p => p.w == .trnx)
  let quad := match G.place with | .slot q => q | _ => 0
  { sh.takeTrnx (sets.filter (fun p => decide (p.due < clk))) with
    trnxLate := sh.trnxLate ++ (sets.filter (fun p => decide (clk ≤ p.due))).map (fun p => { gid := G.gid, quad := quad, left := p.due - clk, tight := tight, runs := 0 }) }

/-- A team's share as the results of a run that ends leave TRNX: unchanged where none sets it. -/
def State.lateTrnx (s : State) (t : Nat) (G : Group) (clk : Nat) (ps : List Pend) : State :=
  if ps.any (fun p => p.w == .trnx) then s.modShare t G.core (fun sh => sh.lateTrnx G (s.followed sh.core G) clk ps) else s

/-- The sets of TRNX that a group has on their way take effect: its next run begins, or it leaves its core (R70, R96). -/
def Share.settleTrnx (sh : Share) (g : Nat) : Share :=
  { sh with trnx := sh.trnx || sh.trnxLate.any (·.gid == g), trnxLate := sh.trnxLate.filter (·.gid != g) }

/-- The sets of TRNX that a group of a team has on their way take effect. -/
def State.settleTrnx (s : State) (t j g : Nat) : State := s.modShare t j (fun sh => sh.settleTrnx g)

/-- The budget of a role (R24): V, S and layout registers. -/
def Launch.budget (L : Launch) (r : Role) : Nat × Nat × Nat :=
  match r with
  | .vector => (L.vbudV, L.vbudS, L.vbudL)
  | .copy => (L.cbudV, L.cbudS, L.cbudL)

/-- A run of the lanes of a PC set, which has issued nothing. -/
def Run.from (act : Lanes) : Run :=
  { act := act, count := 0, clk := 0, pend := [], second := false, pairCut := false, extra := 0, now := 0, stalled := false }

/-! ### Beds -/

/-- The bed that holds an address (R301, R304). -/
def Team.bedAt (T : Team) (a : DWord) : Option (Nat × Bed) :=
  T.beds.find? (fun b => decide (b.2.base.toNat ≤ a.toNat) && decide (a.toNat < b.2.base.toNat + 64 * b.2.lines))

/-- Does the address lie in bed number `b`? -/
def Team.inBed (T : Team) (b : Option Nat) (a : DWord) : Bool :=
  match b, T.bedAt a with
  | some n, some (m, _) => n == m
  | _, _ => false

/-! ### The passing of a step -/

/-- Is a halt over (R86, R356): no victim is left to save, and every run has ended? -/
def State.haltOver (s : State) : Bool :=
  match s.pkg.halt with
  | some l => l.all (fun t => (s.team? t).isNone) && s.teams.all (fun T => T.groups.all (fun G => G.run.isNone))
  | none => false

/-- TIME after `n` nanoseconds: it never runs backwards (R91). -/
def laterTime (now : DWord) (n : Nat) : DWord := BitVec.ofNat 64 (min (now.toNat + n) (2 ^ 64 - 1))

/-- What passes with every step: a draw of the free choices, the time it takes (R91: TIME advances only once the package is up), the end of the party's turn, and of a halt that has nothing more to wait for. -/
def State.tick (s : State) : State :=
  { s with
    ctl := { s.ctl with draws := s.ctl.draws + 1, actor := none }
    pkg := { s.pkg with
      time := if s.pkg.power == .on then laterTime s.pkg.time (Config.elapse s.ctl.draws) else s.pkg.time,
      halt := if s.haltOver then none else s.pkg.halt } }

/-! ### Private space of a group that leaves or retires (R39, R211) -/

/-- A place in a list of frames of a die's SRAM that are used one after the other. -/
def framesAt (die : Nat) (fs : List Nat) (n : Nat) : PAddr := { store := .sram, unit := die, off := 65536 * nth 0 fs (n / 65536) + n % 65536 }

/-- How far into such a list an offset of the die's SRAM lies; past its end for one that lies in none of its frames. -/
def framesPos (fs : List Nat) (off : Nat) : Nat := 65536 * fs.findIdx (· == off / 65536) + off % 65536

/-- Does the line belong to the group's private space? -/
def L1Line.ofGroup (x : L1Line) (T : Team) (G : Group) : Bool :=
  x.priv && x.die == T.die && decide (G.privBase ≤ framesPos T.homes (64 * x.line)) && decide (framesPos T.homes (64 * x.line) < G.privBase + 16 * T.launch.privb)

/-- The bytes of an L1 line at their places. -/
def L1Line.cells (x : L1Line) : List (PAddr × Byte) :=
  (bytesOf x.data).zipIdx.map (fun b => ({ store := .sram, unit := x.die, off := 64 * x.line + b.2 }, b.1))

/-- Writes an L1 line back to memory. One that was filled from a line whose check word mismatched is stored poisoned: its bytes are a merge of part of the line (R397). -/
def Mem.back (m : Mem) (x : L1Line) : Mem :=
  if x.bad then (m.store x.cells).spoil [({ store := .sram, unit := x.die, off := 64 * x.line } : PAddr).line] else m.store x.cells

/-- Writes back the dirty lines among those chosen, and drops them all. -/
def State.flushLines (s : State) (c : Nat) (p : L1Line → Bool) : State :=
  let k := s.core c
  let out := k.l1.filter (fun x => p x && x.dirty)
  let s := s.setCore c { k with l1 := k.l1.filter (fun x => !p x) }
  s.modMem (fun m => out.foldl Mem.back m)

/-- Writes back and invalidates a group's private lines (R211). -/
def State.flushPriv (s : State) (T : Team) (G : Group) (c : Nat) : State :=
  s.flushLines c (fun x => x.ofGroup T G)

/-- Drops a retired group's private lines without write-back (R211). -/
def State.dropPriv (s : State) (T : Team) (G : Group) (c : Nat) : State :=
  let k := s.core c
  s.setCore c { k with l1 := k.l1.filter (fun x => !x.ofGroup T G) }

/-! ### Messages (R308 to R314) -/

/-- Is the group held at a CWAIT? -/
def Park.isCwait : Park → Bool
  | .cwait .. => true
  | _ => false

/-- Length of a message (R310). -/
def msgLen (kind v s l : Nat) : Nat := 64 + 64 * v + 64 * ceilDiv s 16 + 576 + 128 * l + (if kind = 2 ∨ kind = 3 then 576 else 0)

/-- The largest message that a VECTOR group of a launch can send (R313). -/
def Launch.msgMax (L : Launch) : Nat := msgLen (if L.graft then 2 else 1) L.vbudV L.vbudS L.vbudL

/-- The headers of a team's messages that are placed and not installed. -/
def Team.msgs (T : Team) : List MsgHdr := T.groups.filterMap (fun G => match G.place with | .message h => some h | _ => none)

/-- The first of the 8 arrival frames of team core `j` that is free (R312). -/
def Team.freeFrame (T : Team) (j : Nat) : Option Nat := (upFrom 0 8).find? (fun k => T.msgs.all (fun h => h.at_ != .frame j k))

/-- Does a message lie in place `k` of the overflow area? -/
def MsgHdr.inOverflow (h : MsgHdr) (k : Nat) : Bool := match h.at_ with | .overflow _ _ i => i == k | _ => false

/-- The first place of the overflow area that is free and has room for `len` bytes. A place is as long as the largest message, so that the area that R313 asks for has one for every group that can move (log 8). -/
def Team.freePlace (T : Team) (len : Nat) : Option Nat :=
  (upFrom 0 T.launch.nv).find? (fun k => T.msgs.all (fun h => !h.inOverflow k) && decide (k * T.launch.msgMax + len ≤ T.ovfBytes))

/-- The bytes of the overflow area in use: up to the end of the last message in it. -/
def Team.ovfUsed (T : Team) : Nat :=
  T.msgs.foldl (fun a h => match h.at_ with | .overflow _ _ k => max a (k * T.launch.msgMax + h.len) | _ => a) 0

/-- The first of the cuttings, from `first` on, with a free frame, and the frame (R308). -/
def Team.freeCutting (T : Team) (cs : List Nat) (first : Nat) : Option (Nat × Nat) :=
  ((upFrom 0 cs.length).map (fun i => nth 0 cs ((first + i) % cs.length))).findSome? (fun c => (T.freeFrame c).map (fun k => (c, k)))

/-- `GRPID XOR (GRPID >> 3)` (R304, R308). -/
def graftHash (g : Nat) : Nat := g ^^^ (g / 8)

/-- Where a message goes (R308 for a bed, R39 for a core): a frame, else the overflow area if it has room (R314). -/
def Team.choosePlace (T : Team) (g : Nat) (bed : Option Nat) (dest len : Nat) : Option MsgAt :=
  let cs := match bed with
    | some b => (spGet { base := 0, lines := 0, cores := [] } T.beds b).cores
    | none => [dest]
  match T.freeCutting cs (if bed.isSome then graftHash g % max 1 cs.length else 0) with
  | some (c, k) => some (.frame c k)
  | none => (T.freePlace len).map (.overflow bed dest)

/-! ### The bytes of a message (R309, R310) -/

/-- A number of zero bytes. -/
def zeros (n : Nat) : List Byte := List.replicate n 0

/-- HOLD of a lane record (R310), with MV and WCNT. -/
def Hold.word (h : Hold) (mv : Bool) (wcnt : Nat) : Nat :=
  (match h with
    | .runnable => 0
    | .exited => 1
    | .meet => 2
    | .wait m => 3 + 2 ^ 16 * m
    | .bar b n => 4 + 2 ^ 16 * b + 2 ^ 32 * n
    | .stg r k full => 5 + 2 ^ 16 * r + 2 ^ 20 * k + (if full then 2 ^ 24 else 0)) + (if mv then 8 else 0) + 2 ^ 8 * wcnt

/-- A lane record as bytes (R310). -/
def LaneRec.image (r : LaneRec) : List Byte :=
  natBytes 8 r.pc.toNat ++ natBytes 8 (r.meet.getD 0).toNat ++ natBytes 8 (r.hold.word r.meet.isSome r.wcnt) ++ [r.p ||| 1] ++ zeros 7

/-- The lane record of a lane as it stands. -/
def Lane.record (L : Lane) : LaneRec := { pc := L.pc, meet := L.meet, hold := L.hold, wcnt := L.wcnt, p := L.p }

/-- The latch section: X0 to X7, LIVE, zeros (R310). -/
def latchImage (xs : List Latch) : List Byte :=
  (upFrom 0 8).flatMap (fun i => laneList.flatMap (fun l => natBytes 4 (match xs[i]? with | some x => (nth 0 x.vals l).toNat | none => 0))) ++
  natBytes 1 (min 8 xs.length) ++ zeros 63

/-- The header of a message (R309). -/
def Team.headerImage (T : Team) (G : Group) (h : MsgHdr) : List Byte :=
  let trap (x : Nat) : Nat := if h.kind = 2 then x else 0
  natBytes 2 G.gid ++ natBytes 2 h.vcount ++ natBytes 2 h.scount ++ natBytes 1 (T.launch.budget G.role).2.2 ++ natBytes 1 h.kind ++
  natBytes 4 T.teamId ++ natBytes 2 (h.bed.getD 0xFFFF) ++
  natBytes 1 (match h.at_, h.bed with | .frame j _, _ => j | .overflow _ _ _, some _ => 128 | .overflow _ d _, none => 128 + d) ++ natBytes 1 G.prio ++
  natBytes 8 h.target.toNat ++ natBytes 4 h.len ++ natBytes 4 h.seq.toNat ++ natBytes 4 G.lst.toNat ++ natBytes 4 G.bcd.toNat ++
  natBytes 4 (trap G.cause.toNat) ++ natBytes 4 (trap G.elanes.toNat) ++ natBytes 8 (trap G.epc.toNat) ++ natBytes 8 (trap G.eaddr.toNat)

/-- The body of a message (R310): a KIND 2 message carries the trap frame as its lane records and latches. -/
def Team.bodyImage (T : Team) (G : Group) (h : MsgHdr) : List Byte :=
  let (recs, xs) := match h.kind, G.frame with
    | 2, some f => (f.lanes, f.xs)
    | _, _ => (G.lanes.map Lane.record, G.xs)
  (upFrom 0 h.vcount).flatMap (fun r => laneList.flatMap (fun l => natBytes 4 (spGet 0 (G.lane l).v r).toNat)) ++
  (upFrom 0 (16 * ceilDiv h.scount 16)).flatMap (fun r => natBytes 4 (if r < h.scount then (spGet 0 G.s r).toNat else 0)) ++
  (upFrom 0 12).flatMap (fun r => natBytes 2 (spGet 0 G.m r).toNat) ++ zeros 8 ++
  recs.flatMap LaneRec.image ++
  (upFrom 0 16).flatMap (fun r => natBytes 2 (spGet 0 G.h r).toNat) ++
  (upFrom 0 (T.launch.budget G.role).2.2).flatMap (fun r => natBytes 128 (spGet 0 G.l r).toNat) ++
  (if h.kind = 2 ∨ h.kind = 3 then latchImage xs else [])

/-- A place in a team's frames for messages: 8 arrival frames of 24 KiB for each core, then the overflow area (R312). -/
def Team.areaPlace (T : Team) (n : Nat) : PAddr := framesAt T.areaDie T.area n

/-- Where the overflow area begins there. -/
def Launch.overflowAt (L : Launch) : Nat := 196608 * L.cores

/-- Where a message begins in the team's frames for messages. -/
def Team.msgPos (T : Team) (a : MsgAt) : Nat :=
  match a with
  | .frame j k => 196608 * j + 24576 * k
  | .overflow _ _ k => T.launch.overflowAt + T.launch.msgMax * k

/-- The bytes of a placed message with their places. -/
def Team.msgCells (T : Team) (G : Group) : List (PAddr × Byte) :=
  match G.place with
  | .message h => (T.headerImage G h ++ T.bodyImage G h).zipIdx.map (fun b => (T.areaPlace (T.msgPos h.at_ + b.2), b.1))
  | _ => []

/-- Packs a group into a message and places it: its slot frees, the placement number and the bed's ARR rise in the same step (R307, R311, R316). None when there is no room. -/
def Team.sendGroup (T : Team) (G : Group) (kind vc sc : Nat) (bed : Option Nat) (dest : Nat) (target : DWord) : Option Team :=
  let (_, _, l) := T.launch.budget G.role
  let len := msgLen kind vc sc l
  match T.choosePlace G.gid bed dest len with
  | none => none
  | some a =>
    let seq := T.seq + 1
    let hdr : MsgHdr := { kind := kind, vcount := vc, scount := sc, bed := bed, target := target, len := len, seq := seq, at_ := a }
    let core := match a with
      | .frame j _ => j
      | .overflow _ d _ => d
    let G' := { G with place := .message hdr, core := core, run := none, parks := if kind = 3 then G.parks.filter Park.isCwait else [], xs := if kind = 2 ∨ kind = 3 then G.xs else [], xprev := [], slots := [], log := [], ready := false }
    let T := { T with seq := seq, arr := match bed with
      | some b => spPut 0 T.arr b (spGet 0 T.arr b + 1)
      | none => T.arr }
    some (T.setGroup G')

/-- A team one of whose groups has become a message: its bytes are in the message's place. -/
def State.post (s : State) (T : Team) (g : Nat) : State :=
  match T.group? g with
  | some G => (s.setTeam T).modMem (fun m => m.store (T.msgCells G))
  | none => s.setTeam T

/-- Frees the issue slot that a group holds in its quadrant. What an instruction held there had waited for is asked for anew: a fill that it caused is forgotten (R169). -/
def State.freeQuad (s : State) (c t g : Nat) : State :=
  s.modCore c (fun k => { k with
    quads := k.quads.map (fun q => if q.2.holder == some (t, g) then (q.1, { q.2 with holder := none }) else q),
    fills := k.fills.filter (fun x => x.by_ != some (.group t g)) })

/-! ### Taking a trap (R374 to R378) -/

/-- A cause on its way to a group: the address it reports (none where the manual states no EADDR, log 11), the lanes it names (none: the executing lanes), and the lanes that were performed. -/
structure Trap where
  cause : Byte
  eaddr : Option DWord := none
  names : Option Lanes := none
  performed : Lanes := 0
  src : CauseSrc := .own
  rank : Nat := 0
  deriving DecidableEq, Repr

/-- The SRC field of CAUSE (R377). -/
def CauseSrc.code : CauseSrc → Nat
  | .own => 0
  | .sequencer => 1
  | .engine => 2
  | .teamWide => 3
  | .replay => 4

/-- Marks a team as killed with a cause; the scheduler's kill (R380) removes it. -/
def State.killTeam (s : State) (t : Nat) (cause : Byte) : State :=
  s.modTeam t (fun T => match T.phase with
    | .killed _ _ => T
    | .done => T
    | _ => { T with phase := .killed cause false })

/-- Kills a team for an integrity error and counts it (R385, R388). -/
def State.killIntegrity (s : State) (t : Nat) : State :=
  ((s.killTeam t 0x50).modErrs (fun e => { e with integrity := e.integrity + 1 })).raise 3

/-- CAUSE (R377). -/
def causeWord (x : Trap) : Word :=
  BitVec.ofNat 32 (x.cause.toNat + 256 * x.src.code + (if x.src == CauseSrc.sequencer || x.src == CauseSrc.engine then 4096 * x.rank else 0))

/-- The lane records of the trap frame (R376): lanes of `exec` that were not performed record EPC, performed ones the next instruction. -/
def frameLanes (G : Group) (exec performed : Lanes) (epc : DWord) : List LaneRec :=
  G.lanes.zipIdx.map (fun x =>
    let pc := if inMask exec x.2 then (if inMask performed x.2 then nextSlot epc else epc) else x.1.pc
    { pc := pc, meet := x.1.meet, hold := x.1.hold, wcnt := x.1.wcnt, p := x.1.p })

/-- Does it wait to arrive at the BAR that holds its lanes? The group arrives after its TRET in that case (R58). -/
def Park.isArrive : Park → Bool
  | .arrive .. => true
  | _ => false

/-- EADDR: the address that a cause reports, else a free value. -/
def Trap.address (x : Trap) (draw : Nat) : DWord := x.eaddr.getD (Config.freeWord (4096 * draw + 4095) ++ Config.freeWord (4096 * draw + 4094))

/-- Trap entry (R376) of a group: the frame, the trap registers, and every non-exited lane runnable at TRAPVEC with MEET clear. What the group still waits for, but for a CWAIT, it goes on waiting for. -/
def Group.enter (G : Group) (x : Trap) (exec : Lanes) (epc vec eaddr : DWord) : Group :=
  let fr : TrapFrame := { lanes := frameLanes G exec x.performed epc, xs := G.xs.take 8, epc := epc, held := G.parks.filter Park.isCwait, counted := G.counted }
  let G := { G with
    frame := some fr, cause := causeWord x, epc := epc, eaddr := eaddr,
    elanes := (if x.src == CauseSrc.own || x.src == CauseSrc.replay then (x.names.getD exec).setWidth 32 else 0),
    inHandler := true, xs := [], xprev := [], run := none, parks := G.parks.filter (fun p => !p.isCwait && !p.isArrive), counted := false, ready := false }
  G.modLanes G.live (fun _ L => { L with pc := vec, meet := none, hold := .runnable, wcnt := 0 })

/-- Takes a trap in a group of a team (R374, R376, R378, R318): a kill where the cause, the handler state or TRAPVEC says so, else entry in place; where TRAPVEC lies in another bed, the group then leaves for it, once what it has outstanding is done. `exec` are the lanes that executed the trapping instruction. -/
def State.takeTrap (s : State) (t g : Nat) (x : Trap) (exec : Lanes) (epc : DWord) : State :=
  match s.team? t with
  | none => s
  | some T =>
    match T.group? g with
    | none => s
    | some G =>
      let c := ((T.share? G.core).map (·.core)).getD 0
      let s := s.freeQuad c t g
      if x.cause == 0x04 || G.inHandler || T.trapvec == 0 then s.killTeam t x.cause
      else if !isSlot T.trapvec then s.killTeam t 0x03
      else
        let ps := match G.run with
          | some r => r.pend
          | none => []
        let G' := (G.commitAll ps).enter x exec epc T.trapvec (x.address s.ctl.draws)
        let pinned := ((T.share? G.core).map (·.pinned)).getD none
        let G' := if T.launch.graft && !T.inBed pinned T.trapvec then { G' with parks := G'.parks ++ [.away T.trapvec] } else G'
        (s.setTeam (T.setGroup G')).lateTrnx t G (G.run.elim 0 (·.clk + 1)) ps

/-- The release tests of every mask register and meeting address, as a group that returns from its handler makes them: its handler may have changed masks, and lanes may have exited (R51, R54). -/
def Group.settleMasks (G : Group) : Group :=
  Group.meetSettle ([0, 1, 2, 3, 4, 5, 6, 7, 8, 9, 10, 11].foldl (fun G r => G.releaseMask r (spGet 0 G.m r)) G)

/-- What TRET restores from the trap frame (R379): lanes at the EPC of the entry take the current EPC, wait counts stand in HOLD (R310); latches and LIVE come back. -/
def Group.restore (G : Group) (fr : TrapFrame) : Group :=
  let lanes := G.lanes.zipIdx.map (fun x =>
    match fr.lanes[x.2]? with
    | some r => if x.1.hold == .exited then x.1 else { x.1 with pc := if r.pc == fr.epc then G.epc else r.pc, meet := r.meet, hold := r.hold, wcnt := r.wcnt, p := r.p }
    | none => x.1)
  Group.settleMasks { G with
    lanes := lanes, xs := fr.xs.map (fun x => { x with due := 0 }), xprev := [], frame := none, inHandler := false, run := none, counted := fr.counted,
    parks := G.parks.filter (fun p => p != .tret) ++ fr.held, ready := false }

/-- Adds an asynchronous cause to a group; a ninth kills the team (R375). -/
def State.deliver (s : State) (t g : Nat) (a : Async) : State :=
  match s.team? t with
  | none => s
  | some T =>
    match T.group? g with
    | none => s
    | some G => if G.causes.length ≥ 8 then s.killTeam t a.cause else s.setTeam (T.setGroup { G with causes := G.causes ++ [a] })

/-- The group that a sequencer trap of team core `j` goes to (R375). -/
def Team.seqTarget (T : Team) (j : Nat) : Option Nat :=
  let alive := T.groups.filter (fun G => G.place != .retired)
  let low (gs : List Group) : Option Nat := gs.foldl (fun a G => match a with | some k => some (min k G.gid) | none => some G.gid) none
  let here := alive.filter (fun G => G.role == .vector && G.core == j && (match G.place with | .slot _ => true | _ => false))
  match low here with
  | some g => some g
  | none =>
    match low (alive.filter (fun G => G.role == .vector)) with
    | some g => some g
    | none => low (alive.filter (fun G => G.role == .copy))

/-- A sequencer trap (R60, R187, R375): the stream stops at its PC, and the cause goes to a group of the team. -/
def State.seqTrap (s : State) (t j : Nat) (cause : Byte) : State :=
  match s.team? t with
  | none => s
  | some T =>
    match T.share? j with
    | none => s
    | some sh =>
      let s := (s.setTeam (T.setShare j { sh with redo := [], seq := { sh.seq with st := .stopped } })).modCore sh.core (fun k => { k with fills := k.fills.filter (fun x => x.by_ != some (.seq t j)) })
      if cause == 0x04 then s.killTeam t cause
      else match T.seqTarget j with
        | some g => s.deliver t g { cause := cause, src := .sequencer, rank := rankOf sh.core, eaddr := some sh.seq.pc }
        | none => s.killTeam t cause

/-- A slice thread fails (R361): its task fails with the cause, and its threads end (R351). -/
def State.failThread (s : State) (slice k : Nat) (cause : Byte) : State :=
  match s.threads.find? (fun x => x.slice == slice && x.num == k) with
  | none => s
  | some th =>
    let s := { s with threads := s.threads.filter (fun x => x.task != th.task) }
    s.modSched (fun q => { q with tasks := q.tasks.map (fun e =>
      if e.1 == th.task then (e.1, { e.2 with failed := if e.2.failed.isSome then e.2.failed else some (cause, slice), threads := 0 }) else e) })

/-! ### Queues and decrements (R341, R348) -/

/-- A work queue that nothing has described (R341). -/
def WorkQueue.off : WorkQueue :=
  { ring := 0, log2n := 0, en := false, priv := false, err := false, priomax := 0, asn := 0, tidBase := 0, tidCount := 0, head := 0, recbase := 0, bell := 0 }

/-- A work queue. -/
def State.queue (s : State) (q : Nat) : WorkQueue := spGet WorkQueue.off s.sched.queues q

/-- Is a task id in the window of a queue (R341)? -/
def WorkQueue.window (q : WorkQueue) (n : Nat) : Bool := decide (q.tidBase ≤ n) && decide (n < q.tidBase + q.tidCount)

/-- Sends a decrement to the scheduler. -/
def State.sendDec (s : State) (n : Nat) : State := s.modSched (fun q => { q with decs := q.decs ++ [{ task := n }] })

end Sys2Proof.Machine
end

