-- ==== Sys2Proof/Machine/Links.lean ====
section
/-! DEFINITION. Die links: dies, edges and routes, modules and their two directions, and the flits of far atomics (R9, R10, R390 to R393, R561, R562). -/

namespace Sys2Proof.Machine

/-! ### Dies, edges and modules (R9, R10, R391, R393) -/

/-- A die of the package: one of eight compute dies or of two I/O dies (R9). -/
inductive Die where
  | compute (d : Nat)
  | io (i : Nat)
  deriving DecidableEq, Repr

/-- The row and the column of a compute die (R9). -/
def dieRow (d : Nat) : Nat := d / 4
def dieColumn (d : Nat) : Nat := d % 4

/-- The column at whose end an I/O die stands: I/O die 0 beside compute dies 0 and 4, I/O die 1 beside 3 and 7 (R9). -/
def ioColumn (i : Nat) : Nat := if i = 0 then 0 else 3

/-- The two dies that an edge joins (R9, R10): edges 0 to 5 lie in the rows, 6 to 9 in the columns, 10 to 13 join the I/O dies. -/
def edgeEnds (e : Nat) : Die × Die :=
  if e < 6 then (.compute (e / 3 * 4 + e % 3), .compute (e / 3 * 4 + e % 3 + 1))
  else if e < 10 then (.compute (e - 6), .compute (e - 2))
  else (.io ((e - 10) / 2), .compute (ioColumn ((e - 10) / 2) + 4 * ((e - 10) % 2)))

/-- The modules of an edge: four between compute dies, two at an I/O die (R10). -/
def edgeModules (e : Nat) : Nat := if e < 10 then 4 else if e < 14 then 2 else 0

/-- The edges of a row that lie between two of its columns. -/
def rowEdges (row a b : Nat) : List Nat := upFrom (3 * row + min a b) (max a b - min a b)

/-- The edges that a request from one compute die to another crosses: along its row, then across (R10, R224). -/
def routeEdges (a b : Nat) : List Nat :=
  rowEdges (dieRow a) (dieColumn a) (dieColumn b) ++ (if dieRow a = dieRow b then [] else [6 + dieColumn b])

/-- The edges that a request from a compute die to an I/O die crosses: along its row to the end beside which that stands. -/
def ioEdges (d i : Nat) : List Nat := rowEdges (dieRow d) (dieColumn d) (ioColumn i) ++ [10 + 2 * i + dieRow d]

/-- Is every module of an edge down (R393)? -/
def State.edgeDown (s : State) (e : Nat) : Bool :=
  (upFrom 0 (edgeModules e)).all (fun m => match spFind s.links (4 * e + m) with | some l => l.down | none => false)

/-- A direction as the training leaves it: the next flit is number 0. -/
def LinkDir.up : LinkDir := { queue := [], txSeq := 0, rxSeq := 1023, replay := [], again := [], delivered := [], naks := [] }

/-- A module as the training leaves it. -/
def LinkMod.up : LinkMod := { width := 64, high := false, there := LinkDir.up, back := LinkDir.up, crcTimes := [], crcFails := 0, replays := 0, retrains := 0, down := false }

/-- The number of an edge's direction, as the events of flits name it. -/
def linkNum (edge : Nat) (back : Bool) : Nat := 2 * edge + back.toNat

/-- The edge and the direction that a number names. -/
def linkEdge (link : Nat) : Nat := link / 2
def linkBack (link : Nat) : Bool := link % 2 == 1
@[simp] theorem linkEdge_linkNum (edge : Nat) (back : Bool) : linkEdge (linkNum edge back) = edge := by cases back <;> simp [linkEdge, linkNum] <;> omega
@[simp] theorem linkBack_linkNum (edge : Nat) (back : Bool) : linkBack (linkNum edge back) = back := by cases back <;> simp [linkBack, linkNum] <;> omega

/-- One of the two directions of a module. -/
def LinkMod.dir (x : LinkMod) (back : Bool) : LinkDir := if back then x.back else x.there

/-- Replaces one of the two directions. -/
def LinkMod.setDir (x : LinkMod) (back : Bool) (d : LinkDir) : LinkMod := if back then { x with back := d } else { x with there := d }

/-- The key of a module of an edge. -/
def modKey (edge module : Nat) : Nat := 4 * edge + module

/-- A module of an edge. -/
def State.link (s : State) (edge module : Nat) : LinkMod := (spFind s.links (modKey edge module)).getD LinkMod.up

/-- Replaces a module. -/
def State.setLink (s : State) (edge module : Nat) (x : LinkMod) : State := { s with links := spIns (modKey edge module) x s.links }

/-- Does the module exist: one of four between two compute dies, one of two at an I/O die (R10)? -/
def modOk (edge module : Nat) : Bool := decide (module < edgeModules edge)

/-- Must a module retrain: eight CRC failures within 1 µs (R393)? -/
def LinkMod.mustTrain (x : LinkMod) : Bool :=
  x.crcTimes.any (fun t => decide (8 ≤ (x.crcTimes.filter (fun u => decide (t ≤ u) && decide (u ≤ t + 1000))).length))

@[simp] theorem LinkMod.setDir_dir (x : LinkMod) (back : Bool) (d : LinkDir) : (x.setDir back d).dir back = d := by cases back <;> rfl
@[simp] theorem LinkMod.setDir_dir_not (x : LinkMod) (back : Bool) (d : LinkDir) : (x.setDir back d).dir (!back) = x.dir (!back) := by cases back <;> rfl

/-! ### Routes (R10, R224, R392) -/

/-- The module on which the requests of a core to a slice cross an edge, and their replies: a fixed hash of the two chooses it, and the share of one that is down moves to those that are up (R392, R393). -/
def State.moduleOf (s : State) (e core slice : Nat) : Option Nat :=
  let up := (upFrom 0 (edgeModules e)).filter (fun m => match spFind s.links (4 * e + m) with | some l => !l.down | none => true)
  let h := Config.moduleHash core slice
  if up.contains (h % edgeModules e) then some (h % edgeModules e) else up[h % max 1 up.length]?

/-- Can a request from one compute die reach another (R393)? -/
def State.reaches (s : State) (a b : Nat) : Bool := (routeEdges a b).all (fun e => !s.edgeDown e)

/-- Can a request from a compute die reach an I/O die (R393)? The scheduler and GSTEP stand at I/O die 0. -/
def State.reachesIo (s : State) (d i : Nat) : Bool := (ioEdges d i).all (fun e => !s.edgeDown e)

/-- The edges that a request from one compute die to another crosses, in their order, each with its direction: `true` leaves the die of higher number (R224). -/
def routeHops (a b : Nat) : List (Nat × Bool) :=
  (if dieColumn a ≤ dieColumn b then (rowEdges (dieRow a) (dieColumn a) (dieColumn b)).map (fun e => (e, false))
   else (rowEdges (dieRow a) (dieColumn a) (dieColumn b)).reverse.map (fun e => (e, true))) ++
  (if dieRow a = dieRow b then [] else [(6 + dieColumn b, decide (dieRow b < dieRow a))])

/-- Must traffic from a core to a slice of a die, or back, wait: a module on its way retrains (R392, R393)? -/
def State.training (s : State) (core b slice : Nat) : Bool :=
  (routeEdges (dieOf core) b).any (fun e => match s.moduleOf e core slice with | some m => (s.link e m).mustTrain | none => false)

/-! ### The flits of far atomics (R561) -/

/-- The slice of a die that has a line (R220). -/
def sliceOf (off : Nat) : Nat := (off / 64 % 128) ^^^ (off / 8192 % 128)

/-- The slice of the package that has a place of die SRAM. -/
def PAddr.slice (a : PAddr) : Nat := 128 * a.unit + sliceOf a.off

/-- The executor of a global atomic (R275): the number of its service cluster in the package. -/
def serviceOf (a : PAddr) : Nat := 4 * a.unit + ((a.off / 4096 % 4) ^^^ (a.off / 16384 % 4))

/-- The core of a service group (R276). -/
def serviceCore (q : Nat) : Nat := coreId (q / 4) (q % 4) 0

/-- Does the executor of an atomic lie on another compute die than its core? -/
def AtomReq.far (r : AtomReq) : Bool := dieOf r.core != r.pa.unit

/-- The request that a flit carries, or answers. -/
def FlitLoad.atom : FlitLoad → Option AtomReq
  | .other => none
  | .request r => some r
  | .answer r _ => some r

/-- The request that a flit carries to its executor. -/
def FlitLoad.asked : FlitLoad → Option AtomReq
  | .request r => some r
  | _ => none

/-- The edges that a flit's load crosses, in order: an answer goes the way of its request back (R561). -/
def FlitLoad.hops : FlitLoad → List (Nat × Bool)
  | .other => []
  | .request r => routeHops (dieOf r.core) r.pa.unit
  | .answer r _ => (routeHops (dieOf r.core) r.pa.unit).reverse.map (fun h => (h.1, !h.2))

/-- What is still to be crossed after an edge. -/
def FlitLoad.after (l : FlitLoad) (h : Nat × Bool) : List (Nat × Bool) := (l.hops.dropWhile (· != h)).drop 1

/-- What one direction of a module has to deliver, oldest first. -/
def LinkDir.loads (x : LinkDir) : List FlitLoad := x.replay.map (·.2) ++ x.queue

/-- The requests of atomics on their way across die links. -/
def State.transit (s : State) : List AtomReq := s.links.flatMap (fun l => (l.2.there.loads ++ l.2.back.loads).filterMap FlitLoad.asked)

/-- The requests of global atomics that have left their core's queue and are not performed: on their way, or at their service groups. -/
def State.requests (s : State) : List AtomReq := s.pkg.svc.flatMap (·.2) ++ s.transit

/-- A module takes a load for one of its directions; where no module of the edge is up, the team whose request cannot be delivered is killed (R392, R393). The destination of an atomic's request is the core of its service group (R561); the model numbers it behind the slices. -/
def State.toModule (s : State) (h : Nat × Bool) (l : FlitLoad) : State :=
  match l.atom with
  | none => s
  | some r =>
    match s.moduleOf h.1 r.core (1024 + serviceCore (serviceOf r.pa)) with
    | none => s.killTeam r.t 0x50
    | some m =>
      let x := s.link h.1 m
      s.setLink h.1 m (x.setDir h.2 { x.dir h.2 with queue := (x.dir h.2).queue ++ [l] })

/-- A request reaches the queue of its service group (R276). -/
def State.toService (s : State) (r : AtomReq) : State :=
  s.modPkg (fun p => { p with svc := spIns (serviceOf r.pa) ((spFind p.svc (serviceOf r.pa)).getD [] ++ [r]) p.svc })

/-- Fills a return slot. -/
def State.fillSlot (s : State) (t g lane : Nat) (d : AtomDone) : State :=
  s.modGroup t g (fun G => { G with slots := spIns lane d G.slots })

/-- What a load comes to where it has no edge left to cross. -/
def State.landLoad (s : State) : FlitLoad → State
  | .other => s
  | .request r => s.toService r
  | .answer r d => s.fillSlot r.t r.g r.lane d

/-- Sends a load on its way: across the next edge, or to its end. -/
def State.forward (s : State) (l : FlitLoad) (hops : List (Nat × Bool)) : State :=
  match hops with
  | [] => s.landLoad l
  | h :: _ => s.toModule h l

/-- The answer to a request goes back to the core that issued it (R561). -/
def State.answer (s : State) (r : AtomReq) (d : AtomDone) : State := if r.reply then s.forward (.answer r d) (FlitLoad.answer r d).hops else s

end Sys2Proof.Machine
end

