-- ==== Sys2Proof/Machine/Forms.lean ====
section
/-! DEFINITION. The format of each instruction word with its fields. -/

namespace Sys2Proof.Machine

/-- An instruction word by its format (R415), or an event. -/
inductive Form where
  | nop (runEnd : Bool)
  | ri (g : RISig) (w : RIWord)
  | m (g : MSig) (w : MWord)
  | e (k : CopyOp) (w : EWord)
  | q (k : MatOp) (w : QWord)
  | word (w : InstrWord)
  | event

/-- The format of an instruction. -/
def formOf : Instr → Form
  | .nop b => .nop b
  | .bra w => .ri Sig.bra w
  | .jmp w => .ri Sig.jmp w
  | .call w => .ri Sig.call w
  | .callReg w => .ri Sig.callReg w
  | .ret w => .ri Sig.ret w
  | .exit w => .ri Sig.exit w
  | .trap w => .ri Sig.trap w
  | .brk w => .ri Sig.brk w
  | .join w => .ri Sig.join w
  | .leave w => .ri Sig.leave w
  | .wait w => .ri Sig.wait w
  | .meet w => .ri Sig.meet w
  | .meetReg w => .ri Sig.meetReg w
  | .meetClr w => .ri Sig.meetClr w
  | .mskopMov w => .ri Sig.mskopMov w
  | .mskopAnd w => .ri Sig.mskopAnd w
  | .mskopOr w => .ri Sig.mskopOr w
  | .mskopXor w => .ri Sig.mskopXor w
  | .mskopAndn w => .ri Sig.mskopAndn w
  | .mskopRd w => .ri Sig.mskopRd w
  | .graft w => .ri Sig.graft w
  | .graftReg w => .ri Sig.graftReg w
  | .migr w => .ri Sig.migr w
  | .iadd w => .ri Sig.iadd w
  | .isub w => .ri Sig.isub w
  | .imul w => .ri Sig.imul w
  | .imad w => .ri Sig.imad w
  | .imin w => .ri Sig.imin w
  | .imax w => .ri Sig.imax w
  | .iabs w => .ri Sig.iabs w
  | .icmp w => .ri Sig.icmp w
  | .and w => .ri Sig.and w
  | .or w => .ri Sig.or w
  | .xor w => .ri Sig.xor w
  | .shl w => .ri Sig.shl w
  | .shr w => .ri Sig.shr w
  | .shrA w => .ri Sig.shrA w
  | .bfe w => .ri Sig.bfe w
  | .bfi w => .ri Sig.bfi w
  | .popc w => .ri Sig.popc w
  | .clz w => .ri Sig.clz w
  | .brev w => .ri Sig.brev w
  | .mov w => .ri Sig.mov w
  | .movi w => .ri Sig.movi w
  | .sel w => .ri Sig.sel w
  | .addr w => .ri Sig.addr w
  | .plop w => .ri Sig.plop w
  | .fadd w => .ri Sig.fadd w
  | .fmul w => .ri Sig.fmul w
  | .fma w => .ri Sig.fma w
  | .fmin w => .ri Sig.fmin w
  | .fmax w => .ri Sig.fmax w
  | .fcmp w => .ri Sig.fcmp w
  | .fclass w => .ri Sig.fclass w
  | .frcp w => .ri Sig.frcp w
  | .frsq w => .ri Sig.frsq w
  | .fsqrt w => .ri Sig.fsqrt w
  | .fexp w => .ri Sig.fexp w
  | .flog w => .ri Sig.flog w
  | .ftanh w => .ri Sig.ftanh w
  | .cvt w => .ri Sig.cvt w
  | .pack w => .ri Sig.pack w
  | .unpk w => .ri Sig.unpk w
  | .shfl w => .ri Sig.shfl w
  | .vote w => .ri Sig.vote w
  | .redx w => .ri Sig.redx w
  | .prfx w => .ri Sig.prfx w
  | .matchLanes w => .ri Sig.matchLanes w
  | .ld w => .m MSig.ld w
  | .ldv w => .m MSig.ldv w
  | .ldt w => .m MSig.ldt w
  | .st w => .m MSig.st w
  | .stt w => .m MSig.stt w
  | .swld w => .m MSig.swld w
  | .swldRaw w => .m MSig.swldRaw w
  | .atomAdd w => .m (MSig.atom 0) w
  | .atomMin w => .m (MSig.atom 1) w
  | .atomMax w => .m (MSig.atom 2) w
  | .atomAnd w => .m (MSig.atom 3) w
  | .atomOr w => .m (MSig.atom 4) w
  | .atomXor w => .m (MSig.atom 5) w
  | .atomExch w => .m (MSig.atom 6) w
  | .atomf w => .m MSig.atomf w
  | .acas w => .m MSig.acas w
  | .red w => .m MSig.red w
  | .swadd w => .m MSig.swadd w
  | .enq w => .m MSig.enq w
  | .deq w => .m MSig.deq w
  | .fence w => .ri Sig.fence w
  | .rfence w => .ri Sig.rfence w
  | .cwait w => .ri Sig.cwait w
  | .wcnt w => .ri Sig.wcnt w
  | .bar w => .ri Sig.bar w
  | .stgwaitEmpty w => .ri Sig.stgwaitEmpty w
  | .stgwaitFull w => .ri Sig.stgwaitFull w
  | .stgfree w => .ri Sig.stgfree w
  | .lset w => .ri Sig.lset w
  | .lmode w => .ri Sig.lmode w
  | .lchain w => .ri Sig.lchain w
  | .lpart w => .ri Sig.lpart w
  | .ltrans w => .ri Sig.ltrans w
  | .lflat w => .ri Sig.lflat w
  | .lflatAll w => .ri Sig.lflatAll w
  | .lswz w => .ri Sig.lswz w
  | .lchk w => .ri Sig.lchk w
  | .lbcd w => .ri Sig.lbcd w
  | .lget w => .ri Sig.lget w
  | .hbind w => .ri Sig.hbind w
  | .hflush w => .ri Sig.hflush w
  | .hinfo w => .ri Sig.hinfo w
  | .obres w => .ri Sig.obres w
  | .obrel w => .ri Sig.obrel w
  | .cpy w => .e .cpy w
  | .cpygGth w => .e .gth w
  | .cpygSct w => .e .sct w
  | .cpyz w => .e .cpyz w
  | .cpyf w => .e .cpyf w
  | .copyStart _ => .event
  | .copyCompletion _ => .event
  | .mma w => .q .mma w
  | .mmab w => .q .mmab w
  | .mmat w => .q .mmat w
  | .aclr w => .q .aclr w
  | .adrn w => .q .adrn w
  | .matrixInstructionStart _ _ _ => .event
  | .matrixCommit _ _ => .event
  | .adrnCompletion _ _ => .event
  | .axfrRd w => .ri Sig.axfrRd w
  | .axfrWr w => .ri Sig.axfrWr w
  | .mloop w => .ri Sig.mloop w
  | .mjmp w => .ri Sig.mjmp w
  | .mend w => .ri Sig.mend w
  | .tlaunch w => .ri Sig.tlaunch w
  | .tdec w => .ri Sig.tdec w
  | .stepadv w => .ri Sig.stepadv w
  | .steprd w => .ri Sig.steprd w
  | .swfold w => .ri Sig.swfold w
  | .swmrg w => .ri Sig.swmrg w
  | .nmld w => .m MSig.nmld w
  | .nmst w => .m MSig.nmst w
  | .nmlog w => .m MSig.nmlog w
  | .nmcommit w => .ri Sig.nmcommit w
  | .nmabort w => .ri Sig.nmabort w
  | .sysrd w => .ri Sig.sysrd w
  | .syswr w => .ri Sig.syswr w
  | .syswrGstep w => .ri Sig.syswrGstep w
  | .syswrFactbase w => .ri Sig.syswrFactbase w
  | .syswrRecbase w => .ri Sig.syswrRecbase w
  | .syswrTrapvec w => .ri Sig.syswrTrapvec w
  | .syswrTrnxAsat w => .ri Sig.syswrTrnxAsat w
  | .syswrArr w => .ri Sig.syswrArr w
  | .tret w => .ri Sig.tret w
  | .runIssue _ _ => .event
  | .groupResume _ _ => .event
  | .operandLogReplay _ _ => .event
  | .residencyFaultService _ _ => .event
  | .pageMove _ _ _ => .event
  | .hostPageDeadline _ => .event
  | .pageResponse _ _ => .event
  | .apertureWrite _ _ _ => .event
  | .recordFill _ _ _ => .event
  | .storePerform _ _ => .event
  | .atomicServiceRequest _ => .event
  | .dataFrame _ => .event
  | .acknowledgement _ => .event
  | .keepalive _ => .event
  | .frameResend _ _ => .event
  | .handshake _ => .event
  | .rekey _ => .event
  | .peerLost _ _ _ => .event
  | .cwaitTimeout _ _ => .event
  | .ethernetFrame _ _ => .event
  | .windowMap _ _ => .event
  | .windowUnmap _ => .event
  | .bindWindowCounter _ _ _ _ => .event
  | .registerStampedRegion _ _ _ => .event
  | .registerLoggedRegion _ _ _ _ => .event
  | .undoAreaSize _ _ => .event
  | .pruneSweep _ => .event
  | .addCutting _ _ _ => .event
  | .messageInstallation _ _ => .event
  | .queueDescriptorWrite _ _ => .event
  | .doorbell _ _ _ => .event
  | .admission _ => .event
  | .taskDecrement => .event
  | .placement _ => .event
  | .gangAging _ => .event
  | .transformBinding _ _ => .event
  | .teamStart _ => .event
  | .groupRetire _ _ => .event
  | .shareRetire _ _ => .event
  | .taskCompletion _ => .event
  | .taskKill _ => .event
  | .kill _ _ => .event
  | .preemptionRequest _ => .event
  | .contextSave _ => .event
  | .contextRestore _ => .event
  | .asyncCauseDelivery _ _ => .event
  | .matrixEngineReset _ => .event
  | .flitReceive _ _ _ _ => .event
  | .flitReplay _ _ _ => .event
  | .retrain _ _ _ => .event
  | .attestationRequest _ => .event
  | .freeze => .event
  | .powerOnReset _ => .event
  | .clockGatedIdle _ => .event
  | .keepaliveReceipt _ => .event
  | .loopbackLanding _ _ => .event
  | .counterCopyUpdate _ _ => .event
  | .sweepCompletion => .event
  | .instructionLineFetch _ _ => .event
  | .bindingRemoval _ => .event
  | .overflowAreaReclaim _ _ => .event
  | .hostLinkTraining _ _ => .event
  | .unassignedOpcode w => .word w

end Sys2Proof.Machine
end

