-- ==== Sys2Proof/Machine/Layouts.lean ====
section
/-! DEFINITION. Layout registers and tensor records: reading, well-formedness, evaluation, acceptance and bank-conflict degree (06, 07, 09). -/

namespace Sys2Proof.Machine

/-- A mode entry (R101). -/
structure Mode where
  ext : Nat
  tag : Nat
  rev : Bool
  step : Int
  deriving DecidableEq, Repr

/-- A layout, read from its register (R100 to R102); `marks` says which modes begin a top-level dimension. -/
structure Layout where
  modes : List Mode
  marks : List Bool
  origin : List Int
  esz : Nat
  skw : Nat
  skd : Nat
  sks : Nat
  kind : Nat
  deriving DecidableEq, Repr

/-- Mode entry `k` of a register. -/
def modeAt (x : LayBits) (k : Nat) : Mode :=
  { ext := fldN x (64 * k) 16, tag := fldN x (64 * k + 16) 4, rev := x.getLsbD (64 * k + 20), step := signedOf 32 (fldN x (64 * k + 32) 32) }

/-- COUNT of a register (R102). -/
def layCount (x : LayBits) : Nat := fldN x 704 4

/-- The layout of a register (R100). -/
def layoutOf (x : LayBits) : Layout :=
  { modes := (upFrom 0 (layCount x)).map (modeAt x), marks := (upFrom 0 (layCount x)).map (fun k => x.getLsbD (708 + k)),
    origin := (upFrom 0 6).map (fun d => signedOf 32 (fldN x (512 + 32 * d) 32)),
    esz := fldN x 716 3, skw := fldN x 720 3, skd := fldN x 723 5, sks := fldN x 728 5, kind := fldN x 733 3 }

/-- The product of the extents (R103). -/
def Layout.size (L : Layout) : Nat := L.modes.foldl (fun a m => a * m.ext) 1

/-- Does a signed value fit 32 bits? -/
def fits32 (x : Int) : Bool := decide (-(2 ^ 31 : Int) ≤ x) && decide (x < 2 ^ 31)

/-- The die mode (R103). -/
def Layout.dieModes (L : Layout) : List Mode := L.modes.filter (·.tag == 7)

/-- Is a layout well formed, its reserved bits apart (R103)? -/
def Layout.ok (L : Layout) : Bool :=
  L.modes.length ≤ 8 && L.marks.length == L.modes.length && L.origin.length == 6 &&
  L.modes.all (fun m => 1 ≤ m.ext && m.ext < 65536 && (m.tag ≤ 5 || m.tag == 7) && fits32 m.step) &&
  L.origin.all fits32 && (L.modes == [] || L.marks.headD false) &&
  L.dieModes.length ≤ 1 && L.dieModes.all (fun m => decide (1 ≤ m.step) && decide (((m.ext : Int) - 1) * m.step ≤ 7)) &&
  L.esz != 7 && L.kind ≤ 3 &&
  ((L.skw == 0 && L.skd == 0 && L.sks == 0) || (1 ≤ L.skw && L.skd + L.skw ≤ L.sks && L.sks + L.skw ≤ 32)) &&
  L.size < 2 ^ 32

/-- The bits of a mode entry. -/
def Mode.bits (m : Mode) : Nat := m.ext + 2 ^ 16 * m.tag + (if m.rev then 2 ^ 20 else 0) + 2 ^ 32 * wrapTo 32 m.step

/-- The register image of a layout (R100 to R102). -/
def Layout.bits (L : Layout) : LayBits :=
  let modes := (L.modes.zipIdx.map (fun x => x.1.bits * 2 ^ (64 * x.2))).foldl (· + ·) 0
  let orig := (L.origin.zipIdx.map (fun x => wrapTo 32 x.1 * 2 ^ (512 + 32 * x.2))).foldl (· + ·) 0
  let marks := (L.marks.zipIdx.map (fun x => if x.1 then 2 ^ x.2 else 0)).foldl (· + ·) 0
  let hdr := L.modes.length + 2 ^ 4 * marks + 2 ^ 12 * L.esz + 2 ^ 16 * L.skw + 2 ^ 19 * L.skd + 2 ^ 24 * L.sks + 2 ^ 29 * L.kind
  BitVec.ofNat 1024 (modes + orig + hdr * 2 ^ 704)

/-- Is a register image a well-formed layout (R103)? Reserved bits are zero when the image is the one its layout gives back. -/
def layWf (x : LayBits) : Bool := layCount x ≤ 8 && (layoutOf x).ok && (layoutOf x).bits == x

/-- The top-level dimensions: runs of modes that GROUP marks off (R103). -/
def splitMarks : List (Mode × Bool) → List (List Mode)
  | [] => []
  | (m, _) :: r =>
    match splitMarks r, r with
    | g :: gs, (_, false) :: _ => (m :: g) :: gs
    | gs, _ => [m] :: gs

/-- The top-level dimensions of a layout. -/
def Layout.tops (L : Layout) : List (List Mode) := splitMarks (L.modes.zip L.marks)

/-! ### Evaluation (R104 to R110) -/

/-- Adds to a coordinate. -/
def addCoord : List Int → Nat → Int → List Int
  | [], _, _ => []
  | x :: r, 0, v => (x + v) :: r
  | x :: r, d + 1, v => x :: addCoord r d v

/-- The walk of R104 over the modes left, with the index left. -/
def walkModes : List Mode → Nat → List Int → Int → List Int × Int
  | [], _, co, en => (co, en)
  | m :: r, i, co, en =>
    let c0 := i % m.ext
    let c : Int := if m.rev then (m.ext : Int) - 1 - c0 else c0
    if m.tag = 7 then walkModes r (i / m.ext) co (en + c * m.step) else walkModes r (i / m.ext) (addCoord co m.tag (c * m.step)) en

/-- Element index to coordinates and die-map entry (R104). -/
def Layout.index (L : Layout) (i : Nat) : List Int × Int := walkModes L.modes i L.origin 0

/-- What an engine walks: a record or the implied record of R109. Extents and strides of the dimensions below the rank; `bits` is the element size. -/
structure View where
  ext : List Nat
  stride : List Int
  bits : Nat
  clip : Bool
  fill : DWord
  deriving DecidableEq, Repr

/-- The in-bounds test (R106). -/
def View.inb (V : View) (co : List Int) : Bool :=
  co.zipIdx.all (fun x =>
    match V.ext[x.2]? with
    | some e => decide (0 ≤ x.1) && decide (x.1 < e)
    | none => decide (x.1 = 0))

/-- The bank-permuting function (R108). -/
def Layout.swz (L : Layout) (o : Int) : Int :=
  if L.skw = 0 then o
  else
    let m : Int := 2 ^ L.skw
    let f := o / (2 ^ L.sks : Int) % m
    let g := o / (2 ^ L.skd : Int) % m
    o - g * 2 ^ L.skd + (g + f) % m * 2 ^ L.skd

/-- Where an element lies: whether it is in bounds, its byte offset after permutation, its bit in the byte, its die-map entry (R104 to R108). -/
structure Pos where
  inb : Bool
  off : Int
  bit : Nat
  entry : Nat
  deriving DecidableEq, Repr

/-- Σ coord[d] × STRIDE[d] (R107). -/
def strideSum (co : List Int) (st : List Int) : Int := (co.zip st).foldl (fun a x => a + x.1 * x.2) 0

/-- The place of a coordinate of a layout in a view, with a die-map entry. -/
def Layout.posOf (L : Layout) (V : View) (co : List Int) (en : Int) : Pos :=
  if V.bits < 8 then
    let p : Int := 8 * strideSum (co.drop 1) (V.stride.drop 1) + co.headD 0 * V.bits
    { inb := V.inb co, off := L.swz (p / 8), bit := (p % 8).toNat, entry := en.toNat }
  else { inb := V.inb co, off := L.swz (strideSum co V.stride), bit := 0, entry := en.toNat }

/-- The place of element `i` of a layout in a view. -/
def Layout.pos (L : Layout) (V : View) (i : Nat) : Pos := L.posOf V (L.index i).1 (L.index i).2

/-- Is the element's offset a multiple of its size (R107)? -/
def View.aligned (V : View) (p : Pos) : Bool := V.bits < 8 || p.off % ((V.bits / 8 : Nat) : Int) == 0

/-- The lowest and highest coordinate of dimension `d` that a layout reaches (R110). -/
def Layout.reach (L : Layout) (d : Nat) : Int × Int :=
  let o := nth 0 L.origin d
  L.modes.foldl (fun a m => if m.tag = d then
      let s := ((m.ext : Int) - 1) * m.step
      (a.1 + min 0 s, a.2 + max 0 s)
    else a) (o, o)

/-- The whole-operand test (R110) in the dimensions other than `moved`, whose coordinates an index supplies later (R247). -/
def Layout.within (L : Layout) (V : View) (moved : Option Nat) : Bool :=
  (upFrom 0 6).all (fun d =>
    let r := L.reach d
    moved == some d ||
    (match V.ext[d]? with
      | some e => decide (0 ≤ r.1) && decide (r.2 < e)
      | none => decide (r.1 = 0) && decide (r.2 = 0)))

/-! ### Tensor records (R162 to R168) -/

/-- A tensor record's fields (R163). -/
structure TRec where
  base : DWord
  fmt : Nat
  space : Nat
  comp : Bool
  stamped : Bool
  clip : Bool
  fillz : Bool
  rank : Nat
  skind : Nat
  ext : List Nat
  stride : List Int
  fill : Word
  cidx : DWord
  dies : List DWord
  bscale : DWord
  rscale : DWord
  cscale : DWord
  deriving DecidableEq, Repr

/-- The bytes `lo` to `lo + n − 1` of a record image as a number. -/
def recNum (x : RecBits) (lo n : Nat) : Nat := fldN x (8 * lo) (8 * n)

/-- The fields of a record image (R163). -/
def recOf (x : RecBits) : TRec :=
  { base := BitVec.ofNat 64 (recNum x 0 8), fmt := fldN x 64 5, space := recNum x 9 1,
    comp := x.getLsbD 80, stamped := x.getLsbD 81, clip := x.getLsbD 82, fillz := x.getLsbD 83,
    rank := fldN x 88 3, skind := fldN x 112 3,
    ext := (upFrom 0 6).map (fun d => recNum x (16 + 4 * d) 4),
    stride := (upFrom 0 6).map (fun d => signedOf 64 (recNum x (40 + 8 * d) 8)),
    fill := BitVec.ofNat 32 (recNum x 88 4), cidx := BitVec.ofNat 64 (recNum x 92 8),
    dies := (upFrom 0 8).map (fun d => BitVec.ofNat 64 (recNum x (100 + 8 * d) 8)),
    bscale := BitVec.ofNat 64 (recNum x 164 8), rscale := BitVec.ofNat 64 (recNum x 172 8), cscale := BitVec.ofNat 64 (recNum x 180 8) }

/-- Is a type code one of R138? -/
def typeListed (t : Nat) : Bool := [1, 2, 3, 4, 5, 6, 7, 8, 0x10, 0x11, 0x12, 0x13, 0x14, 0x15, 0x17, 0x18, 0x19].contains t

/-- Width in bits of the type with a code (R138). -/
def codeBits (t : Nat) : Nat :=
  match t with
  | 1 | 5 | 0x13 | 0x14 | 0x17 => 8
  | 2 | 6 | 0x11 | 0x12 => 16
  | 4 | 8 | 0x19 => 64
  | 0x15 => 4
  | 0x18 => 2
  | _ => 32

/-- Is a record image well formed (R165)? A COMP of 0 with an index table is not: R163 has CIDX zero there, and R165 does not list it (log 97). -/
def recWf (x : RecBits) : Bool :=
  let r := recOf x
  let addr52 (a : DWord) : Bool := a.toNat < 2 ^ 52
  1 ≤ r.rank && r.rank ≤ 6 && r.space ≤ 3 && typeListed r.fmt &&
  (!r.stamped || r.fmt == 0x19) && (if r.comp then r.cidx != 0 && r.space ≤ 1 else r.cidx == 0) &&
  (upFrom 0 6).all (fun d => if d < r.rank then 1 ≤ nth 0 r.ext d else nth 0 r.ext d == 0 && nth 0 r.stride d == 0) &&
  (r.skind % 2 == 1 || r.bscale == 0) && (r.skind / 2 % 2 == 1 || r.rscale == 0) && (r.skind / 4 % 2 == 1 || r.cscale == 0) &&
  addr52 r.base && addr52 r.cidx && addr52 r.bscale && addr52 r.rscale && addr52 r.cscale &&
  fldN x 69 3 == 0 && fldN x 84 4 == 0 && fldN x 91 5 == 0 && fldN x 115 5 == 0 && recNum x 15 1 == 0 &&
  r.dies.all (fun e => fldN e 55 8 == 0)

/-- The base address of the part of a record's tensor that a die-map entry holds; without a die mode the record's base applies (R105). -/
def TRec.baseOf (r : TRec) (L : Layout) (entry : Nat) : DWord := if L.dieModes == [] then r.base else nth 0 r.dies entry &&& 0xFFFFFFFFFFFFF#64

/-- Does a layout's die mode reach an entry of the die map that is not valid (R164)? -/
def TRec.dieHole (r : TRec) (L : Layout) : Bool :=
  L.dieModes.any (fun m => (upFrom 0 m.ext).any (fun i => !(nth 0 r.dies (i * m.step.toNat)).getLsbD 63))

/-- Does CHECK match (R168)? -/
def recCheck (x : RecBits) : Bool := crc32c ((natBytes 192 x.toNat).take 188) == recNum x 188 4

/-- The fill value of a record for elements of a size (R106). -/
def TRec.fillOf (r : TRec) (bits : Nat) : DWord :=
  if r.fillz then 0
  else if bits = 64 then r.fill ++ r.fill
  else BitVec.ofNat 64 (r.fill.toNat % 2 ^ bits)

/-- The view of a record. -/
def TRec.view (r : TRec) (bits : Nat) : View :=
  { ext := r.ext.take r.rank, stride := r.stride.take r.rank, bits := bits, clip := r.clip, fill := r.fillOf bits }

/-- The bits of an ESZ code; 0 for code 0 (R102). -/
def eszBits (c : Nat) : Nat := if c = 0 then 0 else 2 ^ c

/-- The implied record of team space or of a range of `len` bytes (R109). -/
def linearView (len bits : Nat) : View :=
  { ext := [8 * len / bits], stride := [if bits < 8 then 0 else ((bits / 8 : Nat) : Int)], bits := bits, clip := false, fill := 0 }

/-- The implied record of an accumulator tile (R109). -/
def tileView : View := { ext := [64, 64], stride := [4, 256], bits := 32, clip := false, fill := 0 }

/-! ### Acceptance (R123 to R131) -/

/-- A class with its cost (R123, R129). -/
structure Accept where
  cls : Nat
  cost : Nat
  deriving DecidableEq, Repr

/-- The operand is refused. -/
def Accept.rejected : Accept := { cls := 2, cost := 0 }

/-- The operand streams at full rate. -/
def Accept.conforming : Accept := { cls := 0, cost := 0 }

/-- The shapes of R125. -/
inductive Shape where
  | run
  | short
  | transpose
  | gather
  deriving DecidableEq, Repr

/-- Extent and byte step of the modes that count (R125). -/
def byteSteps (L : Layout) (V : View) : List (Nat × Int) :=
  (L.modes.filter (fun m => m.ext != 1 && m.tag != 7)).map (fun m =>
    let b := m.step * nth 0 V.stride m.tag
    (m.ext, if m.rev then -b else b))

/-- RUN grown over the leading modes whose steps continue the run (R125). -/
def growRun : Nat → Int → List (Nat × Int) → Nat
  | run, _, [] => run
  | run, want, (e, b) :: r => if b = want then growRun (run * e) ((e : Int) * b) r else run

/-- RUN (R125). -/
def runOf (esz : Nat) (ms : List (Nat × Int)) : Nat :=
  match ms with
  | [] => esz
  | (_, b) :: _ => if b = esz then growRun esz esz ms else 0

/-- The shape of an operand and its RUN (R125). -/
def shapeOf (L : Layout) (V : View) : Shape × Nat :=
  let esz := V.bits / 8
  let ms := byteSteps L V
  let run := runOf esz ms
  if 64 ≤ run ∨ run = L.size * esz then (.run, run)
  else if 16 ≤ run then (.short, run)
  else if run = 0 && (ms.drop 1).any (fun x => x.2 == esz) then (.transpose, run)
  else (.gather, run)

/-- The kinds a table accepts (R126). -/
def tableKinds (table : Nat) : List Nat :=
  match table with
  | 0 => [0, 1]
  | 1 | 2 | 5 => [0, 1, 2]
  | _ => [1, 2]

/-- Is the operand structurally accepted (R126)? `k` is the instruction's K. Modes of extent 1 are passed over, a die mode of extent 1 with them. -/
def structOk (table k : Nat) (L : Layout) : Bool :=
  let die := L.dieModes.any (·.ext != 1)
  let sizes := L.tops.map (fun g => g.foldl (fun a m => a * m.ext) 1)
  (tableKinds table).contains L.kind &&
  (match table with
    | 0 => !die && L.esz != 1 && L.esz != 2
    | 1 | 2 => (upFrom 0 6).all (fun d =>
        let es := (L.modes.filter (fun m => m.tag == d && m.ext != 1)).map (·.ext)
        es.length ≤ 2 && (es.length != 2 || es.all (· ≤ 255)))
    | 5 => sizes == [64, 64] && !die
    | _ => sizes.length == 2 && nth 0 sizes 0 ≤ k && nth 0 sizes 1 ≤ 64 && !die)

/-- Cost of a transpose, and of a gather (R129). -/
def transposeCost (esz : Nat) : Nat := if esz = 1 then 8 else if esz = 2 then 4 else 2

/-- The class of an operand for a table, its kind's own conditions included (R105, R109, R123 to R129); `recOk` says that the record meets R167. Modes of extent 1 and the die mode are passed over throughout (R125); where all have extent 1, mode 0 is the register's own (DEDUCED, log 15). -/
def classify (table k : Nat) (L : Layout) (V : View) (recOk : Bool) : Accept :=
  if !structOk table k L || !recOk || (L.kind != 0 && L.modes.any (·.tag == 7)) ||
      ((L.kind == 1 || L.kind == 2) && L.modes.any (·.tag != 0)) || (L.kind == 1 && L.esz == 0) then .rejected
  else if V.bits < 8 then
    match L.modes.filter (fun m => m.ext != 1 && m.tag != 7) with
    | m :: _ =>
      if m.tag == 0 && m.step == 1 && !m.rev && (m.ext * V.bits % 512 == 0 || m.ext * V.bits == L.size * V.bits) then .conforming else .rejected
    | [] => if L.size = 1 ∧ (L.modes.take 1).any (fun m => m.tag == 0 && m.step == 1 && !m.rev) then .conforming else .rejected
  else
    let esz := V.bits / 8
    match shapeOf L V with
    | (.run, _) => .conforming
    | (sh, run) =>
      if table = 0 then .conforming
      else match sh with
        | .short => { cls := 1, cost := if 32 ≤ run then 2 else 4 }
        | .transpose => { cls := 1, cost := transposeCost esz }
        | _ => if 3 ≤ table then .rejected else { cls := 1, cost := if esz = 8 then 16 else 32 }

/-- Does a record meet the conditions of R167 and R107 for a table? `compOk` where a compressed source is meant. -/
def TRec.okFor (r : TRec) (table : Nat) (L : Layout) (compOk : Bool) : Bool :=
  (L.esz == 0 || eszBits L.esz == codeBits r.fmt) && (!r.comp || compOk) &&
  (8 ≤ codeBits r.fmt || nth 0 r.stride 0 == 0) &&
  !(table == 0 && r.space == 1) && !(table == 5 && r.space != 0)

/-- LST (R92). -/
def lstWord (a : Accept) (table : Nat) : Word := BitVec.ofNat 32 (a.cls + 4 * table + (if a.cls = 1 then 256 * a.cost else 0))

/-- The worse of two operands of one engine (R124): the highest class, then the greatest cost, then the lowest table. -/
def worse (a b : Accept × Nat) : Accept × Nat :=
  if a.1.cls < b.1.cls then b else if b.1.cls < a.1.cls then a
  else if a.1.cost < b.1.cost then b else if b.1.cost < a.1.cost then a
  else if b.2 < a.2 then b else a

/-! ### Bank-conflict degree (R132 to R135) -/

/-- How a store's degree is counted (R134, R135). -/
inductive Banking where
  | scratch
  | obuf
  | lines
  | rows
  deriving DecidableEq, Repr

/-- The largest number of the items that fall in one bank. -/
def worstBank (banks : Nat) (items : List Nat) : Nat :=
  (items.foldl (fun m x => spPut 0 m (x % banks) (spGet 0 m (x % banks) + 1)) ([] : List (Nat × Nat))).foldl (fun a x => max a x.2) 0

/-- The items of `unit` bytes that the touched bytes (address, size) lie in, each once. -/
def touched (unit : Nat) (xs : List (Nat × Nat)) : List Nat :=
  (xs.flatMap (fun x => upFrom (x.1 / unit) ((x.1 + max 1 x.2 - 1) / unit - x.1 / unit + 1))).eraseDups

/-- The degree of a beat (R135): address and size of what it touches. In the scratchpad a word's bank is its number mod 128, and in the operand buffer a row's sub-bank is its number mod 32 (R132, R133). -/
def beatDegree (k : Banking) (xs : List (Nat × Nat)) : Nat :=
  match k with
  | .scratch => max 1 (min 32 (worstBank 128 (touched 4 xs)))
  | .obuf => max 1 (min 32 (worstBank 32 (touched 16 xs)))
  | .lines => max 1 (min 32 (touched 64 xs).length)
  | .rows => 1

/-- Cuts a list into pieces of `n` items. -/
def chunks {α : Type} (n : Nat) : Nat → List α → List (List α)
  | 0, _ => []
  | f + 1, l => if l.isEmpty then [] else l.take n :: chunks n f (l.drop n)

/-- How many elements of a size make an engine's beat of 128 bytes (R135). -/
def beatElems (bits : Nat) : Nat := 1024 / bits

end Sys2Proof.Machine
end

