-- ==== Sys2Proof/Machine/Operands.lean ====
section
/-! DEFINITION. Operands: which registers a word reads and writes, who may issue it, and the reading of each operand form. -/

namespace Sys2Proof.Machine

/-- OP of a word; 0 for an event. -/
def Form.op : Form → Nat
  | .nop _ => 0
  | .ri g _ => g.op.toNat
  | .m g _ => g.op.toNat
  | .e k _ => k.op.toNat
  | .q k _ => k.op.toNat
  | .word w => fldN w 88 8
  | .event => 0

/-- The header fields of a word (R410). -/
def Form.hdr : Form → Hdr
  | .nop b => { runEnd := b, noWrite := false, guard := 0 }
  | .ri _ w => w.hdr
  | .m _ w => w.hdr
  | .e _ w => w.hdr
  | .q _ w => w.hdr
  | .word w => readHdr w
  | .event => { runEnd := false, noWrite := false, guard := 0 }

/-- The system registers of R97 that are 32 bits wide, and those that are 64. -/
def sysNarrow : List Nat := [0x000, 0x001, 0x002, 0x030, 0x033]
def sysWide : List Nat := [0x004, 0x005, 0x010, 0x011, 0x020, 0x021, 0x022, 0x031, 0x032, 0x040]

/-- Is the word a latch producer (R77)? SYSRD is one for a 32-bit register (R551). -/
def Form.producer : Form → Bool
  | .ri g w => g.producer w || (g.op == 0xF0 && !sysWide.contains (sysNum w))
  | _ => false

/-- A register of any file that an instruction names. -/
inductive Reg where
  | v (n : Nat)
  | s (n : Nat)
  | p (n : Nat)
  | m (n : Nat)
  | l (n : Nat)
  | h (n : Nat)
  | x (n : Nat)
  deriving DecidableEq, Repr

/-- Does a source of this kind name a pair, where the type is wide? -/
def srcPaired (k : SrcKind) (wide : Bool) : Bool :=
  match k with
  | .any | .vDst | .cvt => wide
  | .pair | .sEven | .vEven _ => true
  | _ => false

/-- Does a destination of this kind name a pair? -/
def dstPaired (k : DstKind) (wide : Bool) : Bool :=
  match k with
  | .regT | .vT => wide
  | .pair | .vEven | .sEven => true
  | _ => false

/-- `n` consecutive V registers, or S registers. -/
def vRun (lo n : Nat) : List Reg := (upFrom lo n).map .v
def sRun (lo n : Nat) : List Reg := (upFrom lo n).map .s

/-- The registers that a source covers. -/
def srcRegs (pair : Bool) : Src → List Reg
  | .v i => vRun i.toNat (if pair then 2 else 1)
  | .s i => sRun i.toNat (if pair then 2 else 1)
  | .x n => [.x n.toNat]
  | _ => []

/-- The registers that a destination covers. -/
def dstRegs (pair : Bool) : Dst → List Reg
  | .v i => vRun i.toNat (if pair then 2 else 1)
  | .s i => sRun i.toNat (if pair then 2 else 1)
  | .idx _ => []

/-- The plain index in a source or destination field. -/
def srcNum : Src → Nat
  | .v i => i.toNat
  | .s i => i.toNat
  | .x n => n.toNat
  | .sp k => k.toNat
  | .imm k => k.toNat
  | .idx i => i.toNat
def dstNum : Dst → Nat
  | .v i => i.toNat
  | .s i => i.toNat
  | .idx i => i.toNat

/-- The layout and handle registers that a side names (R421). -/
def sideRegs (x : Side) : List Reg := .l x.lay.toNat :: (if x.sel = 1 then [.h x.num.toNat] else [])

/-- The S register of a suffix operand. -/
def sfxReg : Sfx → List Reg
  | .s i => [.s i.toNat]
  | .imm _ => []

/-- The predicate of a guard (R410). -/
def guardReg (g : BitVec 4) : List Reg := if fldN g 0 3 = 0 then [] else [.p (fldN g 0 3)]

/-- A system register of 64 bits (R97). -/
def sys64 (n : Nat) : Bool := [4, 5, 0x010, 0x011, 0x020, 0x021, 0x022, 0x031, 0x032, 0x040].contains n

/-- Registers read by fields of single opcodes of formats R and I, beyond plain sources. -/
def riExtraReads (g : RISig) (w : RIWord) : List Reg :=
  match g.op.toNat with
  | 0x08 | 0x09 | 0x0A | 0x0C => [.m (srcNum w.a)]
  | 0x36 => [.p (srcNum w.a), .p (srcNum w.b), .p (srcNum w.c)]
  | 0x64 => [.p (srcNum w.a)]
  | 0x92 => [.s w.xf.toNat]
  | 0xA0 => sRun (srcNum w.a) 32
  | 0xA1 | 0xA4 | 0xA5 | 0xA6 | 0xA7 | 0xA8 | 0xA9 => [.l (srcNum w.a)]
  | 0xA2 | 0xA3 => [.l (srcNum w.a), .l (srcNum w.b)]
  | 0xAB | 0xAC => [.h (srcNum w.a)]
  | 0xAD => sRun (srcNum w.a) 6
  | 0xC5 => if w.var = 1 then vRun (srcNum w.c) 4 else []
  | 0xC8 => [.s (dstNum w.d)]
  | 0xF1 => if sys64 (sysNum w) then sRun (srcNum w.a) 2 else []
  | _ => []

/-- Registers written by fields of single opcodes of formats R and I, beyond plain destinations. -/
def riExtraWrites (g : RISig) (w : RIWord) : List Reg :=
  match g.op.toNat with
  | 0x08 | 0x09 | 0x0A => [.m (srcNum w.a)]
  | 0x0C => if w.var = 5 then [] else [.m (srcNum w.a)]
  | 0x27 | 0x45 => if fld w.xf 3 1 == 1 then [.p (fldN w.xf 0 3)] else []
  | 0x36 => [.p (fldN w.xf 8 3)]
  | 0xA0 | 0xA1 | 0xA2 | 0xA3 | 0xA4 | 0xA5 | 0xA6 => [.l (dstNum w.d)]
  | 0xAA => [.h (dstNum w.d)]
  | 0xC5 => if w.var = 0 then vRun (dstNum w.d) 4 else []
  | 0xF0 => if sys64 (sysNum w) then sRun (dstNum w.d) 2 else []
  | _ => []

/-- The registers a word reads; `nreg` is the number of registers of an LDT or STT. -/
def Form.reads (nreg : Nat) : Form → List Reg
  | .ri g w =>
    let wide := wideType w.t
    srcRegs (srcPaired g.a (if g.a == .cvt then wideType w.t2 else wide)) w.a ++ srcRegs (srcPaired g.b wide) w.b ++ srcRegs (srcPaired g.c wide) w.c ++
      guardReg w.hdr.guard ++ riExtraReads g w
  | .m g w =>
    let wide := wideType w.t
    (if g.base then srcRegs w.wide w.a else []) ++
    (match g.b with
      | .side => (match w.b with | .idx i => sideRegs (sideOf i) | _ => [])
      | .vMax _ => vRun (srcNum w.b) 4
      | k => srcRegs (srcPaired k wide) w.b) ++
    (if g.op.toNat = 0x73 then vRun (srcNum w.c) nreg else if g.op.toNat = 0x7E then [] else srcRegs (srcPaired g.c wide) w.c) ++
      guardReg w.hdr.guard
  | .e k w =>
    sideRegs w.dside ++
    (if k == .cpyf then sRun (16 * w.sside.num.toNat + w.sside.lay.toNat) 1 else sideRegs w.sside) ++
    (if k == .gth || k == .sct then [.l w.xl.toNat] else []) ++
    sfxReg w.p0 ++ (if w.ver then (sfxReg w.p0).map (fun r => match r with | .s n => .s (n + 1) | r => r) else []) ++
    sfxReg w.p1 ++ sfxReg w.p2 ++ sfxReg w.p3 ++ sfxReg w.p4
  | .q k w =>
    (if k == .aclr then [] else sideRegs w.x) ++
    (match k with | .aclr => [] | .adrn => (if w.tr then sideRegs w.y else []) | _ => sideRegs w.y) ++
    (if w.tq then [.s w.tile.toNat] else [])
  | _ => []

/-- The registers a word writes. -/
def Form.writes (nreg : Nat) : Form → List Reg
  | .ri g w => dstRegs (dstPaired g.d (wideType w.t)) w.d ++ riExtraWrites g w
  | .m g w =>
    (if g.op.toNat = 0x72 then vRun (dstNum w.d) nreg else if g.op.toNat = 0xE0 then vRun (dstNum w.d) 4
      else dstRegs (dstPaired g.d (wideType w.t)) w.d) ++
    (if g.op.toNat = 0x7E then srcRegs (wideType w.t) w.c else [])
  | _ => []

/-- The system registers of R97 that a word reads: SYSRD its own, STEPRD GSTEP, TRET the EPC. Which registers a word that names none of them reads is the model's reading (DEDUCED, log 87). -/
def Form.sysReads : Form → List Nat
  | .ri g w => if g.op == 0xF0 then [sysNum w] else if g.op == 0xD5 then [0x010] else if g.op == 0xF2 then [0x031] else []
  | _ => []

/-- The system registers of R97 that a word writes: SYSWR its own; LCHK, the tile accesses and the copies LST; LBCD and the lane accesses BCD; STEPADV GSTEP (R92 to R94, R124, R285). A set of a sticky flag is no write, nor is what an engine writes when a command completes (DEDUCED, log 87). -/
def Form.sysWrites : Form → List Nat
  | .ri g w => if g.op == 0xF1 then [sysNum w] else if g.op == 0xA7 then [0x000] else if g.op == 0xA8 then [0x001] else if g.op == 0xD4 then [0x010] else []
  | .m g _ => if g.op == 0x72 || g.op == 0x73 then [0x000, 0x001] else if 0x70 ≤ g.op.toNat && g.op.toNat ≤ 0x7E then [0x001] else []
  | .e _ _ => [0x000]
  | _ => []

/-- Do two lists of system registers share one? -/
def sysOverlap (a b : List Nat) : Bool := a.any b.contains

/-- Do two lists of registers share one? P0 is never written (R87). -/
def overlap (a b : List Reg) : Bool := a.any (fun r => r != .p 0 && b.contains r)

/-- Are all registers within the limits of the party: V, S (or Q), L and H registers (R25, R88)? -/
def regsOk (v s l h : Nat) (rs : List Reg) : Bool :=
  rs.all (fun r => match r with
    | .v n => n < v
    | .s n => n < s
    | .l n => n < l
    | .h n => n < h
    | _ => true)

/-! ### Who may issue an opcode (R22, R358, R438) -/

/-- May a slice thread issue the opcode (R358)? -/
def threadOp (op : Nat) : Bool :=
  (0x20 ≤ op && op ≤ 0x36) || (0x40 ≤ op && op ≤ 0x4C) || (0xE0 ≤ op && op ≤ 0xE4) || [0x01, 0x05, 0x60, 0x70, 0x71, 0x75, 0x7C].contains op

/-- May the sequencer issue the opcode (R22, R438)? -/
def seqOp (op : Nat) : Bool := [0x20, 0x33, 0x94, 0x95, 0x96, 0xA0, 0xA3, 0xA4, 0xAA, 0xC0, 0xC1, 0xC2, 0xC3, 0xC4, 0xC8, 0xC9, 0xCA].contains op

/-- May a group of a role issue the opcode (R22, R438)? -/
def groupOp (r : Role) (op : Nat) : Bool :=
  if [0xC0, 0xC1, 0xC2, 0xC3, 0xC4, 0xC8, 0xC9, 0xCA].contains op || (0xE0 ≤ op && op ≤ 0xE4) then false
  else match r with
    | .copy => !([0x0D, 0x0E, 0x96, 0xC5].contains op)
    | .vector => !(0xB0 ≤ op && op ≤ 0xB3)

/-- Does the launch carry the flag that the opcode needs (R38, R306)? -/
def launchAllows (L : Launch) (op : Nat) : Bool := (op != 0x0D || L.graft) && (op != 0x0E || L.migr)

/-- The cut points that the opcode alone decides (R80); GRAFT is one when it leaves the bed. -/
def cutOp (op : Nat) : Bool :=
  (0x70 ≤ op && op ≤ 0x7E) || (0xB0 ≤ op && op ≤ 0xB3) || [0x0E, 0x90, 0x91, 0x92, 0x94, 0x95, 0xA7, 0xA8, 0xAB, 0xAC, 0xD0, 0xD1, 0xD4].contains op

/-! ### Reading operands -/

/-- How a party reads its operands: V, S (or Q), latches, special values and predicates, by register and lane. -/
structure Env where
  v : Nat → Nat → Word
  s : Nat → Word
  x : Nat → Nat → Word
  sp : Nat → Nat → Word
  p : Nat → Nat → Bool

/-- A source as 32 bits, for lane `l` (R412). -/
def Env.src (e : Env) (x : Src) (l : Nat) : Word :=
  match x with
  | .v i => e.v i.toNat l
  | .s i => e.s i.toNat
  | .x n => e.x n.toNat l
  | .sp k => e.sp k.toNat l
  | .imm k => k.signExtend 32
  | .idx _ => 0

/-- A source as 64 bits: a pair, or a sign-extended immediate (R140, R412). -/
def Env.src64 (e : Env) (x : Src) (l : Nat) : DWord :=
  match x with
  | .v i => e.v (i.toNat + 1) l ++ e.v i.toNat l
  | .s i => e.s (i.toNat + 1) ++ e.s i.toNat
  | .imm k => k.signExtend 64
  | y => (e.src y l).setWidth 64

/-- A source at the width of a type: its bits, zero above 32 for a type of 32 bits or fewer. -/
def Env.srcT (e : Env) (wide : Bool) (x : Src) (l : Nat) : DWord := if wide then e.src64 x l else (e.src x l).setWidth 64

/-- The guard of a word in lane `l` (R410). -/
def Env.guard (e : Env) (g : BitVec 4) (l : Nat) : Bool := (fldN g 0 3 == 0 || e.p (fldN g 0 3) l) != g.getLsbD 3

/-- Chooses among the values that an early reader may receive (R72): the committed one, and those on their way. -/
def early {α : Type} (draw key : Nat) (now : α) (late : List α) : α :=
  match late with
  | [] => now
  | y :: r => nth now (now :: y :: r) (Config.earlyRead (draw * 65536 + key) % (r.length + 2))

/-- The values on their way to V register `r` of lane `l`. -/
def lateV (ps : List Pend) (r l : Nat) : List Word :=
  ps.filterMap (fun p => match p.w with
    | .v q m vals => if q = r ∧ inMask m l then some (nth 0 vals l) else none
    | _ => none)

/-- The values on their way to S register `r`. -/
def lateS (ps : List Pend) (r : Nat) : List Word :=
  ps.filterMap (fun p => match p.w with
    | .s q x => if q = r then some x else none
    | _ => none)

/-- The values on their way to predicate `r` of lane `l`. -/
def lateP (ps : List Pend) (r l : Nat) : List Bool :=
  ps.filterMap (fun p => match p.w with
    | .p q m vals => if q = r ∧ inMask m l then some (inMask vals l) else none
    | _ => none)

/-- The values on their way to mask `r`. -/
def lateM (ps : List Pend) (r : Nat) : List Half :=
  ps.filterMap (fun p => match p.w with
    | .m q x => if q = r then some x else none
    | _ => none)

/-- The values on their way to layout register `r`. -/
def lateL (ps : List Pend) (r : Nat) : List LayBits :=
  ps.filterMap (fun p => match p.w with
    | .l q x => if q = r then some x else none
    | _ => none)

/-- The values on their way to handle register `r`. -/
def lateH (ps : List Pend) (r : Nat) : List Half :=
  ps.filterMap (fun p => match p.w with
    | .h q x => if q = r then some x else none
    | _ => none)

/-- Latch `n` of lane `l` at cycle `clk`; before its due cycle also what the latch held before it, be it from before a cut point (R72, R77). -/
def readLatch (draw clk : Nat) (xs before : List Latch) (n l : Nat) : Word :=
  match xs[n]? with
  | none => 0
  | some a =>
    if a.due ≤ clk then nth 0 a.vals l
    else
      let old := match (xs ++ before)[n + 1]? with
        | some b => nth 0 b.vals l
        | none => Config.freeWord (draw * 4096 + 16 * n + l)
      early draw (49152 + 16 * n + l) old [nth 0 a.vals l]

/-- TIME at the issue cycle of a group's instruction: the halves of a pair issue in one cycle (R90). -/
def State.issueTime (s : State) (G : Group) : DWord :=
  match G.run with
  | some r => if r.second && !r.stalled then r.now else s.pkg.time
  | none => s.pkg.time

/-- The special values (R21, R90). -/
def specialOf (now : DWord) (pkgid gid teamId core : Nat) (k l : Nat) : Word :=
  match k with
  | 0 => BitVec.ofNat 32 l
  | 1 => BitVec.ofNat 32 gid
  | 2 => BitVec.ofNat 32 teamId
  | 3 => BitVec.ofNat 32 (rankOf core)
  | 4 => BitVec.ofNat 32 core
  | 5 => BitVec.ofNat 32 (dieOf core)
  | 6 => BitVec.ofNat 32 pkgid
  | _ => now.setWidth 32

/-- How a group reads at cycle `clk` of its run. -/
def groupEnv (s : State) (T : Team) (G : Group) (core clk : Nat) (ps : List Pend) : Env :=
  let d := s.ctl.draws
  { v := fun r l => early d (16 * r + l) (spGet 0 (G.lane l).v r) (lateV ps r l),
    s := fun r => early d (16384 + r) (spGet 0 G.s r) (lateS ps r),
    x := fun n l => readLatch d clk G.xs G.xprev n l,
    sp := fun k l => specialOf (s.issueTime G) s.pkg.pkgid G.gid T.teamId core k l,
    p := fun r l => early d (32768 + 16 * r + l) ((G.lane l).pred r) (if r = 0 then [] else lateP ps r l) }

/-- How a sequencer reads: Q registers in place of S registers (R423). -/
def seqEnv (q : List (Nat × Word)) : Env :=
  { v := fun _ _ => 0, s := fun r => spGet 0 q r, x := fun _ _ => 0, sp := fun _ _ => 0, p := fun _ _ => true }

/-- A lane's word of a slice thread's register. -/
def Thread.vreg (th : Thread) (r l : Nat) : Word := nth 0 (spGet [] th.v r) l

/-- How a slice thread reads (R357). -/
def threadEnv (s : State) (th : Thread) : Env :=
  { v := fun r l => th.vreg r l, s := fun _ => 0, x := fun _ _ => 0,
    sp := fun k l => match k with
      | 0 => BitVec.ofNat 32 l
      | 1 => BitVec.ofNat 32 th.num
      | 2 => BitVec.ofNat 32 th.slice
      | 5 => BitVec.ofNat 32 (th.slice / 128)
      | 6 => BitVec.ofNat 32 s.pkg.pkgid
      | 7 => s.pkg.time.setWidth 32
      | _ => 0,
    p := fun r l => r == 0 || inMask (spGet 0 th.p r) l }

/-! ### The registers of an LDT or STT (R515) -/

/-- How many registers an LDT or STT through layout `L` covers with elements of `e` bytes; 65 stands for every number beyond the 64 that R515 admits. -/
def tileRegs (L : LayBits) (e : Nat) : Nat := min 65 (ceilDiv ((layoutOf L).size * e) 64)

/-- The layout register and element size of an LDT or STT. -/
def Form.tileSide : Form → Option (Nat × Nat)
  | .m g w =>
    if g.op.toNat = 0x72 ∨ g.op.toNat = 0x73 then
      (match w.b with
        | .idx i => some ((sideOf i).lay.toNat, typeBits w.t / 8)
        | _ => none)
    else none
  | _ => none

end Sys2Proof.Machine
end

