-- ==== Sys2Proof/Machine/Issue.lean ====
section
/-! DEFINITION. Issuing an instruction word: the checks of R411 that come before an instruction's own, and what follows its effect (R68 to R81). -/

namespace Sys2Proof.Machine

/-- What a performed instruction does to its party beside its own changes of the state: the register writes with their latencies, the result for the latches, the lanes that branch, the lanes that go on in a later run, whether the lanes stay at the instruction, the target of a sequencer's or thread's jump, whether the run ends, and the cycles of issue it occupies. -/
structure Eff where
  writes : List (Nat × RegWrite) := []
  latch : Option (Nat × Bool × List Word) := none
  goto : List (Nat × DWord) := []
  drop : Lanes := 0
  stay : Bool := false
  jump : Option DWord := none
  ends : Bool := false
  cycles : Nat := 1
  deriving Repr

/-- What the body of an instruction answers: performed; a cause; held in the slot; or the party has left by the body's own doing. -/
inductive Res where
  | done (s : State) (e : Eff)
  | trap (s : State) (x : Trap)
  | stall (s : State)
  | gone (s : State)

/-- What the body of a group's instruction sees. -/
structure Ctx where
  t : Nat
  g : Nat
  T : Team
  G : Group
  sh : Share
  c : Nat
  run : Run
  ex : Lanes
  pc : DWord
  i : Instr
  env : Env

/-- What the body of a sequencer's instruction sees. -/
structure SeqCtx where
  t : Nat
  j : Nat
  T : Team
  sh : Share
  pc : DWord
  i : Instr
  env : Env

/-- What the body of a slice thread's instruction sees. -/
structure ThCtx where
  th : Thread
  i : Instr
  env : Env

/-! ### Lines and pairs -/

/-- The line of the instruction store that holds an address. -/
def State.iline (s : State) (c asn : Nat) (a : DWord) : Option ILine :=
  (s.core c).istore.find? (fun x => x.asn == asn && x.addr == lineAddr a)

/-- The word of a slot of a line (R406). -/
def ILine.slot (x : ILine) (k : Nat) : InstrWord := fld x.data (96 * k) 96

/-- The line word (R407). -/
def ILine.word (x : ILine) : Word := fld x.data 480 32

/-- The instruction of a word: an unassigned OP is the row UNASSIGNED_OPCODE; none where a field is faulty. -/
def instrOf (w : InstrWord) : Option Instr :=
  match decode w with
  | .ok i => some i
  | .error .unassigned => some (.unassignedOpcode w)
  | .error (.badField _) => none

/-- Does the instruction at a slot issue as the first of a pair (R75)? -/
def ILine.pairs (x : ILine) (k : Nat) : Bool := k < 4 && x.word.getLsbD (5 + k)

/-- Where a GRAFT goes: its label, or the pair in A (R307, R424, R492). -/
def graftTarget (e : Env) (pc : DWord) (w : RIWord) : DWord :=
  if w.isImm then pc + w.imm.signExtend 64 else e.src64 w.a 0

/-- Is the instruction a cut point (R80)? A GRAFT is one only when it leaves the bed. -/
def cutPoint (T : Team) (pinned : Option Nat) (e : Env) (pc : DWord) (f : Form) : Bool :=
  cutOp f.op || (match f with
    | .ri g w => g.op == 0x0D && !T.inBed pinned (graftTarget e pc w)
    | _ => false)

/-- The other instruction of the pair that a slot begins. -/
def State.pairMate (s : State) (c asn : Nat) (r : Run) (pc : DWord) : Option Instr :=
  if r.second then none
  else match s.iline c asn pc with
    | some x => if x.pairs (slotOf pc) then instrOf (x.slot (slotOf pc + 1)) else none
    | none => none

/-! ### The operand log (R242) -/

/-- The registers that a logged access has pending: an LDT has every register that it covers (R515). -/
def LogEntry.pendingRegs (e : LogEntry) : List Reg :=
  let f := formOf e.acc.instr
  if cutOp f.op && [0x70, 0x72, 0x74, 0x75].contains f.op then f.writes e.acc.regs else []

/-- Does the instruction wait for an empty log whatever it reads (R242), before its own checks? Stores, atomics, fences, barriers, waits, ordered accesses, MIGR, and the EXIT of the last lanes. A GRAFT out of the bed is checked first and then parks (R306, R307). -/
def waitsForLog (G : Group) (ex : Lanes) (f : Form) : Bool :=
  let op := f.op
  [0x71, 0x73].contains op || (0x78 ≤ op && op ≤ 0x7E) || [0x90, 0x91, 0x92, 0x94, 0x95, 0x0E].contains op ||
  (op == 0x05 && G.live &&& ~~~ex == 0) ||
  (match f with | .m _ w => w.ord != 0 | _ => false)

/-! ### Groups -/

/-- The lanes of a group at the end of an instruction: branching lanes take their targets, the others that still run go to the next slot. -/
def stepLanes (G : Group) (ex : Lanes) (pc : DWord) (goto : List (Nat × DWord)) : Group :=
  G.modLanes ex (fun l L =>
    if L.hold != .runnable then L
    else match goto.find? (·.1 == l) with
      | some x => { L with pc := x.2 }
      | none => { L with pc := nextSlot pc })

/-- The end of a run: every result is written, the latches are lost, the slot is free (R68, R70, R79). -/
def State.endRun (s : State) (t g : Nat) (c : Nat) (r : Run) : State :=
  let s := match s.group? t g with
    | some G => s.lateTrnx t G r.clk r.pend
    | none => s
  let s := s.modGroup t g (fun G =>
    Group.meetSettle { G.commitAll r.pend with run := none, xs := [], xprev := [], ready := false })
  s.freeQuad c t g

/-- The latches of a group after an instruction: at a cut point or a pair that holds one their count begins again, a producer outside such a pair enters its result (R77, R79). What they held before stays for an early reader (R72). -/
def Group.latchesAfter (G : Group) (clk : Nat) (cutPair cut : Bool) (e : Eff) : Group :=
  if cut || cutPair then { G with xs := [], xprev := (G.xs ++ G.xprev).take 9 }
  else match e.latch with
    | some (lat, uni, vals) =>
      { G with xs := ({ due := clk + lat, uni := uni, vals := vals } :: G.xs).take 8, xprev := (G.xs.drop 7 ++ G.xprev).take 9 }
    | none => G

/-- What follows a performed instruction of a group (R68 to R81): its results set out, its lanes move on, the run goes on or ends. `lead` says that the instruction is the first of a pair. -/
def finish (x : Ctx) (cut cutPair lead : Bool) (s : State) (e : Eff) : State :=
  match s.team? x.t with
  | none => s
  | some T =>
    match T.group? x.g with
    | none => s
    | some G =>
      let nw := (formOf x.i).hdr.noWrite
      let writes := if nw then e.writes.filter (fun w => w.2 == .trnx) else e.writes
      let pend := writes.foldl (fun a w => insPend { due := x.run.clk + w.1, w := w.2 } a) x.run.pend
      let G := G.latchesAfter x.run.clk cutPair cut e
      let G := if e.stay then G else stepLanes G x.ex x.pc e.goto
      let act := x.ex &&& G.runnable &&& ~~~(if e.stay then x.ex else e.drop)
      let more := x.run.extra + (e.cycles - 1)
      let clk := if lead then x.run.clk else x.run.clk + 1 + more
      let run : Run :=
        { act := act, count := x.run.count + 1, clk := clk, pend := pend, second := lead,
          pairCut := lead && (cutPair || cut), extra := if lead then more else 0, now := s.pkg.time, stalled := false }
      let s := s.setTeam (T.setGroup { G with run := some run })
      if lead && act != 0 then s
      else if (formOf x.i).hdr.runEnd || run.count ≥ 24 || e.ends || e.goto != [] || G.parks != [] || act == 0 then s.endRun x.t x.g x.c run
      else s

/-- A trap of a group at its instruction. -/
def trapHere (x : Ctx) (s : State) (c : Trap) : State := s.takeTrap x.t x.g c x.ex x.pc

/-- The failed entry of a log. -/
def failedEntry (log : List LogEntry) : Option LogEntry := log.find? (·.failed.isSome)

/-- A log without its failed entry and those logged after it, which go unperformed (R243). -/
def intactLog (log : List LogEntry) : List LogEntry := log.takeWhile (fun e => e.failed.isNone)

/-- Drops the failed entry of a group's log and those logged after it. -/
def State.dropFailed (s : State) (t g : Nat) : State := s.modGroup t g (fun G => { G with log := intactLog G.log })

/-- The trap that a failure of an entry comes to (R243, R377). -/
def LogFail.trap (f : LogFail) : Trap := { cause := f.cause, eaddr := f.eaddr, names := some f.names, src := .replay }

/-- What an instruction that waits for the log comes to where an entry has failed with `f` (R243): the instruction takes its cause. -/
def logTrap (x : Ctx) (s : State) (f : LogFail) : State := trapHere x (s.dropFailed x.t x.g) f.trap

/-- The registers of a tile access of the group. -/
def Group.tileCount (G : Group) (f : Form) : Nat :=
  match f.tileSide with
  | some (l, e) => tileRegs (spGet 0 G.l l) e
  | none => 0

/-- Does an instruction read a register that is pending in the operand log? It is then a cut point (R80). -/
def Group.readsPending (G : Group) (f : Form) : Bool := overlap (G.log.flatMap LogEntry.pendingRegs) (f.reads (G.tileCount f))

/-- The checks of R411 and R79 on a group's instruction: the cause, if any. -/
def issueCheck (x : Ctx) (cut cutPair : Bool) : Option Byte :=
  let f := formOf x.i
  let nreg := x.G.tileCount f
  let rs := f.reads nreg ++ f.writes nreg
  let b := x.T.launch.budget x.G.role
  let latches := rs.filterMap (fun r => match r with | .x n => some n | _ => none)
  if !groupOp x.G.role f.op || !launchAllows x.T.launch f.op then some 0x07
  else if !x.i.wf then some 0x02
  else if !regsOk b.1 b.2.1 b.2.2 16 rs then some 0x02
  else if latches != [] && (cut || cutPair) then some 0x05
  else if latches.any (fun n => x.G.xs.length ≤ n) then some 0x05
  else
    let uniform := match f with
      | .ri g w => (match w.d with | .s _ => !g.free | _ => g.b == .uniform)
      | _ => false
    if uniform && latches.any (fun n => ((x.G.xs[n]?).map (fun y => !y.uni)).getD false) then some 0x02
    else none

/-- Must the instruction wait for the log, by R242? -/
def logWait (x : Ctx) : Bool :=
  x.G.log != [] && (waitsForLog x.G x.ex (formOf x.i) || x.G.readsPending (formOf x.i))

/-- Does the instruction read a latch? -/
def readsLatch (f : Form) : Bool := (f.reads 0).any (fun r => match r with | .x _ => true | _ => false)

/-- The results due by cycle `c`: they are written first in that cycle (R72). A set of TRNX that takes effect in the very cycle stays among the results, so that a clear in the same cycle does not outlast it (R96). -/
def dueBy (c : Nat) (ps : List Pend) : List Pend × List Pend :=
  let due := ps.filter (fun p => decide (p.due ≤ c))
  (due, due.filter (fun p => p.w == .trnx && p.due == c))

/-- What a group's instruction issues with: the results due by its cycle are written first (R72), then its operands are read. -/
def groupCtx (t g : Nat) (i : Instr) (s : State) : Option (Ctx × State) :=
  match s.team? t with
  | none => none
  | some T =>
    match T.group? g with
    | none => none
    | some G =>
      match G.run, T.share? G.core with
      | some r, some sh =>
        let d := G.commitTo r.clk r.pend
        let due := dueBy r.clk r.pend
        let r : Run := { r with pend := due.2 ++ d.2 }
        let sh := sh.takeTrnx due.1
        let T := T.setShare G.core sh
        let G : Group := { d.1 with run := some r }
        let T := T.setGroup G
        some ({ t := t, g := g, T := T, G := G, sh := sh, c := sh.core, run := r, ex := r.act,
                pc := (G.lane ((lowestLane r.act).getD 0)).pc, i := i, env := groupEnv s T G sh.core r.clk r.pend }, s.setTeam T)
      | _, _ => none

/-- Is the instruction a cut point of its group (R80)? -/
def Ctx.cut (x : Ctx) : Bool := cutPoint x.T x.sh.pinned x.env x.pc (formOf x.i)

/-- The second instruction of the pair that this one begins (R75). -/
def Ctx.mate (x : Ctx) (s : State) : Option Instr := s.pairMate x.c x.T.asn x.run x.pc

/-- Does the instruction begin a pair? -/
def Ctx.lead (x : Ctx) (s : State) : Bool := (x.mate s).isSome

/-- Is the other instruction of the pair a cut point (R79, R80)? -/
def Ctx.cutPair (x : Ctx) (s : State) : Bool :=
  if x.run.second then x.run.pairCut
  else match x.mate s with
    | some m => cutPoint x.T x.sh.pinned x.env (nextSlot x.pc) (formOf m) || x.G.readsPending (formOf m)
    | none => false

/-- What turns a group's instruction away before its own effect: a cause of the checks, the operand log, a halt at a cut point or at an instruction held in its slot (R411, R242, R86). None where nothing does. -/
def Ctx.turned (x : Ctx) (s : State) : Option State :=
  match issueCheck x x.cut (x.cutPair s) with
  | some cause => some (trapHere x s { cause := cause })
  | none =>
    if logWait x then
      if readsLatch (formOf x.i) then some (trapHere x s { cause := 0x05 })
      else match (failedEntry x.G.log).bind (·.failed) with
        | some f => some (logTrap x s f)
        | none => some ((s.modGroup x.t x.g (fun G => { G with parks := G.parks ++ [.reissue] })).endRun x.t x.g x.c x.run)
    else if s.pkg.halt.isSome && (x.run.stalled || ((x.cut || x.cutPair s) && !x.run.second)) then some (s.endRun x.t x.g x.c x.run)
    else none

/-- What follows a performed instruction in the context it issued with. -/
def Ctx.finish (x : Ctx) (s : State) (e : Eff) (s' : State) : State := Sys2Proof.Machine.finish x x.cut (x.cutPair s) (x.lead s) s' e

/-- An instruction is held in its slot: the stall cycles are distance between instructions (R71). -/
def Ctx.hold (x : Ctx) (s : State) : State :=
  s.modGroup x.t x.g (fun G => { G with run := G.run.map (fun r => { r with clk := r.clk + 1 + Config.openCycles s.ctl.draws, stalled := true }) })

/-- Issues a word in a group. -/
def issueGroup (t g : Nat) (i : Instr) (s : State) (body : Ctx → State → Res) : Option State :=
  match groupCtx t g i s with
  | none => none
  | some (x, s) =>
    match x.turned s with
    | some s' => some s'
    | none =>
      match body x s with
      | .done s' e => some (x.finish s e s')
      | .trap s y => some (trapHere x s y)
      | .stall s' => some (if s'.pkg.halt.isSome then s'.endRun t g x.c x.run else x.hold s')
      | .gone s => some s

/-! ### The sequencer -/

/-- The sequencer's share, changed. -/
def State.modSeq (s : State) (t j : Nat) (f : Seq → Seq) : State := s.modShare t j (fun sh => { sh with seq := f sh.seq })

/-- The checks on a word of the matrix stream (R182, R423, R439). -/
def seqCheck (f : Form) (i : Instr) : Option Byte :=
  let bad := f.hdr.runEnd || f.hdr.noWrite || f.hdr.guard != 0
  let src (x : Src) : Bool := match x with | .v _ | .x _ | .sp _ => false | _ => true
  let rs := f.reads 0 ++ f.writes 0
  if !seqOp f.op then some 0x07
  else if !i.wf || bad || !regsOk 0 64 4 4 rs then some 0x02
  else match f with
    | .ri _ w => if src w.a && src w.b && src w.c && !wideType w.t && !(match w.d with | .v _ => true | _ => false) then none else some 0x02
    | _ => none

/-- What a sequencer's instruction issues with: a running stream. -/
def seqCtx (t j : Nat) (i : Instr) (s : State) : Option SeqCtx :=
  match s.team? t with
  | none => none
  | some T =>
    match T.share? j with
    | none => none
    | some sh => if sh.seq.st != .running then none else some { t := t, j := j, T := T, sh := sh, pc := sh.seq.pc, i := i, env := seqEnv sh.seq.q }

/-- Writes a register of a sequencer. -/
def Seq.write (q : Seq) (w : RegWrite) : Seq :=
  match w with
  | .s r x => { q with q := spPut 0 q.q r x }
  | .l r x => { q with l := spPut 0 q.l r x }
  | .h r x => { q with h := spPut 0 q.h r x }
  | _ => q

/-- What follows a performed instruction of a sequencer: its PC, then its registers. -/
def SeqCtx.finish (x : SeqCtx) (s : State) (e : Eff) : State :=
  let s := s.modSeq x.t x.j (fun q => { q with pc := match e.jump with | some a => a | none => nextSlot x.pc })
  s.modSeq x.t x.j (fun q => e.writes.foldl (fun q w => q.write w.2) q)

/-- Issues a word in a sequencer. -/
def issueSeq (t j : Nat) (i : Instr) (s : State) (body : SeqCtx → State → Res) : Option State :=
  match seqCtx t j i s with
  | none => none
  | some x =>
    match seqCheck (formOf i) i with
    | some cause => some (s.seqTrap t j cause)
    | none =>
      match body x s with
      | .done s e => some (x.finish s e)
      | .trap s c => some (s.seqTrap t j c.cause)
      | .stall s => some s
      | .gone s => some s

/-! ### Slice threads -/

/-- A slice thread of a slice. -/
def State.thread? (s : State) (slice k : Nat) : Option Thread := s.threads.find? (fun x => x.slice == slice && x.num == k)

/-- Replaces a slice thread. -/
def State.setThread (s : State) (th : Thread) : State :=
  { s with threads := s.threads.map (fun x => if x.slice == th.slice && x.num == th.num then th else x) }

/-- Writes a register of a thread. -/
def Thread.write (th : Thread) (w : RegWrite) : Thread :=
  match w with
  | .v r m vals => { th with v := spPut [] th.v r (laneList.map (fun l => if inMask m l then nth 0 vals l else th.vreg r l)) }
  | .p r m vals => if r = 0 then th else { th with p := spPut 0 th.p r ((spGet 0 th.p r &&& ~~~m) ||| (vals &&& m)) }
  | _ => th

/-- The checks on a word of a slice thread (R358, R439). -/
def threadCheck (f : Form) (i : Instr) : Option Byte :=
  if !threadOp f.op then some 0x01
  else if !i.wf || f.hdr.noWrite || readsLatch f || !regsOk 64 0 0 0 (f.reads 0 ++ f.writes 0) then some 0x02
  else match f with
    | .m _ w => if w.space != 3 then some 0x02 else none
    | _ => none

/-- What follows a performed instruction of a slice thread. -/
def ThCtx.finish (x : ThCtx) (s : State) (e : Eff) : State :=
  match s.thread? x.th.slice x.th.num with
  | some th =>
    let th := e.writes.foldl (fun th w => th.write w.2) th
    s.setThread { th with pc := match e.jump with | some a => a | none => nextSlot th.pc }
  | none => s

/-- Issues a word in a slice thread. -/
def issueThread (slice k : Nat) (i : Instr) (s : State) (body : ThCtx → State → Res) : Option State :=
  match s.thread? slice k with
  | none => none
  | some th =>
    match threadCheck (formOf i) i with
    | some cause => some (s.failThread slice k cause)
    | none =>
      let x : ThCtx := { th := th, i := i, env := threadEnv s th }
      match body x s with
      | .done s e => some (x.finish s e)
      | .trap s c => some (s.failThread slice k c.cause)
      | .stall s => some s
      | .gone s => some s

/-! ### Any party -/

/-- A request of a group to I/O die 0: where no way to it is up, its team is killed (R393). -/
def State.askIo (s : State) (x : Ctx) (go : Res) : Res := if s.reachesIo (dieOf x.c) 0 then go else .gone (s.killTeam x.t 0x50)

/-- Nothing of a word is performed by this party; its checks refuse it first. -/
def noBody {α : Type} (_ : α) (s : State) : Res := .gone s

/-- Issues a word in the party whose turn it is, and lets the step pass. -/
def issue (i : Instr) (s : State) (group : Ctx → State → Res) (seq : SeqCtx → State → Res) (thread : ThCtx → State → Res) :
    Host.Outcome State Fault Refusal :=
  let out := match s.ctl.actor with
    | none => none
    | some (.group t g) => issueGroup t g i s group
    | some (.seq t j) => issueSeq t j i s seq
    | some (.thread a b) => issueThread a b i s thread
  match out with
  | some s => .next s.tick
  | none => .fault .noParty

/-- Issues a word that only groups may issue. -/
def issueG (i : Instr) (s : State) (group : Ctx → State → Res) : Host.Outcome State Fault Refusal := issue i s group noBody noBody

/-- Issues a word that only sequencers may issue. -/
def issueS (i : Instr) (s : State) (seq : SeqCtx → State → Res) : Host.Outcome State Fault Refusal := issue i s noBody seq noBody

/-- Issues a word that only slice threads may issue. -/
def issueT (i : Instr) (s : State) (thread : ThCtx → State → Res) : Host.Outcome State Fault Refusal := issue i s noBody noBody thread

/-- An event of the machine: it happens where its condition holds; otherwise the step passes with nothing done. -/
def event (s : State) (o : Option State) : Host.Outcome State Fault Refusal :=
  match o with
  | some s' => .next s'.tick
  | none => .next s.tick

/-! ### Results of one value a lane -/

/-- The writes of a result to the register that D names: one value a lane in a V register or pair, one value in an S register or pair. -/
def destWrites (d : Dst) (wide : Bool) (lat : Nat) (ex : Lanes) (vals : List DWord) : List (Nat × RegWrite) :=
  let lo := vals.map (fun x => x.setWidth 32)
  let hi := vals.map (fun (x : DWord) => (x >>> 32).setWidth 32)
  match d with
  | .v i => (lat, .v i.toNat ex lo) :: (if wide then [(lat, .v (i.toNat + 1) ex hi)] else [])
  | .s i =>
    let l := (lowestLane ex).getD 0
    (lat, .s i.toNat (nth 0 lo l)) :: (if wide then [(lat, .s (i.toNat + 1) (nth 0 hi l))] else [])
  | .idx _ => []

/-- The effect of an instruction of format R or I that computes one value a lane. The latch holds the value computed for each of the 16 lanes, executing or not; what a latch supplies for a lane that did not execute its producer is open (R77), and this is the model's choice (DESIGN CHOICE, log 64). -/
def valueEff (g : RISig) (w : RIWord) (wide : Bool) (lat : Nat) (ex : Lanes) (vals : List DWord) : Eff :=
  { writes := destWrites w.d wide lat ex vals,
    latch := if g.producer w then
        some (lat, (match w.d with | .s _ => true | _ => false),
          (match w.d with
            | .s _ => laneList.map (fun _ => (nth 0 vals ((lowestLane ex).getD 0)).setWidth 32)
            | _ => vals.map (fun x => x.setWidth 32)))
      else none }

/-- Issues a word whose result is a function of its operands, lane by lane (R441). -/
def issueValue (g : RISig) (w : RIWord) (i : Instr) (wide : Bool) (lat : Nat) (val : Env → Nat → DWord) (s : State) :
    Host.Outcome State Fault Refusal :=
  issue i s
    (fun x s => .done s (valueEff g w wide lat x.ex (laneList.map (val x.env))))
    (fun x s => .done s { writes := destWrites w.d false 0 1 (laneList.map (val x.env)) })
    (fun x s => .done s { writes := destWrites w.d wide 0 0xFFFF (laneList.map (val x.env)) })

end Sys2Proof.Machine
end

