-- ==== Sys2Proof/Machine/Flags.lean ====
section
/-! DEFINITION. What instructions report beside their results: comparisons, saturation, predicates, and the sticky flags of a share. -/

namespace Sys2Proof.Machine

/-- The relations of ICMP (R497). -/
def icmpRel (rel : Nat) (a b : Int) : Bool :=
  match rel with
  | 0 => a == b
  | 1 => a != b
  | 2 => decide (a < b)
  | 3 => decide (a ≤ b)
  | 4 => decide (b < a)
  | _ => decide (b ≤ a)

/-- The value of a type's low bits: signed for I types, unsigned for N types (R497). -/
def intOf (t : BitVec 5) (x : DWord) : Int :=
  let w := typeBits t
  if isSignedT t then signedOf w (x.toNat % 2 ^ w) else ((x.toNat % 2 ^ w : Nat) : Int)

/-- An exact integer in a type: clamped under .SAT, wrapped otherwise (R152), and placed as R140 states. -/
def intPlace (t : BitVec 5) (sat : Bool) (x : Int) : DWord :=
  let w := typeBits t
  let r := intRange w (isSignedT t)
  placeBits (isSignedT t) w (if sat then wrapTo w (clampInt r x) else wrapTo w x)

/-- Bits in a type, placed as R140 states. -/
def bitsPlace (t : BitVec 5) (x : Nat) : DWord := placeBits (isSignedT t) (typeBits t) x

/-- The second operand of a word: B, or the immediate of format I, sign-extended for a 64-bit type (R412, R497; log 14). -/
def srcB (e : Env) (w : RIWord) (wide : Bool) (l : Nat) : DWord :=
  if w.isImm then (if wide then w.imm.signExtend 64 else w.imm.setWidth 64) else e.srcT wide w.b l

/-- A true result as the word 1, a false one as 0 (R497, R485). -/
def boolWord (b : Bool) : DWord := if b then 1 else 0

/-- The lanes for which a comparison holds. -/
def lanesWhere (f : Nat → Bool) : Lanes := maskOf f

/-- The effect of a comparison: a predicate when PW is set, else 1 or 0 in the destination (R474). -/
def compareEff (g : RISig) (w : RIWord) (lat : Nat) (ex : Lanes) (f : Nat → Bool) : Eff :=
  if fld w.xf 3 1 == 1 then { writes := [(lat, .p (fldN w.xf 0 3) ex (lanesWhere f))] }
  else valueEff g w false lat ex (laneList.map (fun l => boolWord (f l)))

/-- Issues a comparison. -/
def issueCompare (g : RISig) (w : RIWord) (i : Instr) (lat : Nat) (f : Env → Nat → Bool) (s : State) : Host.Outcome State Fault Refusal :=
  issue i s
    (fun x s => .done s (compareEff g w lat x.ex (f x.env)))
    noBody
    (fun x s => .done s (compareEff g w 0 0xFFFF (f x.env)))

/-- Sets TRNX of a share (R95). -/
def State.setTrnx (s : State) (t j : Nat) (on : Bool) : State := if on then s.modShare t j (fun sh => { sh with trnx := true }) else s

/-- Sets ASAT of a share (R95). -/
def State.setAsat (s : State) (t j : Nat) (on : Bool) : State := if on then s.modShare t j (fun sh => { sh with asat := true }) else s

/-- BCD or BCDM (R93). -/
def bcdWord (degree src : Nat) : Word := BitVec.ofNat 32 (degree + 256 * src)

end Sys2Proof.Machine
end

