-- ==== Sys2Proof/Machine/Transcend.lean ====
section
/-! DEFINITION. The transcendental functions (R487, R488): exact quotients and roots, and enclosures of 2^a, log2 a and tanh a in fixed point. -/

namespace Sys2Proof.Machine

/-- One step of the integer square root by Newton, while it goes down. -/
def isqrtFrom : Nat → Nat → Nat → Nat
  | 0, _, r => r
  | f + 1, n, r =>
    let q := (r + n / r) / 2
    if q < r then isqrtFrom f n q else r

/-- The integer square root. -/
def isqrt (n : Nat) : Nat := if n = 0 then 0 else isqrtFrom 64 n (2 ^ (Nat.log2 n / 2 + 1))

/-- Fraction bits of the fixed-point numbers of this file. -/
def fixBits : Nat := 200

/-- The natural logarithm of 2, times 2^200, rounded down. -/
def ln2Fix : Nat := 1113844574712631719546256151097547306333272293549090750737802

/-- The terms y^k / k! for `k` from the last one on, each rounded down, added up. -/
def expTerms : Nat → Nat → Nat → Nat → Nat
  | 0, _, _, _ => 0
  | f + 1, k, y, t => t + expTerms f (k + 1) y (t * y / (2 ^ fixBits * (k + 1)))

/-- A lower bound of e^y for 0 ≤ y < 1, in fixed point; the exact value lies less than 2^16 units above it. -/
def expFix (y : Nat) : Nat := expTerms 50 0 y (2 ^ fixBits)

/-- The terms z^(2k+1) / (2k+1), each rounded down, added up; `z2` is z squared. -/
def atanhTerms : Nat → Nat → Nat → Nat → Nat
  | 0, _, _, _ => 0
  | f + 1, k, z2, t => t / (2 * k + 1) + atanhTerms f (k + 1) z2 (t * z2 / 2 ^ fixBits)

/-- A lower bound of log2 x for x = m / 2^k in [1, 2), in fixed point; the exact value lies less than 2^16 units above it. -/
def log2Fix (m k : Nat) : Nat :=
  let z := (m - 2 ^ k) * 2 ^ fixBits / (m + 2 ^ k)
  2 * atanhTerms 80 0 (z * z / 2 ^ fixBits) z * 2 ^ fixBits / (ln2Fix + 1)

/-- Rounds a number known to lie between two bounds to FP32, ties to even: none where the bounds round apart. -/
def roundBetween (sat ftz neg : Bool) (lo hi : Nat) (e : Int) : Option Nat :=
  let a := roundTo fmt32 .rne sat ftz neg lo e true
  let b := roundTo fmt32 .rne sat ftz neg hi e true
  if a = b then some a else none

/-- The slack of an enclosure in units of the last place. -/
def fixSlack : Nat := 2 ^ 20

/-- 2^a for a finite a that is not zero (R488), as FP32 bits. -/
def exp2Fin (sat ftz neg : Bool) (m : Nat) (e : Int) : Option Nat :=
  if 9 < (Nat.log2 m : Int) + e then some (if neg then roundTo fmt32 .rne sat ftz false 1 (-400) true else roundTo fmt32 .rne sat ftz false 1 400 true)
  else
    let num : Nat := if 0 ≤ e + fixBits then m * 2 ^ (e + fixBits).toNat else m / 2 ^ (-(e + fixBits)).toNat
    let exact : Bool := decide (0 ≤ e + fixBits) || m % 2 ^ (-(e + fixBits)).toNat == 0
    let x : Int := if neg then (if exact then -(num : Int) else -(num : Int) - 1) else num
    let n := x / (2 ^ fixBits : Int)
    let f := (x % (2 ^ fixBits : Int)).toNat
    if f = 0 && exact then some (roundTo fmt32 .rne sat ftz false 1 n)
    else
      let lo := expFix (f * ln2Fix / 2 ^ fixBits)
      roundBetween sat ftz false lo (lo + fixSlack) (n - fixBits)

/-- log2 a for a positive finite a (R488). -/
def log2Fin (sat ftz : Bool) (m : Nat) (e : Int) : Option Nat :=
  let k := Nat.log2 m
  let n : Int := (k : Int) + e
  if m = 2 ^ k then some (roundTo fmt32 .rne sat ftz (decide (n < 0)) n.natAbs 0)
  else
    let lo : Int := n * 2 ^ fixBits + log2Fix m k
    let hi : Int := lo + fixSlack
    if 0 ≤ lo then roundBetween sat ftz false lo.natAbs hi.natAbs (-(fixBits : Int))
    else roundBetween sat ftz true hi.natAbs lo.natAbs (-(fixBits : Int))

/-- tanh a for a finite a that is not zero (R488). -/
def tanhFin (sat ftz neg : Bool) (m : Nat) (e : Int) : Option Nat :=
  let top : Int := (Nat.log2 m : Int) + e
  if top < -13 then some (roundTo fmt32 .rne sat ftz neg m e)
  else if 5 ≤ top then some (roundTo fmt32 .rne sat ftz neg 1 0)
  else
    let y : Nat := 2 * m * 2 ^ (e + fixBits).toNat
    let n := y / (ln2Fix + 1)
    let r := y - n * (ln2Fix + 1)
    let eLo := expFix r * 2 ^ n
    let eHi := (expFix (r + n + 1) + fixSlack) * 2 ^ n
    let one := 2 ^ fixBits
    let lo := (eLo - one) * 2 ^ fixBits / (eLo + one)
    let hi := (eHi - one) * 2 ^ fixBits / (eHi + one) + 1
    roundBetween sat ftz neg lo hi (-(fixBits : Int))

/-- The exact reciprocal of m × 2^e, rounded (R488). -/
def rcpFin (f : Fmt) (rm : RMode) (sat ftz neg : Bool) (m : Nat) (e : Int) : Nat :=
  let k := 64 + Nat.log2 m
  roundTo f rm sat ftz neg (2 ^ k / m) (-(k : Int) - e) (2 ^ k % m != 0)

/-- The exact square root of m × 2^e, rounded (R488). -/
def sqrtFin (f : Fmt) (rm : RMode) (sat ftz : Bool) (m : Nat) (e : Int) : Nat :=
  let (m, e) : Nat × Int := if e % 2 = 0 then (m, e) else (2 * m, e - 1)
  let n := m * 2 ^ 128
  let r := isqrt n
  roundTo f rm sat ftz false r (e / 2 - 64) (r * r != n)

/-- The reciprocal square root of m × 2^e as FP32 (R488). -/
def rsqFin (sat ftz : Bool) (m : Nat) (e : Int) : Nat :=
  let (m, e) : Nat × Int := if e % 2 = 0 then (m, e) else (2 * m, e - 1)
  let k := 96 + Nat.log2 m
  let r := isqrt (2 ^ (2 * k) / m)
  roundTo fmt32 .rne sat ftz false r (-(k : Int) - e / 2) (r * r * m != 2 ^ (2 * k))

/-- The six functions. -/
inductive TFun where
  | rcp
  | rsq
  | sqrt
  | exp
  | log
  | tanh
  deriving DecidableEq, Repr

/-- OP of a transcendental (R488). -/
def TFun.op : TFun → Nat
  | .rcp => 0x46
  | .rsq => 0x47
  | .sqrt => 0x48
  | .exp => 0x49
  | .log => 0x4A
  | .tanh => 0x4B

/-- The FP32 result of a faithful function rounded to the type of the instruction (R488). -/
def narrow32 (f : Fmt) (sat ftz : Bool) (x : Nat) : Nat := if f.width = 32 then x else fencode f .rne sat ftz (fdecode fmt32 x)

/-- The result of a transcendental in format `f` (R488): its special values, then the function of a finite source. -/
def transBits (k : TFun) (f : Fmt) (rm : RMode) (sat ftz : Bool) (a : Nat) : Nat :=
  let x := flushIn f ftz (fdecode f a)
  let inf (neg : Bool) : Nat := withSign f neg (f.inf.getD 0)
  let one : Nat := f.bias * 2 ^ f.m
  let ftz32 := ftz && f.width == 32
  let res (r : Option Nat) : Nat := narrow32 f sat ftz (r.getD (Config.transcend k.op (BitVec.ofNat 32 a)).toNat)
  match x with
  | .nan => canonNan f
  | .inf neg =>
    (match k, neg with
      | .rcp, n => withSign f n 0
      | .sqrt, false => inf false
      | .rsq, false => 0
      | .exp, false => inf false
      | .exp, true => 0
      | .log, false => inf false
      | .tanh, n => withSign f n one
      | _, true => canonNan f)
  | .fin neg m e =>
    if m = 0 then
      (match k with
        | .rcp => inf neg
        | .rsq => inf neg
        | .sqrt => withSign f neg 0
        | .exp => one
        | .log => inf true
        | .tanh => withSign f neg 0)
    else
      match k, neg with
      | .rcp, n => rcpFin f rm sat ftz n m e
      | .sqrt, false => sqrtFin f rm sat ftz m e
      | .rsq, false => narrow32 f sat ftz (rsqFin sat ftz32 m e)
      | .exp, n => res (exp2Fin sat ftz32 n m e)
      | .log, false => res (log2Fin sat ftz32 m e)
      | .tanh, n => res (tanhFin sat ftz32 n m e)
      | _, true => canonNan f

end Sys2Proof.Machine
end

