-- ==== Sys2Proof/Machine/FloatOps.lean ====
section
/-! DEFINITION. Float instructions, conversions, packing (R469 to R471, R482 to R488, R536, R537). -/

namespace Sys2Proof.Machine

/-- The format of a float instruction's type. -/
def fmtT (t : BitVec 5) : Fmt := (fmtOf t.toNat).getD fmt32

/-- Source A of a float word. -/
def fsrcA (w : RIWord) (e : Env) (l : Nat) : Nat := (e.src w.a l).toNat

/-- Source B of a float word: a register, or the FP32 constant of format I converted to T (R482). -/
def fsrcB (w : RIWord) (e : Env) (l : Nat) : Nat :=
  if w.isImm then fencode (fmtT w.t) .rne false false (fdecode fmt32 w.imm.toNat) else (e.src w.b l).toNat

/-- FADD (R483). -/
def execFadd (w : RIWord) (s : State) : Host.Outcome State Fault Refusal :=
  issueValue Sig.fadd w (.fadd w) false 4
    (fun e l => BitVec.ofNat 64 (faddBits (fmtT w.t) (rmOf w.rm) w.sat w.ftz (fsrcA w e l) (fsrcB w e l))) s

/-- FMUL (R483). -/
def execFmul (w : RIWord) (s : State) : Host.Outcome State Fault Refusal :=
  issueValue Sig.fmul w (.fmul w) false 4
    (fun e l => BitVec.ofNat 64 (fmulBits (fmtT w.t) (rmOf w.rm) w.sat w.ftz (fsrcA w e l) (fsrcB w e l))) s

/-- FMA (R483). -/
def execFma (w : RIWord) (s : State) : Host.Outcome State Fault Refusal :=
  issueValue Sig.fma w (.fma w) false 4
    (fun e l => BitVec.ofNat 64
      (fmaBits (fmtT w.t) (rmOf w.rm) w.sat w.ftz (fsrcA w e l) (fsrcB w e l) (e.src w.c l).toNat)) s

/-- FMIN (R483). -/
def execFmin (w : RIWord) (s : State) : Host.Outcome State Fault Refusal :=
  issueValue Sig.fmin w (.fmin w) false 2
    (fun e l => BitVec.ofNat 64 (fminmaxBits (fmtT w.t) w.ftz false (fsrcA w e l) (fsrcB w e l))) s

/-- FMAX (R483). -/
def execFmax (w : RIWord) (s : State) : Host.Outcome State Fault Refusal :=
  issueValue Sig.fmax w (.fmax w) false 2
    (fun e l => BitVec.ofNat 64 (fminmaxBits (fmtT w.t) w.ftz true (fsrcA w e l) (fsrcB w e l))) s

/-- FCMP (R485). -/
def execFcmp (w : RIWord) (s : State) : Host.Outcome State Fault Refusal :=
  issueCompare Sig.fcmp w (.fcmp w) 2 (fun e l => fcmpBits (fmtT w.t) w.ftz w.var.toNat (fsrcA w e l) (fsrcB w e l)) s

/-- FCLASS (R486). -/
def execFclass (w : RIWord) (s : State) : Host.Outcome State Fault Refusal :=
  issueValue Sig.fclass w (.fclass w) false 2 (fun e l => BitVec.ofNat 64 (fclassBits (fmtT w.t) (fsrcA w e l))) s

/-- The value of a transcendental word. -/
def transVal (k : TFun) (w : RIWord) (e : Env) (l : Nat) : DWord :=
  BitVec.ofNat 64 (transBits k (fmtT w.t) (rmOf w.rm) w.sat w.ftz (fsrcA w e l))

/-- FRCP (R488). -/
def execFrcp (w : RIWord) (s : State) : Host.Outcome State Fault Refusal := issueValue Sig.frcp w (.frcp w) false 12 (transVal .rcp w) s

/-- FRSQ (R488). -/
def execFrsq (w : RIWord) (s : State) : Host.Outcome State Fault Refusal := issueValue Sig.frsq w (.frsq w) false 12 (transVal .rsq w) s

/-- FSQRT (R488). -/
def execFsqrt (w : RIWord) (s : State) : Host.Outcome State Fault Refusal := issueValue Sig.fsqrt w (.fsqrt w) false 12 (transVal .sqrt w) s

/-- FEXP (R488). -/
def execFexp (w : RIWord) (s : State) : Host.Outcome State Fault Refusal := issueValue Sig.fexp w (.fexp w) false 12 (transVal .exp w) s

/-- FLOG (R488). -/
def execFlog (w : RIWord) (s : State) : Host.Outcome State Fault Refusal := issueValue Sig.flog w (.flog w) false 12 (transVal .log w) s

/-- FTANH (R488). -/
def execFtanh (w : RIWord) (s : State) : Host.Outcome State Fault Refusal := issueValue Sig.ftanh w (.ftanh w) false 12 (transVal .tanh w) s

/-- The value of a conversion and whether it read the reserved ternary code (R470). -/
def cvtLane (w : RIWord) (e : Env) (l : Nat) : DWord × Bool :=
  let (x, trnx) := cvtBits w.t w.t2 (rmOf w.rm) w.sat w.ftz (e.srcT (wideType w.t2) w.a l).toNat
  (placeBits (isSignedT w.t) (typeBits w.t) x, trnx)

/-- The set of TRNX, where an executing lane read the reserved code: it takes effect with the instruction's latency (R95, R96). -/
def trnxOf (x : Ctx) (f : Nat → Bool) : List (Nat × RegWrite) := if (lanesOf x.ex).any f then [(4, .trnx)] else []

/-- The effect of an instruction with a set of TRNX beside it. -/
def Eff.withTrnx (e : Eff) (ws : List (Nat × RegWrite)) : Eff := { e with writes := e.writes ++ ws }

/-- CVT (R470). -/
def execCvt (w : RIWord) (s : State) : Host.Outcome State Fault Refusal :=
  issue (.cvt w) s
    (fun x s => .done s ((valueEff Sig.cvt w (wideType w.t) 4 x.ex (laneList.map (fun l => (cvtLane w x.env l).1))).withTrnx
      (trnxOf x (fun l => (cvtLane w x.env l).2))))
    noBody
    (fun x s => .done s { writes := destWrites w.d (wideType w.t) 0 0xFFFF (laneList.map (fun l => (cvtLane w x.env l).1)) })

/-- Is the low ternary code of a number the reserved one, where the type is TRN (R143)? -/
def trnBad (t : BitVec 5) (x : Nat) : Bool := t == 0x18 && x % 4 == 2

/-- The low `e` bits of a slot's source; the reserved ternary code is written as 00 (R537). -/
def slotBits (t : BitVec 5) (x : Nat) : Nat := if trnBad t x then 0 else x % 2 ^ typeBits t

/-- Replaces slot `j` of `e` bits of a register. -/
def putSlot (e j c x : Nat) : Nat := c - c / 2 ^ (e * j) % 2 ^ e * 2 ^ (e * j) + x * 2 ^ (e * j)

/-- The slots of a base that PACK leaves as they are. -/
def otherSlots (h : Nat) : List Nat := (upFrom 0 16).filter (fun j => j / 2 != h)

/-- Has a base the reserved ternary code in a slot that stays (R143; log 96)? -/
def baseBad (t : BitVec 5) (h c : Nat) : Bool := t == 0x18 && (otherSlots h).any (fun j => c / 4 ^ j % 4 == 2)

/-- The base of PACK as it is written: no instruction writes the reserved ternary code, so it stands as 00 (R143, R537; log 96). -/
def packBase (t : BitVec 5) (h c : Nat) : Nat := if t == 0x18 then (otherSlots h).foldl (fun c j => if c / 4 ^ j % 4 = 2 then putSlot 2 j c 0 else c) c else c

/-- The value of PACK (R537). -/
def packVal (w : RIWord) (e : Env) (l : Nat) : DWord :=
  let n := typeBits w.t
  let h := w.xf.toNat % 8
  let c := packBase w.t h (e.src w.c l).toNat
  BitVec.ofNat 64 (putSlot n (2 * h + 1) (putSlot n (2 * h) c (slotBits w.t (e.src w.a l).toNat)) (slotBits w.t (e.src w.b l).toNat))

/-- Does PACK meet the reserved ternary code in one of its sources (R143, R537)? -/
def packBad (w : RIWord) (e : Env) (l : Nat) : Bool :=
  trnBad w.t (e.src w.a l).toNat || trnBad w.t (e.src w.b l).toNat || baseBad w.t (w.xf.toNat % 8) (e.src w.c l).toNat

/-- PACK (R537). -/
def execPack (w : RIWord) (s : State) : Host.Outcome State Fault Refusal :=
  issueG (.pack w) s (fun x s =>
    .done s ((valueEff Sig.pack w false 4 x.ex (laneList.map (packVal w x.env))).withTrnx
      (trnxOf x (packBad w x.env))))

/-- Slot `h` of source A (R537). -/
def unpkSlot (w : RIWord) (e : Env) (l : Nat) : Nat := (e.src w.a l).toNat / 2 ^ (typeBits w.t * (w.xf.toNat % 16)) % 2 ^ typeBits w.t

/-- UNPK (R537). -/
def execUnpk (w : RIWord) (s : State) : Host.Outcome State Fault Refusal :=
  issueG (.unpk w) s (fun x s =>
    .done s ((valueEff Sig.unpk w false 4 x.ex (laneList.map (fun l => bitsPlace w.t (slotBits w.t (unpkSlot w x.env l))))).withTrnx
      (trnxOf x (fun l => trnBad w.t (unpkSlot w x.env l)))))

end Sys2Proof.Machine
end

