-- ==== Sys2Proof/Machine/Quant.lean ====
section
/-! DEFINITION. Block quantisation with an E8M0 scale (R161). -/

namespace Sys2Proof.Machine

/-- The element exponent E of a quantised format (R161). -/
def quantE (t : Nat) : Int := if t = 0x13 then 8 else if t = 0x14 then 15 else 2

/-- Is the value not finite? -/
def notFinite : FVal → Bool
  | .fin _ _ _ => false
  | _ => true

/-- floor(log2 |x|) of a finite value that is not zero. -/
def floorLog2 : FVal → Option Int
  | .fin _ m e => if m = 0 then none else some ((Nat.log2 m : Int) + e)
  | _ => none

/-- The greatest exponent among the values; none where all are zero. -/
def topExp (xs : List FVal) : Option Int :=
  xs.foldl (fun a x => match a, floorLog2 x with
    | some p, some q => some (max p q)
    | none, y => y
    | y, none => y) none

/-- The scale code of a block of FP32 values for a format (R161). -/
def blockScale (t : Nat) (xs : List FVal) : Nat :=
  if xs.any notFinite then 0xFF
  else match topExp xs with
    | none => 0
    | some p => (min (max (p - quantE t + 127) 0) 254).toNat

/-- An element of a block under a scale code (R161). -/
def quantElem (t scale : Nat) (x : FVal) : Nat :=
  let f := (fmtOf t).getD fmtE4M3
  if scale = 0xFF then (if t = 0x15 then 0 else canonNan f)
  else match x with
    | .fin neg m e => roundTo f .rne true false neg m (e - ((scale : Int) - 127))
    | y => fencode f .rne true false y

/-- The value of an element under a scale code that is not NaN: exact (R161). -/
def decodeElem (t scale code : Nat) : FVal :=
  match fdecode ((fmtOf t).getD fmtE4M3) code with
  | .fin neg m e => .fin neg m (e + ((scale : Int) - 127))
  | y => y

end Sys2Proof.Machine
end

