-- ==== Sys2Proof/Machine/Translate.lean ====
section
/-! DEFINITION. Translation: page-table entries, the walk, the two TLBs, instruction lines (R226 to R232, R71). -/

namespace Sys2Proof.Machine

/-- The permission that an access needs (R229). -/
structure Need where
  rd : Bool := false
  wr : Bool := false
  ex : Bool := false
  deriving DecidableEq, Repr

/-- A load, a store, an atomic, a fetch. -/
def Need.load : Need := { rd := true }
def Need.store : Need := { wr := true }
def Need.atomic : Need := { rd := true, wr := true }
def Need.fetch : Need := { ex := true }

/-- Bytes of a page: 256 MiB or 64 KiB (R228). -/
def pageBytes (big : Bool) : Nat := if big then 2 ^ 28 else 2 ^ 16

/-- The frame address of an entry (R227). -/
def frameAddr (w : DWord) : Nat := fldN w 16 32 * 65536

/-- HDIE of an entry (R227). -/
def hdie (w : DWord) : Nat := fldN w 12 3

/-- HOME of an entry (R227). -/
def homeBit (w : DWord) : Bool := w.getLsbD 6

/-- HOSTB of an entry (R227). -/
def hostBit (w : DWord) : Bool := w.getLsbD 7

/-- Is an entry with V = 1 malformed at a level (R228)? One at level 3 that is no leaf is taken for malformed: R228 does not list it, and there is no further level (DEDUCED, log 79). -/
def entryBad (level : Nat) (w : DWord) : Bool :=
  let leaf := w.getLsbD 1
  let home := homeBit w
  let size := if leaf then pageBytes (level == 2) else 32768
  fldN w 10 2 != 0 || w.getLsbD 15 || fldN w 48 16 != 0 ||
  (leaf && level == 1) || (!leaf && level == 3) ||
  (!leaf && (!home || fldN w 2 4 != 0 || fldN w 7 3 != 0)) ||
  (leaf && level == 2 && fldN w 16 12 != 0) ||
  frameAddr w + size > (if home then Store.sram.size else Store.lpddr.size)

/-- What a walk finds: a cause, a line of the tables whose check word mismatches, or a leaf with its place and page size. -/
inductive Walk where
  | cause (c : Byte)
  | poisoned
  | leaf (at_ : PAddr) (w : DWord) (big : Bool)
  deriving DecidableEq, Repr

/-- The entry of a level, read from the table at an address of a die (R227). -/
def tableEntry (die table idx : Nat) : PAddr := { store := .sram, unit := die, off := table + 8 * idx }

/-- The index of a virtual address at a level (R227). -/
def levelIndex (level : Nat) (va : DWord) : Nat :=
  match level with
  | 1 => fldN va 40 12
  | 2 => fldN va 28 12
  | _ => fldN va 16 12

/-- Walks from a level on, with the table's die and address (R227, R228). An entry of level 1 with V = 0, LEAF = 1 and HOSTB = 1, to which R228 gives no page size, is taken for malformed (DESIGN CHOICE, log 79). -/
def walkFrom (m : Mem) (va : DWord) : Nat → Nat → Nat → Nat → Walk
  | 0, _, _, _ => .cause 0x10
  | fuel + 1, level, die, table =>
    let at_ := tableEntry die table (levelIndex level va)
    if m.poisoned [at_.line] then .poisoned
    else
      let w : DWord := BitVec.ofNat 64 (m.num at_ 8)
      if w.getLsbD 0 then
        if entryBad level w then .cause 0x10
        else if w.getLsbD 1 then .leaf at_ w (level == 2)
        else walkFrom m va fuel (level + 1) (hdie w) (frameAddr w)
      else if w.getLsbD 1 && hostBit w && level != 1 then .leaf at_ w (level == 2)
      else .cause 0x10

/-- Walks the tables of an address space (R217, R226 to R228). -/
def State.walk (s : State) (asn : Nat) (va : DWord) : Walk :=
  if fldN va 52 12 != 0 then .cause 0x10
  else match s.mmp.spaces.find? (·.asn == asn) with
    | some a => walkFrom s.mem va 3 1 a.owner a.root
    | none => .cause 0x10

/-- The places of the entries that a walk reads, from a level on. -/
def walkPlaces (m : Mem) (va : DWord) : Nat → Nat → Nat → Nat → List PAddr
  | 0, _, _, _ => []
  | fuel + 1, level, die, table =>
    let at_ := tableEntry die table (levelIndex level va)
    let w : DWord := BitVec.ofNat 64 (m.num at_ 8)
    at_ :: (if w.getLsbD 0 && !entryBad level w && !w.getLsbD 1 then walkPlaces m va fuel (level + 1) (hdie w) (frameAddr w) else [])

/-- The places of the entries that a walk of an address space reads. -/
def State.walkReads (s : State) (asn : Nat) (va : DWord) : List PAddr :=
  if fldN va 52 12 != 0 then []
  else match s.mmp.spaces.find? (·.asn == asn) with
    | some a => walkPlaces s.mem va 3 1 a.owner a.root
    | none => []

/-- A walk corrects and counts the single-bit errors of the lines that it reads (R399). -/
def State.scrubWalk (s : State) (asn : Nat) (va : DWord) : State := if s.mem.upsets == [] then s else s.scrub ((s.walkReads asn va).map PAddr.line)

/-- Can a walk for a core not be made, since no module leads to a die that holds one of its tables (R393)? -/
def State.walkCut (s : State) (core asn : Nat) (va : DWord) : Bool :=
  s.links.any (fun l => l.2.down) && (s.walkReads asn va).any (fun a => !s.reaches (dieOf core) a.unit)

/-- Does a leaf grant what an access needs (R229)? -/
def leafGrants (n : Need) (w : DWord) : Bool := (!n.rd || w.getLsbD 2) && (!n.wr || w.getLsbD 3) && (!n.ex || w.getLsbD 4)

/-- Is the page present: V set (R228)? -/
def leafPresent (w : DWord) : Bool := w.getLsbD 0

/-- The place of an address under a leaf (R228). -/
def placeOf (w : DWord) (big : Bool) (va : DWord) : PAddr :=
  { store := if homeBit w then .sram else .lpddr, unit := hdie w, off := frameAddr w + va.toNat % pageBytes big }

/-- The outcome of a translation: a cause, a residency fault (R234), a mismatching table line, or the place with its leaf. -/
inductive Trans where
  | cause (c : Byte)
  | poisoned
  | resid
  | ok (pa : PAddr) (leaf : DWord)
  deriving DecidableEq, Repr

/-- What a leaf gives an access; `main` where the frame may lie in LPDDR (R167). -/
def leafTrans (n : Need) (main : Bool) (w : DWord) (big : Bool) (va : DWord) : Trans :=
  if !leafGrants n w then .cause 0x11
  else if !leafPresent w then .resid
  else if !homeBit w && !main then .resid
  else .ok (placeOf w big va) w

/-- Translates by a walk. -/
def State.translate (s : State) (asn : Nat) (n : Need) (main : Bool) (va : DWord) : Trans :=
  match s.walk asn va with
  | .cause c => .cause c
  | .poisoned => .poisoned
  | .leaf _ w big => leafTrans n main w big va

/-! ### Marks of granules (R324, R365) -/

/-- The frame that holds a byte of die SRAM or LPDDR. -/
def State.frameAt (s : State) (a : PAddr) : Option Frame64 :=
  s.mmp.frames.find? (fun f => f.die == a.unit && f.num == a.off / 65536 && f.sram == (a.store == .sram) && (a.store == .sram || a.store == .lpddr))

/-- The virtual address of a byte of a frame. -/
def Frame64.va (f : Frame64) (off : Nat) : DWord := BitVec.ofNat 64 (f.page * 65536 + off % 65536)

/-- What is marked for a place: TX, RX, unmapped, logged. -/
structure Marks where
  tx : Bool
  rx : Bool
  unmapped : Bool
  logged : Bool
  deriving DecidableEq, Repr

/-- The marks of granule `k` among those of a page. -/
def marksAt (m : BitVec 49) (k : Nat) : Marks := { tx := m.getLsbD k, rx := m.getLsbD (16 + k), unmapped := m.getLsbD (32 + k), logged := m.getLsbD 48 }

/-- The marks of the page that holds a byte, as the frame table has them. -/
def State.pageMarks (s : State) (a : PAddr) : BitVec 49 := match s.frameAt a with | some f => f.marks | none => 0

/-- The marks of the granule that holds a byte. -/
def State.marks (s : State) (a : PAddr) : Marks := marksAt (s.pageMarks a) (a.off % 65536 / 4096)

/-! ### TLBs (R230 to R232) -/

/-- The 64 KiB page of an address. -/
def vpage (va : DWord) : Nat := va.toNat / 65536

/-- Does an entry translate an address? -/
def TlbEntry.hits (e : TlbEntry) (asn : Nat) (va : DWord) (write : Bool) : Bool :=
  e.asn == asn && decide (e.page ≤ vpage va) && decide (vpage va < e.page + e.pages) && (!write || e.writeOk)

/-- The core TLB's entry for an address (R231). A write needs an entry filled for writing (R230). -/
def State.tlbHit (s : State) (c asn : Nat) (va : DWord) (write : Bool) : Option TlbEntry := (s.core c).tlb.find? (·.hits asn va write)

/-- The entry that a leaf fills, with the marks of its page. A window's page is never of 256 MiB (R324). -/
def State.tlbOf (s : State) (asn : Nat) (va w : DWord) (big write : Bool) : TlbEntry :=
  { asn := asn, page := if big then vpage va / 4096 * 4096 else vpage va, pages := if big then 4096 else 1, leaf := w, writeOk := write,
    marks := if big then 0 else s.pageMarks (placeOf w big va) }

/-- The marks of the granule of an address, as an entry of a TLB carries them (R324). -/
def TlbEntry.marksOf (e : TlbEntry) (va : DWord) : Marks := marksAt e.marks (va.toNat % 65536 / 4096)

/-- Puts an entry at the front of a TLB of `n` entries, in place of those for the same page (R231). -/
def tlbPut (n : Nat) (e : TlbEntry) (l : List TlbEntry) : List TlbEntry :=
  (e :: l.filter (fun x => !(x.asn == e.asn && x.page == e.page && x.pages == e.pages))).take n

/-- Translates an address of an engine of a core, its TLB left as it is: by the walk-ahead TLB where that has an entry (R232). -/
def State.enginePeek (s : State) (c asn : Nat) (n : Need) (main : Bool) (va : DWord) : Trans :=
  match (s.core c).wtlb.find? (·.hits asn va n.wr) with
  | some e => leafTrans n main e.leaf (e.pages != 1) va
  | none => s.translate asn n main va

/-- Can a core not reach the tables that its TLB has to walk for an address (R231, R393)? -/
def State.coreCut (s : State) (c asn : Nat) (va : DWord) (write : Bool) : Bool := (s.tlbHit c asn va write).isNone && s.walkCut c asn va

/-- Can an engine of a core not reach the tables that its walk-ahead TLB has to walk (R232, R393)? -/
def State.engineCut (s : State) (c asn : Nat) (va : DWord) (write : Bool) : Bool := ((s.core c).wtlb.find? (·.hits asn va write)).isNone && s.walkCut c asn va

/-- Sets A, and for a write D, in a leaf's entry (R230). -/
def State.markLeaf (s : State) (at_ : PAddr) (w : DWord) (write : Bool) : State :=
  let w' := w ||| 256#64 ||| (if write then 512#64 else 0)
  if w' == w then s else s.modMem (fun m => m.store (numBytes at_ 8 w'.toNat))

/-- The walk of an access that no TLB serves: it sets A, and for a write D (R230). -/
def State.touch (s : State) (asn : Nat) (va : DWord) (write : Bool) : State :=
  match s.walk asn va with
  | .leaf at_ w _ => if leafPresent w then (s.scrubWalk asn va).markLeaf at_ w write else s.scrubWalk asn va
  | _ => s.scrubWalk asn va

/-- Fills a TLB from the leaf of a present page that grants the access (R230, R231). `engine` selects the walk-ahead TLB. -/
def State.fillTlb (s : State) (engine : Bool) (c asn : Nat) (va : DWord) (at_ : PAddr) (w : DWord) (big write : Bool) : State :=
  let e := s.tlbOf asn va w big write
  let s := s.modCore c (fun k => if engine then { k with wtlb := tlbPut 1024 e k.wtlb } else { k with tlb := tlbPut 256 e k.tlb })
  s.markLeaf at_ w write

/-- Fills a TLB where a walk has found a present page that grants the access, be it resident or not (R231). -/
def State.fillFrom (s : State) (engine : Bool) (c asn : Nat) (n : Need) (va : DWord) (at_ : PAddr) (w : DWord) (big : Bool) : State :=
  if leafGrants n w && leafPresent w then s.fillTlb engine c asn va at_ w big n.wr else s

/-- Uses a TLB entry: it becomes the most recently used. -/
def State.useTlb (s : State) (c : Nat) (e : TlbEntry) : State :=
  s.modCore c (fun k => { k with tlb := e :: k.tlb.filter (fun x => !(x.asn == e.asn && x.page == e.page && x.pages == e.pages)) })

/-- Translates an address of a core through its TLB, walking on a miss. Page-table lines that mismatch kill the teams of the space (R385). -/
def State.coreTranslate (s : State) (c asn : Nat) (n : Need) (va : DWord) : State × Trans :=
  match s.tlbHit c asn va n.wr with
  | some e => (s.useTlb c e, leafTrans n false e.leaf (e.pages != 1) va)
  | none =>
    match s.walk asn va with
    | .cause x => (s.scrubWalk asn va, .cause x)
    | .poisoned => (s.scrubWalk asn va, .poisoned)
    | .leaf at_ w big =>
      ((s.scrubWalk asn va).fillFrom false c asn n va at_ w big, leafTrans n false w big va)

/-- Translates an address of an engine of a core through the walk-ahead TLB (R232). -/
def State.engineTranslate (s : State) (c asn : Nat) (n : Need) (main : Bool) (va : DWord) : State × Trans :=
  match (s.core c).wtlb.find? (·.hits asn va n.wr) with
  | some e => (s, leafTrans n main e.leaf (e.pages != 1) va)
  | none =>
    match s.walk asn va with
    | .cause x => (s.scrubWalk asn va, .cause x)
    | .poisoned => (s.scrubWalk asn va, .poisoned)
    | .leaf at_ w big =>
      ((s.scrubWalk asn va).fillFrom true c asn n va at_ w big, leafTrans n main w big va)

/-- Kills every team of an address space for an integrity error (R385). -/
def State.killSpace (s : State) (asn : Nat) : State :=
  (s.teams.filter (·.asn == asn)).foldl (fun s T => s.killIntegrity T.id) s

/-! ### Shootdowns (R240) -/

/-- Does a TLB entry translate one of `n` pages from `page` on? -/
def TlbEntry.meets (e : TlbEntry) (asn page n : Nat) : Bool := e.asn == asn && decide (e.page < page + n) && decide (page < e.page + e.pages)

/-- Does an L1 line lie in `n` frames from the place `a` on? Private lines stay (R211). -/
def L1Line.inFrames (x : L1Line) (a : PAddr) (n : Nat) : Bool :=
  !x.priv && a.store == .sram && x.die == a.unit && decide (a.off ≤ 64 * x.line) && decide (64 * x.line < a.off + 65536 * n)

/-- A shootdown of `n` pages (R240): their entries leave every TLB, the lines of the old frames every L1. -/
def State.shootdown (s : State) (asn page n : Nat) (old : PAddr) : State :=
  { s with cores := s.cores.map (fun (c : Nat × Core) => (c.1, { c.2 with
      tlb := c.2.tlb.filter (fun e => !e.meets asn page n), wtlb := c.2.wtlb.filter (fun e => !e.meets asn page n),
      l1 := c.2.l1.filter (fun x => !x.inFrames old n) })) }

/-- The shootdown of pages whose marks have changed (R240, R324, R365). -/
def State.shootPages (s : State) (asn : Nat) (ps : List (DWord × PAddr)) : State := ps.foldl (fun s p => s.shootdown asn (vpage p.1) 1 p.2) s

/-! ### Residency faults (R234, R238) -/

/-- Reports residency faults to the MMP of the executing core's die: a page that has an entry joins it, and a table of 64 entries takes no more (R234, R238). -/
def State.postFaults (s : State) (c asn : Nat) (write : Bool) (pages : List Nat) : State :=
  let d := dieOf c
  s.modMmp (fun m =>
    let tab := (spFind m.faults d).getD []
    let new := ((pages.eraseDups).filter (fun p => !tab.any (fun x => x.asn == asn && x.page == p))).take (64 - tab.length)
    { m with
      faults := spIns d (tab ++ new.map (fun p => { asn := asn, page := p, write := write, core := c, slot := none })) m.faults,
      spaces := m.spaces.map (fun a => if a.asn == asn then { a with resident := a.resident + new.length } else a) })

/-- Reports the residency fault of an address, for an engine or a fetch that goes on when it has been serviced. -/
def State.engineFault (s : State) (core asn : Nat) (write : Bool) (va : DWord) : State := s.postFaults core asn write [vpage va]

/-! ### Instruction lines (R71, R408) -/

/-- The bytes of a code line where its page maps it now, for the test of a branch target (R69): the instruction store's copy where it has one. -/
def State.codeLine (s : State) (c asn : Nat) (a : DWord) : Option (BitVec 512) :=
  match s.iline c asn a with
  | some x => some x.data
  | none =>
    match s.translate asn Need.fetch false (lineAddr a) with
    | .ok pa _ => some (imageOf 512 (s.mem.bytes pa 64))
    | _ => none

/-- Does a branch target lie in a line that cannot be read until its page is resident (log 66)? -/
def State.targetFar (s : State) (c asn : Nat) (a : DWord) : Bool :=
  isSlot a && (s.iline c asn a).isNone && s.translate asn Need.fetch false (lineAddr a) == .resid

/-- Is a branch target legal: a slot address whose TARGET bit is set (R69, R409)? A line whose translation gives a cause is left to the fetch. -/
def State.targetOk (s : State) (c asn : Nat) (a : DWord) : Bool :=
  isSlot a && (match s.codeLine c asn a with
    | some d => (ILine.word { asn := asn, addr := lineAddr a, data := d, bad := false }).getLsbD (slotOf a)
    | none => !s.targetFar c asn a)

/-- Is a branch target known to be illegal? -/
def State.targetBad (s : State) (c asn : Nat) (a : DWord) : Bool := !s.targetOk c asn a && !s.targetFar c asn a

/-- Targets of a group whose lines cannot be read yet are tested at the first fetch there (log 66). -/
def State.testLater (s : State) (t g : Nat) (as : List DWord) : State :=
  if as == [] then s else s.modGroup t g (fun G => { G with untested := (G.untested ++ as).eraseDups })

/-- What a test of a group's targets comes to: cause 0x03 where one is illegal; else `go`, with those whose line cannot be read yet left to be tested. No instruction of a group waits for the line of its target, since R71 has it stall at cut points only (log 66). -/
def Ctx.withTargets (x : Ctx) (s : State) (as : List DWord) (go : State → Res) : Res :=
  if as.any (s.targetBad x.c x.T.asn) then .trap s { cause := 0x03 }
  else go (s.testLater x.t x.g (as.filter (s.targetFar x.c x.T.asn)))

/-- What a test of a sequencer's target comes to: cause 0x03 where it is illegal, a wait for a page that is not resident (R187), else `go`. -/
def State.withTarget (s : State) (c asn : Nat) (a : DWord) (go : Res) : Res :=
  if s.targetBad c asn a then .trap s { cause := 0x03 }
  else if s.targetFar c asn a then .stall (s.engineFault c asn false (lineAddr a))
  else go

/-- PARITY as computed over bytes 0 to 59 of a line (R407). -/
def lineParity (d : BitVec 512) : Nat :=
  (upFrom 0 8).foldl (fun a j =>
    let cls := (upFrom 0 8).filter (fun q => 8 * q + j < 60)
    let x := cls.foldl (fun b q => b ^^^ fldN d (8 * (8 * q + j)) 8) 0
    let bit := (upFrom 0 8).foldl (fun b i => b + x / 2 ^ i % 2) 0 % 2
    a + bit * 2 ^ j) 0

end Sys2Proof.Machine
end

