-- ==== Sys2Proof/Machine/Masks.lean ====
section
/-! DEFINITION. Mask registers and meeting registers (R49 to R54, R502 to R504, R518, R554). -/

namespace Sys2Proof.Machine

/-- A mask register as an instruction reads it. -/
def Ctx.mask (x : Ctx) (s : State) (r : Nat) : Half := early s.ctl.draws (52000 + r) (spGet 0 x.G.m r) (lateM x.run.pend r)

/-- Issues an instruction that gives a mask register a new value, limited to the live lanes (R503); it is written at issue + 2 (R504). -/
def issueMask (w : RIWord) (i : Instr) (f : Ctx → Half → Half) (s : State) : Host.Outcome State Fault Refusal :=
  issueG i s (fun x s => .done s { writes := [(2, .m (srcNum w.a) (f x (x.mask s (srcNum w.a)) &&& x.G.live))] })

/-- The low 16 bits of the operand of MSKOP. -/
def maskOperand (w : RIWord) (x : Ctx) : Half := (x.env.src w.b 0).setWidth 16

/-- JOIN (R503). -/
def execJoin (w : RIWord) (s : State) : Host.Outcome State Fault Refusal := issueMask w (.join w) (fun x m => m ||| x.ex) s

/-- LEAVE (R503). -/
def execLeave (w : RIWord) (s : State) : Host.Outcome State Fault Refusal := issueMask w (.leave w) (fun x m => m &&& ~~~x.ex) s

/-- MSKOP_MOV (R503). -/
def execMskopMov (w : RIWord) (s : State) : Host.Outcome State Fault Refusal := issueMask w (.mskopMov w) (fun x _ => maskOperand w x) s

/-- MSKOP_AND (R503). -/
def execMskopAnd (w : RIWord) (s : State) : Host.Outcome State Fault Refusal := issueMask w (.mskopAnd w) (fun x m => m &&& maskOperand w x) s

/-- MSKOP_OR (R503). -/
def execMskopOr (w : RIWord) (s : State) : Host.Outcome State Fault Refusal := issueMask w (.mskopOr w) (fun x m => m ||| maskOperand w x) s

/-- MSKOP_XOR (R503). -/
def execMskopXor (w : RIWord) (s : State) : Host.Outcome State Fault Refusal := issueMask w (.mskopXor w) (fun x m => m ^^^ maskOperand w x) s

/-- MSKOP_ANDN (R503). -/
def execMskopAndn (w : RIWord) (s : State) : Host.Outcome State Fault Refusal := issueMask w (.mskopAndn w) (fun x m => m &&& ~~~maskOperand w x) s

/-- MSKOP_RD (R503). -/
def execMskopRd (w : RIWord) (s : State) : Host.Outcome State Fault Refusal :=
  issueG (.mskopRd w) s (fun x s =>
    .done s (valueEff Sig.mskopRd w false 2 x.ex (laneList.map (fun _ => (x.mask s (srcNum w.a)).setWidth 64))))

/-- Holds the enrolled lanes among `ex` at WAIT Mx, and makes the release test (R53). Their PCs stay at the WAIT. -/
def Group.waitAt (G : Group) (r : Nat) (m : Half) (ex : Lanes) : Group :=
  Group.releaseMask (G.modLanes (ex &&& m) (fun _ L => { L with hold := .wait r })) r (spGet 0 G.m r)

/-- WAIT (R53, R554). -/
def execWait (w : RIWord) (s : State) : Host.Outcome State Fault Refusal :=
  issueG (.wait w) s (fun x s =>
    let r := srcNum w.a
    let m := x.mask s r
    let held := x.ex &&& m
    let s' := s.modGroup x.t x.g (fun G => G.waitAt r m x.ex)
    let freed := maskOf (fun l => inMask held l && (match (s'.team? x.t).bind (fun T => T.group? x.g) with
      | some G => (G.lane l).hold == .runnable
      | none => false))
    .done s' { drop := freed })

/-- Sets the MEET registers of the executing lanes (R49). -/
def setMeet (x : Ctx) (s : State) (f : Nat → Option DWord) : State :=
  s.modGroup x.t x.g (fun G => G.modLanes x.ex (fun l L => { L with meet := f l }))

/-- Issues a MEET with a target a lane: all must be legal branch targets (R49, R518). -/
def meetBody (target : Ctx → Nat → DWord) (x : Ctx) (s : State) : Res :=
  x.withTargets s ((lanesOf x.ex).map (target x)) (fun s => .done (setMeet x s (fun l => some (target x l))) {})

/-- MEET, label form (R518). -/
def execMeet (w : RIWord) (s : State) : Host.Outcome State Fault Refusal :=
  issueG (.meet w) s (meetBody (fun x _ => x.pc + w.imm.signExtend 64))

/-- MEET_REG (R518). -/
def execMeetReg (w : RIWord) (s : State) : Host.Outcome State Fault Refusal :=
  issueG (.meetReg w) s (meetBody (fun x l => x.env.src64 w.a l))

/-- MEET_CLR (R518). -/
def execMeetClr (w : RIWord) (s : State) : Host.Outcome State Fault Refusal :=
  issueG (.meetClr w) s (fun x s => .done (setMeet x s (fun _ => none)) {})

end Sys2Proof.Machine
end

