-- ==== Sys2Proof/Machine/Barriers.lean ====
section
/-! DEFINITION. Named barriers, stage waits, and the release work they share (R57 to R66, R268). -/

namespace Sys2Proof.Machine

/-- What an access does to its locations. -/
inductive AccKind where
  | load
  | store
  | atomic
  | red
  deriving DecidableEq, Repr

/-- The kind of an instruction's access. -/
def accKind (i : Instr) : AccKind :=
  let op := (formOf i).op
  if op = 0x71 ∨ op = 0x73 then .store else if op = 0x7B then .red else if 0x78 ≤ op ∧ op ≤ 0x7E then .atomic else .load

/-- The accesses of a group that are issued and not performed: parked, or in the operand log and not failed. -/
def Group.accessesAside (G : Group) : List Access :=
  G.parks.filterMap (fun p => match p with | .access a => some a | _ => none) ++ (G.log.filter (fun e => e.failed.isNone)).map (·.acc)

/-- Is it an atomic of a group? -/
def AtomReq.of (r : AtomReq) (t g : Nat) : Bool := r.t == t && r.g == g

/-- Is it an entry of a group? -/
def SqEntry.of (e : SqEntry) (t g : Nat) : Bool := e.t == t && e.g == g

/-- Does the entry write for its core as a store does: a store, or a RED, which orders as one (R280)? -/
def SqEntry.storing (e : SqEntry) : Bool := e.stage.isNone && (match e.red with | some r => !r.reply | none => true)

/-- Is an atomic in a service queue older than `upTo`, and one that the release work of a group on core `c` waits for: the group's own, or a RED of the core? -/
def AtomReq.before (r : AtomReq) (c t g upTo : Nat) : Bool := decide (r.stamp < upTo) && (r.of t g || (!r.reply && r.core == c))

/-- Is an entry of a queue older than `upTo`, and one that the release work of a group waits for: the group's own, wherever it lies (R40), or, in the queue of the group's core, one that stores (R268)? -/
def SqEntry.before (e : SqEntry) (here : Bool) (t g upTo : Nat) : Bool := decide (e.stamp < upTo) && (e.of t g || (here && e.storing))

/-- Is the access one that the release work of a group on core `c` waits for, where the group `G` has it aside and `core` is that group's core: the group's own, or, on the same core, a store or RED to global space, which has an entry of the queue from its issue (R61, R267, R268)? -/
def Access.before (a : Access) (c core : Nat) (own : Bool) (upTo : Nat) : Bool :=
  decide (a.stamp < upTo) && (own || (core == c && a.space == .glb && (accKind a.instr == .store || accKind a.instr == .red)))

/-- Are the accesses older than `upTo` performed that groups have aside, parked or in a log, and that the release work of a group on core `c` waits for? -/
def State.asideDone (s : State) (c t g upTo : Nat) : Bool :=
  s.teams.all (fun T => T.groups.all (fun G => (G.parks == [] && G.log == []) ||
    G.accessesAside.all (fun a => !a.before c (((T.share? G.core).map (·.core)).getD 0) (T.id == t && G.gid == g) upTo)))

/-- Is the release work of a group on core `c` done (R268): the store-queue entries of the core, and the group's stores, atomics and REDs, older than `upTo` are performed, and with them its loads and the stores of the core that are still aside (R61)? -/
def State.relDone (s : State) (c t g upTo : Nat) : Bool :=
  s.cores.all (fun k => k.2.sq.all (fun e => !e.before (k.1 == c) t g upTo)) && s.requests.all (fun r => !r.before c t g upTo) &&
  s.asideDone c t g upTo

/-- Are the group's own stores, atomics and REDs older than `upTo` performed, wherever they are? -/
def State.ownDone (s : State) (t g upTo : Nat) : Bool :=
  s.cores.all (fun k => k.2.sq.all (fun e => !(e.of t g && decide (e.stamp < upTo)))) &&
  s.requests.all (fun r => !(r.of t g && decide (r.stamp < upTo)))

/-- Lets the lanes of a group that are held as `h` says go on after the instruction that held them. -/
def Group.freeLanes (G : Group) (h : Hold) : Group :=
  G.modLanes (maskOf (fun l => (G.lane l).hold == h)) (fun _ L => { L with pc := nextSlot L.pc, hold := .runnable, wcnt := 0 })

/-- The same for the lanes that a trap frame records. -/
def TrapFrame.freeLanes (f : TrapFrame) (h : Hold) : TrapFrame :=
  { f with lanes := f.lanes.map (fun r => if r.hold == h then { r with pc := nextSlot r.pc, hold := .runnable, wcnt := 0 } else r) }

/-- Lets the lanes of a group, and of its trap frame, that are held as `h` says go on after the instruction that held them. -/
def Group.free (G : Group) (h : Hold) : Group := { G.freeLanes h with frame := G.frame.map (fun f => f.freeLanes h) }

/-- The BAR that a list of holds agrees on. -/
def barOf : List Hold → Option (Nat × Nat)
  | .bar b c :: r => if r.all (· == .bar b c) then some (b, c) else none
  | _ => none

/-- The one BAR at which all live lanes of the group are held (R58). -/
def Group.allAtBar (G : Group) : Option (Nat × Nat) := barOf ((lanesOf G.live).map (fun l => (G.lane l).hold))

/-- The one BAR at which the trap frame records all live lanes as held (R376). -/
def Group.frameAtBar (G : Group) : Option (Nat × Nat) :=
  G.frame.bind (fun f => barOf ((f.lanes.zip G.lanes).filterMap (fun x => if x.2.hold == .exited then none else some x.1.hold)))

/-- Has the group been counted at a barrier that holds its lanes? -/
def Group.arrivedAt (G : Group) (b c : Nat) : Bool := G.counted && G.allAtBar == some (b, c)

/-- Had the group been counted at a barrier when it entered its handler (R376)? -/
def Group.frameArrivedAt (G : Group) (b c : Nat) : Bool :=
  (match G.frame with | some f => f.counted | none => false) && G.frameAtBar == some (b, c)

/-- What the end of a barrier's generation does to a group: the lanes that were counted go on, be they held or recorded as held (R59, R376). -/
def Group.barRelease (G : Group) (b c : Nat) : Group :=
  let G := if G.arrivedAt b c then { G.freeLanes (.bar b c) with counted := false } else G
  if G.frameArrivedAt b c then { G with frame := G.frame.map (fun f => { f.freeLanes (.bar b c) with counted := false }) } else G

/-- The barrier with a number. -/
def Team.bar (T : Team) (b : Nat) : Barrier := spGet { count := 0, arrived := 0, gen := false } T.bars b

/-- Would an arrival with this count be refused (R59)? -/
def Barrier.refuses (x : Barrier) (c : Nat) : Bool := x.count != 0 && x.count != c

/-- One arrival (R59): counted, or the generation completes and every party that has arrived is released. -/
def Team.arrive (T : Team) (b c : Nat) : Team :=
  let x := T.bar b
  let n := if x.count = 0 then 1 else x.arrived + 1
  if n < c then { T with bars := spPut { count := 0, arrived := 0, gen := false } T.bars b { x with count := c, arrived := n } }
  else
    { T with
      bars := spPut { count := 0, arrived := 0, gen := false } T.bars b { count := 0, arrived := 0, gen := !x.gen },
      groups := T.groups.map (fun G => G.barRelease b c),
      shares := T.shares.map (fun sh => match sh.seq.st with
        | .bar b' c' true => if b' = b ∧ c' = c then { sh with seq := { sh.seq with st := .running, pc := nextSlot sh.seq.pc } } else sh
        | _ => sh) }

/-- The lanes that stand for those whose BAR completed the group, where it was completed by an EXIT or a TRET: the lowest held lane and those held with it at the same PC (log 65). -/
def Group.barLanes (G : Group) : Lanes :=
  match lowestLane G.live with
  | some l => maskOf (fun k => inMask G.live k && (G.lane k).pc == (G.lane l).pc)
  | none => 0

/-- Makes the arrival of a group whose live lanes are all held at one BAR, once: it waits for the release work, is counted, or is refused with cause 0x30 in the lanes `ls` whose BAR at `pc` completed the group (R58, R59, R61). -/
def State.arriveWith (s : State) (t g : Nat) (ls : Lanes) (pc : DWord) : State :=
  match s.team? t with
  | none => s
  | some T =>
    match T.group? g with
    | none => s
    | some G =>
      match G.allAtBar, T.share? G.core with
      | some (b, c), some sh =>
        if G.counted || G.parks.any Park.isArrive then s
        else if !s.relDone sh.core t g (s.ctl.stamp + 1) then s.modGroup t g (fun G => { G with parks := G.parks ++ [.arrive (s.ctl.stamp + 1) ls pc] })
        else if (T.bar b).refuses c then
          (s.modGroup t g (fun G => G.modLanes ls (fun _ L => { L with hold := .runnable }))).takeTrap t g { cause := 0x30 } ls pc
        else s.setTeam ((T.setGroup { G with counted := true }).arrive b c)
      | _, _ => s

/-- The arrival of a group whose lanes came to be all held at one BAR by another event than a BAR: an EXIT, a TRET. -/
def State.tryArrive (s : State) (t g : Nat) : State :=
  match s.group? t g with
  | some G => s.arriveWith t g G.barLanes (G.lane ((lowestLane G.barLanes).getD 0)).pc
  | none => s

/-- The count of a BAR word (R57). -/
def barCount (w : RIWord) (e : Env) : Nat := (e.src w.b 0).toNat

/-- BAR of a group (R57 to R61). -/
def barGroup (w : RIWord) (x : Ctx) (s : State) : Res :=
  let c := barCount w x.env
  let b := srcNum w.a
  if c < 1 ∨ 4112 < c then .trap s { cause := 0x02 }
  else
    let others := lanesOf (x.G.live &&& ~~~x.ex)
    let clash := others.any (fun l => match (x.G.lane l).hold with
      | .bar b' c' => b' != b || c' != c
      | _ => false)
    let all := others.all (fun l => (x.G.lane l).hold == .bar b c)
    if clash then .trap s { cause := 0x30 }
    else if all && s.relDone x.c x.t x.g (s.ctl.stamp + 1) && (x.T.bar b).refuses c then .trap s { cause := 0x30 }
    else
      let s := s.modGroup x.t x.g (fun G => G.modLanes x.ex (fun _ L => { L with hold := .bar b c }))
      .done (if all then s.arriveWith x.t x.g x.ex x.pc else s) { drop := x.ex }

/-- Have all matrix instructions of a share's sequencer completed? -/
def Share.matrixIdle (sh : Share) : Bool := sh.mul.started.isNone && sh.mul.waiting.isNone && sh.drain.started.isNone && sh.drain.waiting.isNone

/-- Makes the arrival of a sequencer held at a BAR once its matrix instructions have completed (R58, R60). -/
def State.seqArrive (s : State) (t j : Nat) : State :=
  match s.team? t with
  | none => s
  | some T =>
    match T.share? j with
    | none => s
    | some sh =>
      match sh.seq.st with
      | .bar b c false =>
        if !sh.matrixIdle then s
        else if (T.bar b).refuses c then s.seqTrap t j 0x30
        else s.setTeam ((T.setShare j { sh with seq := { sh.seq with st := .bar b c true } }).arrive b c)
      | _ => s

/-- BAR of a sequencer (R58). -/
def barSeq (w : RIWord) (x : SeqCtx) (s : State) : Res :=
  let c := barCount w x.env
  if c < 1 ∨ 4112 < c then .trap s { cause := 0x02 }
  else .gone ((s.modSeq x.t x.j (fun q => { q with st := .bar (srcNum w.a) c false })).seqArrive x.t x.j)

/-- BAR (R57 to R62). -/
def execBar (w : RIWord) (s : State) : Host.Outcome State Fault Refusal := issue (.bar w) s (barGroup w) (barSeq w) noBody

/-! ### Stages (R63 to R66) -/

/-- A stage of a ring. -/
def Team.stage (T : Team) (ring stage : Nat) : Stage := spGet { full := false, pending := 0 } T.stages (16 * ring + stage)

/-- Replaces a stage. -/
def Team.setStage (T : Team) (ring stage : Nat) (x : Stage) : Team :=
  { T with stages := spPut { full := false, pending := 0 } T.stages (16 * ring + stage) x }

/-- Does the state that a STGWAIT names hold (R64)? -/
def Stage.reached (x : Stage) (full : Bool) : Bool := if full then x.full else !x.full && x.pending == 0

/-- Is the emptying of a stage by an STGFREE on its way (R65)? -/
def State.stageFreed (s : State) (t r k : Nat) : Bool := s.cores.any (fun c => c.2.sq.any (fun e => e.t == t && e.stage == some (r, k)))

/-- Does a STGWAIT proceed (R64)? A stage whose emptying is on its way is not full to it, and not empty yet either. -/
def State.stageOpen (s : State) (T : Team) (r k : Nat) (full : Bool) : Bool := (T.stage r k).reached full && !(full && s.stageFreed T.id r k)

/-- Lets the parties go on that wait for what a stage now is (R64). -/
def Team.stageSettle (T : Team) (ring stage : Nat) : Team :=
  let x := T.stage ring stage
  [true, false].foldl (fun T full =>
    if x.reached full then
      { T with
        groups := T.groups.map (fun G => G.free (.stg ring stage full)),
        shares := T.shares.map (fun sh =>
          if sh.seq.st == .stg ring stage full then { sh with seq := { sh.seq with st := .running, pc := nextSlot sh.seq.pc } } else sh) }
    else T) T

/-- The ring and stage that a word names; none where an S register holds too large a number (R63). -/
def stageOf (w : RIWord) (e : Env) : Option (Nat × Nat) :=
  let r := (e.src w.a 0).toNat
  let k := (e.src w.b 0).toNat
  if r ≤ 7 ∧ k ≤ 15 then some (r, k) else none

/-- STGWAIT of a group (R64): the executing lanes go on or are held. -/
def stgwaitGroup (w : RIWord) (full : Bool) (x : Ctx) (s : State) : Res :=
  match stageOf w x.env with
  | none => .trap s { cause := 0x02 }
  | some (r, k) =>
    if s.stageOpen x.T r k full then .done s {}
    else .done (s.modGroup x.t x.g (fun G => G.modLanes x.ex (fun _ L => { L with hold := .stg r k full }))) {}

/-- STGWAIT of a sequencer. -/
def stgwaitSeq (w : RIWord) (full : Bool) (x : SeqCtx) (s : State) : Res :=
  match stageOf w x.env with
  | none => .trap s { cause := 0x02 }
  | some (r, k) =>
    if s.stageOpen x.T r k full then .done s {}
    else .gone (s.modSeq x.t x.j (fun q => { q with st := .stg r k full }))

/-- STGWAIT_EMPTY (R64). -/
def execStgwaitEmpty (w : RIWord) (s : State) : Host.Outcome State Fault Refusal :=
  issue (.stgwaitEmpty w) s (stgwaitGroup w false) (stgwaitSeq w false) noBody

/-- STGWAIT_FULL (R64). -/
def execStgwaitFull (w : RIWord) (s : State) : Host.Outcome State Fault Refusal :=
  issue (.stgwaitFull w) s (stgwaitGroup w true) (stgwaitSeq w true) noBody

end Sys2Proof.Machine
end

