-- ==== Sys2Proof/Machine/Stamped.lean ====
section
/-! DEFINITION. Stamped words: the factor table, decay, SWFOLD and SWMRG, and STEPRD (R144, R284 to R293). -/

namespace Sys2Proof.Machine

/-- A stamped word (R144). -/
structure Stamped where
  value : Nat
  stamp : Nat
  factor : Nat
  sv : Bool
  deriving DecidableEq, Repr

/-- Reads a stamped word; bits 63:57 are ignored (R290). -/
def stampedOf (w : DWord) : Stamped := { value := fldN w 0 32, stamp := fldN w 32 16, factor := fldN w 48 8, sv := w.getLsbD 56 }

/-- The word of a stamped value, bits 63:57 clear (R290). -/
def Stamped.word (x : Stamped) : DWord := BitVec.ofNat 64 (x.value + 2 ^ 32 * x.stamp + 2 ^ 48 * x.factor + (if x.sv then 2 ^ 56 else 0))

/-- The elapsed count at a step (R289). -/
def Stamped.elapsed (x : Stamped) (step : DWord) : Nat := if x.sv then (fldN step 0 16 + 65536 - x.stamp) % 65536 else 0

/-- Is the word stale at a step (R289)? -/
def Stamped.stale (x : Stamped) (step : DWord) : Bool := x.sv && decide (32768 ≤ x.elapsed step)

/-- The decay power over the words of an entry of the factor table (R289). -/
def decayPow (F : Nat → Nat) (k : Nat) : Nat :=
  laneList.foldl (fun p j => if k / 2 ^ j % 2 = 1 then mul32 p (F j) else p) 0x3F800000

/-- The decayed value of a word (R290). -/
def Stamped.decayed (x : Stamped) (F : Nat → Nat → Nat) (step : DWord) : Nat := mul32 x.value (decayPow (F x.factor) (x.elapsed step))

/-- The executor number of the copy of the factor table in a slice unit; a core's is its number, a service group's 512 and up. -/
def sliceExec (slice : Nat) : Nat := 1024 + slice
def serviceExec (cluster : Nat) : Nat := 512 + cluster

/-- The key of a word of an executor's copy. -/
def factKey (ex f j : Nat) : Nat := ex * 4096 + f * 16 + j

/-- The word of the factor table in memory (R288); a free value where it is not mapped as R288 requires. -/
def State.factWord (s : State) (f j : Nat) : Word :=
  match s.translate s.pkg.factAsn Need.load false (s.pkg.factBase + BitVec.ofNat 64 (64 * f + 4 * j)) with
  | .ok pa _ => BitVec.ofNat 32 (s.mem.num pa 4)
  | _ => Config.freeWord (s.ctl.draws * 4096 + f * 16 + j)

/-- Word `j` of entry `f` as an executor has it: from its copy where that holds it (R288). -/
def State.factor (s : State) (ex f j : Nat) : Nat :=
  match spFind s.pkg.factCopy (factKey ex f j) with
  | some w => w.toNat
  | none => (s.factWord f j).toNat

/-- The lines of the factor table that an executor reads for some entries: those of which it has no copy (R288). -/
def State.factorLines (s : State) (ex : Nat) (fs : List Nat) : List Nat :=
  fs.filterMap (fun f =>
    if (spFind s.pkg.factCopy (factKey ex f 0)).isSome then none
    else match s.translate s.pkg.factAsn Need.load false (s.pkg.factBase + BitVec.ofNat 64 (64 * f)) with
      | .ok pa _ => some pa.line
      | _ => none)

/-- Does a line of the factor table mismatch that an executor reads for some entries (R385, R396)? -/
def State.factorBad (s : State) (ex : Nat) (fs : List Nat) : Bool := s.mem.poison != [] && s.mem.poisoned (s.factorLines ex fs)

/-- An executor keeps the entries it uses (R288); its reading corrects and counts single-bit errors (R399). -/
def State.keepFactors (s : State) (ex : Nat) (fs : List Nat) : State :=
  let s := if s.mem.upsets == [] then s else s.scrub (s.factorLines ex fs)
  s.modPkg (fun p => { p with factCopy := fs.foldl (fun c f => laneList.foldl (fun c j =>
    if (spFind c (factKey ex f j)).isSome then c else spIns (factKey ex f j) (s.factWord f j) c) c) p.factCopy })

/-- A stamped word folded to a step (R292). -/
def foldWord (F : Nat → Nat → Nat) (step w : DWord) : DWord :=
  let x := stampedOf w
  if x.sv then Stamped.word { x with value := x.decayed F step, stamp := fldN step 0 16 } else x.word

/-- The operand with SV = 1 and the smaller elapsed count (R293). -/
def laterOf (a b : Stamped) (step : DWord) : Stamped :=
  if !b.sv then a else if !a.sv then b else if b.elapsed step < a.elapsed step then b else a

/-- Two stamped words merged (R293). -/
def mergeWords (F : Nat → Nat → Nat) (step wa wb : DWord) : DWord :=
  let a := stampedOf wa
  let b := stampedOf wb
  if !a.sv && !b.sv then Stamped.word { value := add32 a.value b.value, stamp := 0, factor := 0, sv := false }
  else
    let t := laterOf a b step
    let v (x : Stamped) : Nat := if x.sv then mul32 x.value (decayPow (F t.factor) (x.elapsed step - t.elapsed step)) else x.value
    Stamped.word { value := add32 (v a) (v b), stamp := t.stamp, factor := t.factor, sv := true }

/-- Do two words bear different factors (R293)? -/
def factorsClash (wa wb : DWord) : Bool :=
  (stampedOf wa).sv && (stampedOf wb).sv && (stampedOf wa).factor != (stampedOf wb).factor

/-- The executing lanes for which a test holds. -/
def Ctx.lanesWith (x : Ctx) (f : Nat → Bool) : Lanes := maskOf (fun l => inMask x.ex l && f l)

/-- The entries of the factor table that some words use. -/
def factorsOf (ws : List DWord) : List Nat := ((ws.map stampedOf).filter (·.sv)).map (·.factor) |>.eraseDups

/-- SWFOLD (R292). -/
def execSwfold (w : RIWord) (s : State) : Host.Outcome State Fault Refusal :=
  issueG (.swfold w) s (fun x s =>
    let g := s.stepOf x.c
    let word (l : Nat) : DWord := x.env.src64 w.a l
    let bad := x.lanesWith (fun l => (stampedOf (word l)).stale g)
    if bad != 0 then .trap s { cause := 0x49, names := some bad }
    else
      let fs := factorsOf ((lanesOf x.ex).map word)
      let s' := s.keepFactors x.c fs
      if s.factorBad x.c fs then .gone (s.killIntegrity x.t) else .done s' { writes := destWrites w.d true 4 x.ex (laneList.map (fun l => foldWord (s'.factor x.c) g (word l))) })

/-- SWMRG (R293). -/
def execSwmrg (w : RIWord) (s : State) : Host.Outcome State Fault Refusal :=
  issueG (.swmrg w) s (fun x s =>
    let g := s.stepOf x.c
    let wa (l : Nat) : DWord := x.env.src64 w.a l
    let wb (l : Nat) : DWord := x.env.src64 w.b l
    let clash := x.lanesWith (fun l => factorsClash (wa l) (wb l))
    let bad := x.lanesWith (fun l => (stampedOf (wa l)).stale g || (stampedOf (wb l)).stale g)
    if clash != 0 then .trap s { cause := 0x48, names := some clash }
    else if bad != 0 then .trap s { cause := 0x49, names := some bad }
    else
      let fs := factorsOf ((lanesOf x.ex).map wa ++ (lanesOf x.ex).map wb)
      let s' := s.keepFactors x.c fs
      if s.factorBad x.c fs then .gone (s.killIntegrity x.t) else .done s' { writes := destWrites w.d true 4 x.ex (laneList.map (fun l => mergeWords (s'.factor x.c) g (wa l) (wb l))) })

/-- STEPRD (R286). -/
def execSteprd (w : RIWord) (s : State) : Host.Outcome State Fault Refusal :=
  issueG (.steprd w) s (fun x s => .done s { writes := destWrites w.d true 4 x.ex (laneList.map (fun _ => s.stepOf x.c)) })

end Sys2Proof.Machine
end

