-- ==== Sys2Proof/Machine/Reflect.lean ====
section
/-! DEFINITION. Transmit and receive windows: marks, captures, paths, counters and their copies (R322 to R335). -/

namespace Sys2Proof.Machine

/-! ### Marks of granules (R324, R365) -/

/-- Is the address within the window? -/
def Window.holds (w : Window) (asn : Nat) (va : DWord) : Bool := w.asn == asn && decide (w.base.toNat ≤ va.toNat) && decide (va.toNat < w.base.toNat + w.size)

/-- The window whose granule holds a byte, with the byte's offset in it. -/
def State.windowOf (s : State) (a : PAddr) (tx : Bool) : Option (Window × Nat) :=
  match s.frameAt a with
  | some f =>
    let va := f.va a.off
    (s.refl.windows.find? (fun w => w.holds f.asn va && (!tx || w.tx))).map (fun w => (w, va.toNat - w.base.toNat))
  | none => none

/-- The TX windows whose granules hold a byte: windows may overlap. -/
def State.txWindows (s : State) (a : PAddr) : List Window :=
  match s.frameAt a with
  | some f => s.refl.windows.filter (fun w => w.tx && w.holds f.asn (f.va a.off))
  | none => []

/-- Is the byte in a granule of an additive window (R325)? -/
def State.additive (s : State) (a : PAddr) : Bool :=
  let m := s.marks a
  (m.tx || m.rx) && (match s.frameAt a with | some f => s.refl.windows.any (fun w => w.mode != 0 && w.holds f.asn (f.va a.off)) | none => false)

/-! ### Windows, counters and copies (R334) -/

/-- A window by number. -/
def State.window? (s : State) (id : Nat) : Option Window := s.refl.windows.find? (·.id == id)

/-- The live mask of destinations. -/
def Window.txLive (w : Window) : DWord := BitVec.ofNat 64 (w.paths.zipIdx.foldl (fun a x => if x.1.live then a + 2 ^ x.2 else a) 0)

/-- The live mask of members. -/
def Window.rxLive (w : Window) : DWord := BitVec.ofNat 64 (w.members.zipIdx.foldl (fun a x => if x.1.live then a + 2 ^ x.2 else a) 0)

/-- The bytes of the first `n` captures. -/
def Window.bytesUpTo (w : Window) (n : Nat) : Nat := (w.caps.take n).foldl (fun a c => a + c.bytes) 0

/-- The sent counter: what every live destination has acknowledged (R334). -/
def Window.sentNow (w : Window) : DWord :=
  let live := w.paths.filter (·.live)
  let n := live.foldl (fun a p => min a p.ackedCaps) w.caps.length
  BitVec.ofNat 64 (w.bytesUpTo n)

/-- The counters and masks of a window as its copies take them. -/
def Window.counters (w : Window) : CounterCopy :=
  { captured := w.captured, sent := w.sent, landed := w.members.map (·.landed), txLive := w.txLive, rxLive := w.rxLive }

/-- A selector's value; none where the window has no such counter (R336). -/
def CounterCopy.value (c : CounterCopy) (w : Window) (sel : Nat) : Option DWord :=
  if sel < 64 then (if w.rx && sel < w.mems.length then some (nth 0 c.landed sel) else none)
  else match sel with
    | 64 => if w.tx then some c.sent else none
    | 65 => if w.tx then some c.captured else none
    | 66 => if w.tx then some c.txLive else none
    | 67 => if w.rx then some c.rxLive else none
    | _ => none

/-- The copy of a window's counters that a die holds. -/
def Window.copyOf (w : Window) (die : Nat) : CounterCopy :=
  (spFind w.copies die).getD { captured := 0, sent := 0, landed := [], txLive := 0, rxLive := 0 }

/-- Has a counter reached a value (R336)? -/
def reached (c n : DWord) : Bool := decide ((c - n).toNat < 2 ^ 63)

/-- Has a selector's counter a party that is live: a landed counter's member is not lost (R349)? -/
def Window.alive (w : Window) (sel : Nat) : Bool := if sel < 64 then ((w.members[sel]?).map (·.live)).getD false else true

/-- Does a binding on the window fire (R349)? One whose member is lost fires never. -/
def Binding.fires (b : Binding) (w : Window) : Bool :=
  b.win == w.id && w.alive b.sel && (match w.counters.value w b.sel with | some c => reached c b.n | none => false)

/-- Replaces a window after a change: the sent counter follows, every die's copy is told, the bindings that fire are removed and send their decrements (R334, R349). -/
def State.setWindow (s : State) (w : Window) : State :=
  let w := { w with sent := w.sentNow }
  let old := s.window? w.id
  let w := if old.map Window.counters == some w.counters then w
    else { w with updates := (upFrom 0 8).map (fun d => (d, (spFind w.updates d).getD [] ++ [w.counters])) }
  let fired := s.refl.binds.filter (·.fires w)
  let s := s.modRefl (fun r => { r with windows := r.windows.map (fun x => if x.id == w.id then w else x), binds := r.binds.filter (fun b => !b.fires w) })
  s.modSched (fun q => { q with decs := q.decs ++ fired.map (fun b => { task := b.task }) })

/-- Marks a destination lost, or a member (R335). -/
def Window.lose (w : Window) (member : Bool) (idx : Nat) : Window :=
  if member then { w with members := w.members.zipIdx.map (fun x => if x.2 = idx then { x.1 with live := false } else x.1) }
  else { w with paths := w.paths.zipIdx.map (fun x => if x.2 = idx then { x.1 with live := false } else x.1) }

/-! ### Sending captures (R330, R338, R339) -/

/-- A session by number and peer. -/
def State.session? (s : State) (id peer : Nat) : Option Session := s.refl.sessions.find? (fun x => x.id == id && x.peer == peer)

/-- Replaces a session. -/
def State.setSession (s : State) (x : Session) : State :=
  s.modRefl (fun r => { r with sessions := r.sessions.map (fun y => if y.id == x.id && y.peer == x.peer then x else y) })

/-- Frames that may be sent under one key: its 2^31-th is never sent (R340). -/
def keyLimit : Nat := 2 ^ 31 - 1

/-- The settings of a peer for which system software has set none (R337). -/
def PeerNet.unset : PeerNet := { port := 0, mac := 0, vlan := none, ip := none, srcPort := 0, dstPort := 0, hop := none, payload := 1472 }

/-- The settings of a peer package. -/
def State.peerNet (s : State) (peer : Nat) : PeerNet := (spFind s.refl.peers peer).getD PeerNet.unset

/-- The header of a frame: 24 bytes in clear (R338). -/
def frameHeader (f : Frame) : List Byte :=
  natBytes 1 1 ++ natBytes 1 f.kind ++ natBytes 2 f.path ++ natBytes 4 f.session ++ natBytes 8 f.seq.toNat ++ natBytes 8 f.ack.toNat

/-- A record, padded to 4 bytes (R338). -/
def recordBytes (r : FrameRec) : List Byte :=
  natBytes 2 r.txWin ++ natBytes 2 r.rxWin ++ natBytes 4 r.offset ++ natBytes 2 r.len ++ natBytes 1 (if r.q8 then 1 else 0) ++ natBytes 1 0 ++ r.data ++
  List.replicate (roundUp 4 r.data.length - r.data.length) 0

/-- The body of a frame before it is sealed: its records (R338). -/
def frameBody (f : Frame) : List Byte := f.records.flatMap recordBytes

/-- The bytes of a frame: header, body, and a tag of 16 (R338). -/
def frameLength (f : Frame) : Nat := 24 + (frameBody f).length + 16

/-- The nonce of a frame: the salt of its direction, then SEQ (R340). -/
def Session.nonce (x : Session) (f : Frame) : BitVec 96 := x.txSalt ++ f.seq

/-- A frame of a session as it leaves for its peer (R337, R338, R340). -/
def State.sealed (s : State) (x : Session) (f : Frame) : Sent :=
  { frame := f, net := s.peerNet x.peer, nonce := x.nonce f, header := frameHeader f, body := frameBody f }

/-- Is the port up to which a peer is bound (R395)? -/
def State.portUp (s : State) (peer : Nat) : Bool := !s.pkg.ethDown.contains (s.peerNet peer).port

/-- Puts a frame on the port of its peer; one that is down sends nothing (R395). -/
def State.emit (s : State) (x : Session) (f : Frame) : State := if s.portUp x.peer then s.modRefl (fun r => { r with txFrames := r.txFrames ++ [s.sealed x f] }) else s

/-- Does a compute die reach the I/O die that carries the port of a peer (R9, R395)? -/
def State.portNear (s : State) (die peer : Nat) : Bool := s.reachesIo die ((s.peerNet peer).port / 4)

/-- Sends a frame of a session; a data frame is kept with what it carries until it is acknowledged (R339). -/
def State.sendFrame (s : State) (x : Session) (kind path : Nat) (recs : List FrameRec) (what : List (Nat × Nat × Nat)) : State :=
  let f : Frame := { session := x.id, peer := x.peer, kind := kind, path := path, seq := x.nextSeq, ack := x.recvSeq, tagOk := true, checkOk := true, records := recs }
  let now := s.pkg.time.toNat
  let s := s.setSession { x with
    nextSeq := if kind = 0 then x.nextSeq + 1 else x.nextSeq,
    kept := if kind = 0 then x.kept ++ [(f, now, what)] else x.kept,
    keyFrames := x.keyFrames + 1, lastSent := now }
  s.emit x f

/-- Hands capture `k` of a window to the frames of destination `j`: one frame for each capture, which is never larger than the payload of a peer (R326, R337). -/
def State.sendCap (s : State) (id j k : Nat) : State :=
  match s.window? id with
  | none => s
  | some w =>
    match w.dests[j]?, w.caps[k]?, w.paths[j]? with
    | some (pkg, rxw), some c, some p =>
      match s.session? w.session pkg with
      | some x =>
        if x.open_ && p.live && !p.stopped && x.keyFrames < keyLimit && s.portNear w.die pkg then
          let s := s.sendFrame x 0 ((w.pathId + j) % 65536) (c.recs.map (fun r => { r with rxWin := rxw })) [(id, j, k)]
          s.setWindow { w with paths := w.paths.zipIdx.map (fun y => if y.2 = j then { y.1 with sentCaps := k + 1 } else y.1) }
        else s
      | none => s
    | _, _, _ => s

/-- Sends what a remote path has not yet been handed, in capture order. -/
def State.pumpPath (s : State) (w : Window) (j : Nat) : State :=
  match w.dests[j]?, w.paths[j]? with
  | some (pkg, _), some p =>
    if pkg = s.pkg.pkgid then s
    else (upFrom p.sentCaps (w.caps.length - p.sentCaps)).foldl (fun s k => s.sendCap w.id j k) s
  | _, _ => s

/-- Sends what all remote paths of a window have not yet been handed. -/
def State.pump (s : State) (id : Nat) : State :=
  match s.window? id with
  | some w => (upFrom 0 w.dests.length).foldl (fun s j => s.pumpPath w j) s
  | none => s

/-- A capture with a mismatching line is not sent: the live paths stop and their destinations are lost at once (R398). -/
def Window.stopPaths (w : Window) : Window :=
  { w with paths := w.paths.map (fun p => if p.live then { p with live := false, stopped := true } else p) }

/-- Adds a capture to a window (R326, R334, R398). -/
def State.addCapture (s : State) (id : Nat) (c : Capture) : State :=
  match s.window? id with
  | none => s
  | some w =>
    let w := { w with caps := w.caps ++ [c], captured := w.captured + BitVec.ofNat 64 c.bytes }
    if c.bad then
      ((s.setWindow w.stopPaths).modErrs (fun e => { e with stoppedPaths := e.stoppedPaths + (w.paths.filter (·.live)).length })).raise 3
    else (s.setWindow w).pump id

/-! ### Capture (R326, R332, R333) -/

/-- Contiguous runs of (offset, byte) pairs whose offsets rise. -/
def runsOf : List (Nat × Byte) → List (Nat × List Byte)
  | [] => []
  | (o, b) :: r =>
    match runsOf r with
    | (p, bs) :: rs => if p = o + 1 then (o, b :: bs) :: rs else (o, [b]) :: (p, bs) :: rs
    | [] => [(o, [b])]

/-- Puts a pair in its place; of two bytes at one offset the later wins. -/
def insByte (x : Nat × Byte) (l : List (Nat × Byte)) : List (Nat × Byte) := spIns x.1 x.2 l

/-- The place of a word of a Q8 window's residual array (R323). -/
def State.residPlace (s : State) (w : Window) (off : Nat) : Option PAddr :=
  match s.translate w.asn {} false (w.resid + BitVec.ofNat 64 off) with
  | .ok pa _ => some pa
  | _ => none

/-- The words of a block of a Q8 window: local values, or +0 where the written mask is clear (R332). -/
def State.blockWords (s : State) (base : PAddr) (mask : Word) : List Nat :=
  (upFrom 0 32).map (fun i => if mask.getLsbD i then s.mem.num (base.add (4 * i)) 4 else 0)

/-- Captures a Q8 block (R332, R333): quantises it with its residuals, writes the new residuals, clears the mask. `base` is the place of the block's first byte. Where a line of the block or of its residuals mismatches, the capture is bad (R396, R398), and the residuals stay as they are. -/
def State.captureBlock (s : State) (w : Window) (blk : Nat) (base : PAddr) : State :=
  let mask := spGet 0 w.masks blk
  let places := (upFrom 0 32).map (fun i => s.residPlace w (128 * blk + 4 * i))
  let lines := [base.line, base.line + 1] ++ ((places.filterMap id).map PAddr.line).eraseDups
  let bad := s.mem.poisoned lines
  let s := s.scrub lines
  let xs := s.blockWords base mask
  let res := places.map (fun a => match a with | some a => s.mem.num a 4 | none => 0)
  let ys := (xs.zip res).map (fun p => add32 p.1 p.2)
  let vals := ys.map (fdecode fmt32)
  let scale := blockScale 0x13 vals
  let qs := vals.map (quantElem 0x13 scale)
  let newRes := (vals.zip qs).map (fun p => if scale = 0xFF then 0 else
    match decodeElem 0x13 scale p.2 with
    | .fin n m e => rne32 (faddExact .rne p.1 (.fin (!n) m e))
    | _ => 0)
  let s := if bad then s else s.modMem (fun m => m.store ((newRes.zip places).flatMap (fun p => match p.2 with | some a => numBytes a 4 p.1 | none => [])))
  let s := match s.window? w.id with
    | some w => s.setWindow { w with masks := spPut 0 w.masks blk 0 }
    | none => s
  s.addCapture w.id { recs := [{ txWin := w.id, rxWin := 0, offset := 128 * blk, len := 128, q8 := true, data := BitVec.ofNat 8 scale :: qs.map (BitVec.ofNat 8) }], bytes := 128, bad := bad }

/-- The words of a block that bytes at some offsets of the window write, as bits of its written mask (R332). -/
def blockMask (blk : Nat) (ofs : List Nat) : Word :=
  ofs.foldl (fun m o => if o / 128 = blk then m ||| (1#32 <<< (o % 128 / 4)) else m) 0

/-- One write sets the written bits of a Q8 window for its bytes, and captures each block that becomes full, in offset order (R332). -/
def State.markBlocks (s : State) (id : Nat) (ofs : List (Nat × PAddr)) : State :=
  let first : List (Nat × PAddr) := ofs.foldl (fun l x => if (spFind l (x.1 / 128)).isSome then l else spIns (x.1 / 128) { x.2 with off := x.2.off - x.1 % 128 } l) []
  first.foldl (fun s b =>
    match s.window? id with
    | none => s
    | some w =>
      let mask := spGet 0 w.masks b.1 ||| blockMask b.1 (ofs.map (·.1))
      let w := { w with masks := spPut 0 w.masks b.1 mask }
      let s := s.setWindow w
      if mask = 0xFFFFFFFF then s.captureBlock w b.1 b.2 else s) s

/-- Captures bytes written within one 64-byte line of a TX granule for a window that holds them (R326). -/
def State.captureFor (s : State) (a : PAddr) (w : List (PAddr × Byte)) (win : Window) : State :=
  let off (b : PAddr) : Nat := match s.frameAt b with | some f => (f.va b.off).toNat - win.base.toNat | none => 0
  if win.mode = 2 then s.markBlocks win.id (w.map (fun x => (off x.1, x.1)))
  else
    let bs := w.foldl (fun l x => insByte (off x.1, x.2) l) []
    (s.scrub [a.line]).addCapture win.id {
      recs := (runsOf bs).map (fun r => { txWin := win.id, rxWin := 0, offset := r.1, len := r.2.length, q8 := false, data := r.2 }),
      bytes := bs.length, bad := s.mem.poisoned [a.line] }

/-- Captures bytes written within one 64-byte line of a TX granule (R326). The bytes are in memory already. -/
def State.capture (s : State) (w : List (PAddr × Byte)) : State :=
  match w with
  | [] => s
  | (a, _) :: _ => if (s.marks a).tx then (s.txWindows a).foldl (fun s win => s.captureFor a w win) s else s

/-- A write at memory by a slice: the bytes land, and what lies in a TX granule is captured (R326). All bytes lie in one line. -/
def State.writeLine (s : State) (w : List (PAddr × Byte)) : State := (s.modMem (fun m => m.store w)).capture w

end Sys2Proof.Machine
end

