-- ==== Sys2Proof/Machine/Access.lean ====
section
/-! DEFINITION. Lane accesses: addresses, checks, translation, parking, the operand log, and the performing of loads and stores (R204 to R221, R241 to R243, R258 to R274). -/

namespace Sys2Proof.Machine

/-- Who makes an access: the group, its team and share, and the core. -/
structure Who where
  t : Nat
  g : Nat
  T : Team
  G : Group
  sh : Share
  c : Nat

/-- The group as it stands. -/
def State.who (s : State) (t g : Nat) : Option Who :=
  match s.team? t with
  | none => none
  | some T =>
    match T.group? g with
    | none => none
    | some G => (T.share? G.core).map (fun sh => { t := t, g := g, T := T, G := G, sh := sh, c := sh.core })

/-- The permission an access needs (R229). -/
def AccKind.need : AccKind → Need
  | .load => .load
  | .store => .store
  | _ => .atomic

/-- The fields of the format-M word of an access. -/
def mWord (i : Instr) : Option MWord :=
  match formOf i with
  | .m _ w => some w
  | _ => none

/-- The space that FN names (R436). -/
def spaceOf (x : BitVec 2) : Space :=
  match x.toNat with
  | 0 => .priv
  | 1 => .team
  | 2 => .peer
  | _ => .glb

/-- The effective address of a lane (R419). -/
def Env.addr (e : Env) (w : MWord) (l : Nat) : DWord :=
  (if w.wide then e.src64 w.a l else (e.src w.a l).setWidth 64) + w.off.signExtend 64

/-- The address as a space reads it (R204). -/
def inSpace (sp : Space) (a : DWord) : DWord := if sp == .glb then a else a &&& 0xFFFFFFFF#64

/-- The active lanes: the executing ones whose guard is true (R410). -/
def activeLanes (e : Env) (g : BitVec 4) (ex : Lanes) : Lanes := maskOf (fun l => inMask ex l && e.guard g l)

/-! ### The checks of R205 -/

/-- The element of the lowest lane. -/
def lowElem : List Elem → Option Elem
  | [] => none
  | e :: r => match lowElem r with
    | some f => if f.lane < e.lane then some f else some e
    | none => some e

/-- The lanes of some elements. -/
def elemLanes (es : List Elem) : Lanes := maskOf (fun l => es.any (·.lane == l))

/-- A cause that some elements give: ELANES names their lanes, EADDR holds the address of the lowest. -/
def elemTrap (c : Byte) (es : List Elem) : Trap := { cause := c, eaddr := (lowElem es).map (·.addr), names := some (elemLanes es) }

/-- The first of some checks that an element fails. -/
def firstFail (es : List Elem) : List (Byte × (Elem → Bool)) → Option Trap
  | [] => none
  | (c, f) :: r => if es.any f then some (elemTrap c (es.filter f)) else firstFail es r

/-- Is the address not a multiple of the size? -/
def Elem.misaligned (e : Elem) : Bool := e.addr.toNat % e.size != 0

/-- The share on a cluster rank, unless it has retired (R215). -/
def Team.shareOfRank (T : Team) (r : Nat) : Option Share := T.shares.find? (fun x => rankOf x.core == r && !x.retired)

/-- The share that a peer address names. -/
def Team.peerShare (T : Team) (a : DWord) : Option Share := T.shareOfRank (fldN a 24 4)

/-- Does a peer element lie within the allocation it names? An element whose core has gone is another check's. -/
def Team.peerIn (T : Team) (e : Elem) : Bool :=
  match T.peerShare e.addr with
  | some x => decide (fldN e.addr 0 24 + e.size ≤ x.scratchLen)
  | none => true

/-- Alignment, the form of a peer address, peer presence and the bounds of the space, in order (R205, R209, R212, R215, R217). -/
def spaceChecks (w : Who) (sp : Space) : List (Byte × (Elem → Bool)) :=
  (0x16, Elem.misaligned) :: (match sp with
    | .priv => [(0x13, fun e => decide (w.T.launch.privb < e.addr.toNat + e.size))]
    | .team => [(0x14, fun e => decide (w.sh.scratchLen < e.addr.toNat + e.size))]
    | .peer => [(0x10, fun e => fldN e.addr 28 4 != 0), (0x15, fun e => (w.T.peerShare e.addr).isNone), (0x14, fun e => !w.T.peerIn e)]
    | .glb => [(0x10, fun e => fldN e.addr 52 12 != 0)])

/-! ### Where an element lies -/

/-- The place of a byte of a share's team space (R212). -/
def Share.place (x : Share) (off : Nat) : PAddr := { store := .scratch, unit := x.core, off := x.scratchBase + off }

/-- The place of byte `n` of lane `l`'s private space (R208). -/
def privPlace (T : Team) (G : Group) (l n : Nat) : PAddr := framesAt T.die T.homes (G.privBase + (n / 4 * 16 + l) * 4 + n % 4)

/-- What is found at an element: a cause, a mismatching page-table line, a residency fault, or the places of its bytes with the leaf that maps them. -/
inductive Found where
  | cause (c : Byte)
  | poisoned
  | resid
  | spot (bs : List PAddr) (leaf : DWord)
  deriving DecidableEq, Repr

/-- The translation of an address by a core, the TLB left as it is. -/
def State.peek (s : State) (c asn : Nat) (n : Need) (va : DWord) : Trans :=
  match s.tlbHit c asn va n.wr with
  | some e => leafTrans n false e.leaf (e.pages != 1) va
  | none => s.translate asn n false va

/-- Finds an element that has passed the checks of its space. -/
def State.find (s : State) (w : Who) (sp : Space) (n : Need) (e : Elem) : Found :=
  match sp with
  | .priv => .spot ((upFrom e.addr.toNat e.size).map (privPlace w.T w.G e.lane)) 0
  | .team => .spot ((upFrom e.addr.toNat e.size).map w.sh.place) 0
  | .peer =>
    (match w.T.peerShare e.addr with
      | some x => .spot ((upFrom (fldN e.addr 0 24) e.size).map x.place) 0
      | none => .cause 0x15)
  | .glb =>
    (match s.peek w.c w.T.asn n e.addr with
      | .cause c => .cause c
      | .poisoned => .poisoned
      | .resid => .resid
      | .ok pa leaf => .spot ((upFrom 0 e.size).map pa.add) leaf)

/-- An element with its places. -/
structure Spot where
  e : Elem
  bs : List PAddr
  leaf : DWord
  deriving DecidableEq, Repr

/-- The place of the first byte. -/
def Spot.at_ (p : Spot) : PAddr := p.bs.headD { store := .sram, unit := 0, off := 0 }

/-- The elements found, with their places. -/
def spotsOf (fs : List (Elem × Found)) : List Spot :=
  fs.filterMap (fun x => match x.2 with
    | .spot bs leaf => some { e := x.1, bs := bs, leaf := leaf }
    | _ => none)

/-- The elements with a given finding. -/
def foundAs (fs : List (Elem × Found)) (f : Found) : List Elem := (fs.filter (fun x => x.2 == f)).map (·.1)

/-! ### Degree and latency -/

/-- The degree of one beat of lane elements (R135): banks of each scratchpad touched, lines elsewhere. -/
def spotDegree (ps : List Spot) (far : List Elem) : Nat :=
  let scratch := ps.filter (fun p => p.at_.store == .scratch)
  let units := (scratch.map (fun p => p.at_.unit)).eraseDups
  let d1 := units.foldl (fun a u => max a (beatDegree .scratch ((scratch.filter (fun p => p.at_.unit == u)).map (fun p => (p.at_.off, p.e.size))))) 1
  let lines := (ps.filter (fun p => p.at_.store != .scratch)).flatMap (fun p => p.bs.map (fun b => (b.key, 1)))
  max d1 (beatDegree .lines (lines ++ far.map (fun e => (2 ^ 52 + e.addr.toNat, e.size))))

/-- The degree of a lane access: a tile's beats are its registers (R135). -/
def accDegree (tile : Bool) (ps : List Spot) (far : List Elem) : Nat :=
  if tile then
    let regs := ((ps.map (·.e.reg)) ++ far.map (·.reg)).eraseDups
    regs.foldl (fun a r => max a (spotDegree (ps.filter (·.e.reg == r)) (far.filter (·.reg == r)))) 1
  else spotDegree ps far

/-- Hops between two ranks of a cluster (R74). -/
def hops (a b : Nat) : Nat :=
  let d (x y : Nat) : Nat := (x - y) + (y - x)
  d (a / 4) (b / 4) + d (a % 4) (b % 4)

/-- The latency of a load's element (R74). -/
def spotLatency (w : Who) (sp : Space) (p : Spot) : Nat :=
  match sp with
  | .priv | .team => 8
  | .peer => if p.at_.unit = w.c then 8 else 12 + 4 * hops (rankOf w.c) (rankOf p.at_.unit)
  | .glb =>
    let k := sliceOf p.at_.off / 32
    if k = clusterOf w.c then 40 else if k = clusterOf w.c ^^^ 3 then 56 else 48

/-- The latency of a load that reads nothing, all its elements being filled: the largest of its space, since R74 bounds it by its space alone (log 67). -/
def spaceLatency (sp : Space) : Nat :=
  match sp with
  | .priv | .team => 8
  | .peer => 36
  | .glb => 56

/-! ### What holds an access back -/

/-- Is the byte in an absent line of a scratchpad (R213)? -/
def State.absentAt (s : State) (b : PAddr) : Bool := b.store == .scratch && (spFind (s.core b.unit).absent (b.off / 128)).isSome

/-- Is the byte in a die-SRAM line that a copy engine owns (R221)? -/
def State.ownedAt (s : State) (b : PAddr) : Bool := b.store == .sram && (spFind s.mem.owned b.line).isSome

/-- The queued copy commands issued after an access with stamp `st`: they have cleared or taken their lines, but wait for what was issued before them (R253, R258), and may wait for that access. -/
def State.laterCmds (s : State) (st : Nat) : List CopyCmd := s.cores.flatMap (fun k => k.2.cq.filter (fun m => decide (st < m.order)))

/-- Is the byte, for an access with stamp `st`, in a line that a command issued before it, or in flight, has cleared (R214)? -/
def State.absentFor (s : State) (st : Nat) (b : PAddr) : Bool :=
  b.store == .scratch && decide ((((s.laterCmds st).filter (fun m => m.absent.contains (b.unit, b.off / 128))).length) < (spFind (s.core b.unit).absent (b.off / 128)).getD 0)

/-- Is the byte, for an access with stamp `st`, in a line that a command issued before it, or in flight, owns (R221)? -/
def State.ownedFor (s : State) (st : Nat) (b : PAddr) : Bool :=
  b.store == .sram && decide ((((s.laterCmds st).filter (fun m => m.owned.contains b.line)).length) < (spFind s.mem.owned b.line).getD 0)

/-- Is the byte in a frame that a page move holds (R239)? -/
def State.heldAt (s : State) (b : PAddr) : Bool := s.mem.held.contains (b.key / 65536)

/-- The bytes of memory that an atomic acts on; a ring block whole. -/
def AtomReq.size (r : AtomReq) : Nat := if r.kind == .enq || r.kind == .deq then 64 else typeBits r.ty / 8

/-- Does an atomic act on the byte? -/
def AtomReq.touches (r : AtomReq) (b : PAddr) : Bool := decide (r.pa.key ≤ b.key) && decide (b.key < r.pa.key + r.size)

/-- Does a store-queue entry write the byte? -/
def SqEntry.touches (e : SqEntry) (b : PAddr) : Bool :=
  match e.red with
  | some r => r.touches b
  | none => e.bytes.any (fun x => x.1 == b)

/-- Is the entry one for a scratchpad: a release to peer space on its way (R268, R280)? -/
def SqEntry.scratch (e : SqEntry) : Bool :=
  match e.red with
  | some r => r.pa.store == .scratch
  | none => e.bytes.any (fun x => x.1.store == .scratch)

/-- Does an entry of a queue hold back an access of a group to the byte: its own write on the way, which the access does not see otherwise (R40, R262); and of any group of its core a write to a scratchpad, and for a load a RED, which happens before the access where their groups have synchronised (R263, R264)? `here` says that the queue is the one of the group's core. -/
def SqEntry.holds (e : SqEntry) (w : Who) (here load : Bool) (b : PAddr) : Bool :=
  e.touches b && ((e.of w.t w.g && !here) || ((e.of w.t w.g || here) && (e.scratch || (load && e.red.isSome))))

/-- Must a write that is on its way to the byte be awaited by an access with stamp `st` (R40, R262 to R264)? -/
def State.ownWaits (s : State) (w : Who) (st : Nat) (load : Bool) (b : PAddr) : Bool :=
  s.cores.any (fun k => k.2.sq.any (fun e => decide (e.stamp < st) && e.holds w (k.1 == w.c) load b)) ||
  (load && s.requests.any (fun r => decide (r.stamp < st) && (r.of w.t w.g || (!r.reply && r.core == w.c)) && r.touches b))

/-- Are the stores and REDs of a core, up to its release with stamp `st`, performed (R270)? -/
def State.drained (s : State) (k st : Nat) : Bool :=
  (s.core k).sq.all (fun e => !(e.storing && decide (e.stamp ≤ st))) &&
  s.requests.all (fun r => !(!r.reply && r.core == k && decide (r.stamp ≤ st)))

/-- Must the owner of the line drain its store queue first, for a .prm access from core `c` (R269, R270)? -/
def State.prmWaits (s : State) (c : Nat) (b : PAddr) : Bool :=
  match spFind s.mem.relOwner b.line with
  | some (k, st) => k != c && !s.drained k st
  | none => false

/-- Must a load from another die wait for a module on its way that retrains (R393)? -/
def State.trainingFor (s : State) (w : Who) (b : PAddr) : Bool := b.store == .sram && s.training w.c b.unit b.slice

/-- What holds back the bytes of an access with stamp `st` (R214, R221, R239, R262, R270, R393). A RED parks for an absent line alone (R280, R541): what else it must come behind holds it in its core's queue. -/
def State.blocked (s : State) (w : Who) (k : AccKind) (st : Nat) (prm : Bool) (ps : List Spot) : Bool :=
  ps.any (fun p => p.bs.any (fun b => s.absentFor st b || (k != .red &&
    (s.ownedFor st b || s.heldAt b || s.ownWaits w st (k == .load) b || (k == .load && s.trainingFor w b) || (prm && s.prmWaits w.c b)))))

/-- The line of private space in the L1 of a core (R211). -/
def State.l1Find (s : State) (c : Nat) (b : PAddr) (priv : Bool) : Option L1Line :=
  (s.core c).l1.find? (fun x => x.die == b.unit && x.line == b.off / 64 && x.priv == priv)

/-- What parks an access at its issue only: a TLB miss of any lane, a private line not in L1, but for a RED, a load from another die (R80, R231, R541). -/
def State.parksFirst (s : State) (w : Who) (k : AccKind) (sp : Space) (es : List Elem) (ps : List Spot) : Bool :=
  match sp with
  | .priv => k != .red && ps.any (fun p => p.bs.any (fun b => (s.l1Find w.c b true).isNone))
  | .glb => es.any (fun e => (s.tlbHit w.c w.T.asn e.addr k.need.wr).isNone) || (k == .load && ps.any (fun p => p.at_.unit != dieOf w.c))
  | _ => false

/-- Fills the TLB for the addresses of an access. -/
def State.warm (s : State) (w : Who) (n : Need) (sp : Space) (es : List Elem) : State :=
  if sp == .glb then es.foldl (fun s e => (s.coreTranslate w.c w.T.asn n e.addr).1) s else s

/-- The global stores of a group that are issued and not yet in the queue, by their places in the order of issues. -/
def Group.storesAside (G : Group) : List Nat := (G.accessesAside.filter (fun a => accKind a.instr == .store && a.space == .glb)).map (·.stamp)

/-- The global stores of a core that occupy an entry of its store queue, from issue until they are performed (R267): an instruction's bytes are one store. -/
def State.storesOf (s : State) (c : Nat) : List Nat :=
  (((s.core c).sq.filter (fun e => e.red.isNone && e.stage.isNone && !e.scratch)).map (·.stamp) ++
    s.teams.flatMap (fun T => T.groups.flatMap (fun G => if (T.share? G.core).map (·.core) == some c then G.storesAside else []))).eraseDups

/-- Has the core's store queue no free entry (R267)? -/
def State.sqFull (s : State) (c : Nat) : Bool := decide (64 ≤ (s.storesOf c).length)

/-! ### L1 (R211, R219) -/

/-- Puts a line at the front of its set; the least recently used of eight others leaves it. -/
def l1Put (x : L1Line) (l : List L1Line) : List L1Line × Option L1Line :=
  let rest := l.filter (fun y => !(y.die == x.die && y.line == x.line && y.priv == x.priv))
  let set := rest.filter (fun y => y.line % 256 == x.line % 256)
  if set.length < 8 then (x :: rest, none)
  else match set.getLast? with
    | some y => (x :: rest.filter (· != y), some y)
    | none => (x :: rest, none)

/-- Writes back a line that leaves the L1, if it is dirty. -/
def State.writeBack (s : State) (x : Option L1Line) : State :=
  match x with
  | some y => if y.dirty then s.modMem (fun m => m.back y) else s
  | none => s

/-- Makes a line present in L1 and the most recently used of its set; a line that is absent is read from memory, with what its check word shows, and the least recently used of its set may leave for it. -/
def State.l1Fill (s : State) (c : Nat) (b : PAddr) (priv : Bool) : State :=
  match s.l1Find c b priv with
  | some y => s.modCore c (fun k => { k with l1 := y :: k.l1.filter (fun z => !(z.die == b.unit && z.line == b.off / 64 && z.priv == priv)) })
  | none =>
    let s := s.scrub [b.line]
    let x : L1Line := { die := b.unit, line := b.off / 64, priv := priv, dirty := false, bad := s.mem.poisoned [b.line], data := imageOf 512 (s.mem.bytes { b with off := b.off / 64 * 64 } 64) }
    let (l, out) := l1Put x (s.core c).l1
    (s.modCore c (fun k => { k with l1 := l })).writeBack out

/-- Replaces byte `i` of a line. -/
def setLineByte (d : BitVec 512) (i : Nat) (x : Byte) : BitVec 512 :=
  (d &&& ~~~((0xFF#512) <<< (8 * i))) ||| ((x.setWidth 512) <<< (8 * i))

/-- Writes a byte of a private line that L1 has. -/
def State.l1Write (s : State) (c : Nat) (b : PAddr) (x : Byte) : State :=
  s.modCore c (fun k => { k with l1 := k.l1.map (fun y =>
    if y.priv && y.die == b.unit && y.line == b.off / 64 then { y with dirty := true, data := setLineByte y.data (b.off % 64) x } else y) })

/-- Drops the clean lines of global space that a store of the core touches (R219). -/
def State.l1Drop (s : State) (c : Nat) (bs : List PAddr) : State :=
  if (s.core c).l1.any (fun x => !x.priv) then
    s.modCore c (fun k => { k with l1 := k.l1.filter (fun x => x.priv || !bs.any (fun b => b.unit == x.die && b.off / 64 == x.line)) })
  else s

/-! ### Reading -/

/-- The youngest queued store of a core to a byte (R267). -/
def State.forwarded (s : State) (c : Nat) (b : PAddr) : Option Byte :=
  (s.core c).sq.foldl (fun a e => if e.red.isSome then a else
    match (e.bytes.filter (fun x => x.1 == b)).getLast? with
    | some x => some x.2
    | none => a) none

/-- A byte of a line in L1. -/
def L1Line.byte (x : L1Line) (b : PAddr) : Byte := fld x.data (8 * (b.off % 64)) 8

/-- What the core itself holds of a byte that one of its lanes reads: of private space in L1, of global space in the store queue or in an L1 line of an SK page. -/
def State.laneHeld (s : State) (c : Nat) (sp : Space) (sk : Bool) (b : PAddr) : Option Byte :=
  match sp with
  | .priv => (s.l1Find c b true).map (·.byte b)
  | .glb => (s.forwarded c b).or (if sk then (s.l1Find c b false).map (·.byte b) else none)
  | _ => none

/-- A byte as a lane of a core reads it: what its core holds, else memory. -/
def State.laneByte (s : State) (c : Nat) (sp : Space) (sk : Bool) (b : PAddr) : Byte := (s.laneHeld c sp sk b).getD (s.mem.byte b)

/-- The number in the bytes of a spot. -/
def State.laneNum (s : State) (c : Nat) (sp : Space) (sk : Bool) (p : Spot) : Nat :=
  bytesNat (p.bs.map (s.laneByte c sp (sk && p.leaf.getLsbD 5)))

/-- The lines of memory that an access reads. -/
def spotLines (ps : List Spot) : List Nat := (ps.flatMap (fun p => p.bs.map PAddr.line)).eraseDups

/-- The lines that a lane's read of some spots consumes (R396): those of memory, and in L1. -/
def State.laneReads (s : State) (c : Nat) (sp : Space) (sk : Bool) (ps : List Spot) : List Nat :=
  (ps.flatMap (fun p => (p.bs.filter (fun b => (s.laneHeld c sp (sk && p.leaf.getLsbD 5) b).isNone)).map PAddr.line)).eraseDups

/-- Does a lane's read of some spots consume a private line that L1 has from a line whose check word mismatched (R385, R397)? -/
def State.l1Bad (s : State) (c : Nat) (sp : Space) (ps : List Spot) : Bool :=
  sp == .priv && ps.any (fun p => p.bs.any (fun b => ((s.l1Find c b true).map (·.bad)).getD false))

/-- Brings the lines of private space into L1. -/
def State.fillPriv (s : State) (w : Who) (sp : Space) (ps : List Spot) : State :=
  if sp == .priv then (ps.flatMap (fun p => p.bs)).foldl (fun s b => s.l1Fill w.c b true) s else s

/-- A relaxed load of an SK page fills L1, unless the store queue holds bytes of the line. R219 says that it may: that it always does is the model's choice (DESIGN CHOICE, log 90). -/
def State.fillSk (s : State) (w : Who) (sp : Space) (relaxed : Bool) (ps : List Spot) : State :=
  if sp == .glb && relaxed then
    (ps.filter (fun p => p.leaf.getLsbD 5)).foldl (fun s p =>
      if (s.core w.c).sq.any (fun e => e.bytes.any (fun x => x.1.line == p.at_.line)) then s else s.l1Fill w.c p.at_ false) s
  else s

/-! ### Writing the registers of a load -/

/-- The register that a load writes. -/
def loadDest (i : Instr) : Dst :=
  match mWord i with
  | some w => w.d
  | none => .idx 0

/-- The value that a register will hold in cycle `due`, with the results on their way (R73). -/
def settledV (G : Group) (ps : List Pend) (due r l : Nat) : Word :=
  ((lateV (ps.filter (fun p => decide (p.due ≤ due))) r l).getLast?).getD (spGet 0 (G.lane l).v r)

/-- One piece of an element's value: register offset, lowest bit, bits and value. -/
structure Piece where
  lane : Nat
  reg : Nat
  sh : Nat
  bits : Nat
  val : Nat
  deriving DecidableEq, Repr

/-- The pieces of an element whose raw value is `x`: LDT places elements as they are (R515), SWLD decays (R291), the others extend to registers (R511). -/
def loadPieces (F : Nat → Nat → Nat) (a : Access) (e : Elem) (x : Nat) : List Piece :=
  let two (v : Nat) : List Piece := [{ lane := e.lane, reg := e.reg, sh := 0, bits := 32, val := v % 2 ^ 32 }, { lane := e.lane, reg := e.reg + 1, sh := 0, bits := 32, val := v / 2 ^ 32 }]
  let one (v : Nat) : List Piece := [{ lane := e.lane, reg := e.reg, sh := 0, bits := 32, val := v % 2 ^ 32 }]
  match a.instr with
  | .ldt _ => if e.size = 8 then two x else [{ lane := e.lane, reg := e.reg, sh := e.sh, bits := 8 * e.size, val := x }]
  | .swld _ => one ((stampedOf (BitVec.ofNat 64 x)).decayed F a.step)
  | .swldRaw _ => two x
  | i =>
    match mWord i with
    | some w => if wideType w.t then two x else one (placeBits (isSignedT w.t) (8 * e.size) x).toNat
    | none => []

/-- The word of a register after the pieces of a lane are put into it. -/
def putPieces (ps : List Piece) (base : Word) : Word :=
  ps.foldl (fun b p => BitVec.ofNat 32 (b.toNat - b.toNat / 2 ^ p.sh % 2 ^ p.bits * 2 ^ p.sh + p.val * 2 ^ p.sh)) base

/-- The register writes of a load, with their latencies: register D + j is written j cycles after the first, but for LD (R74, R515). -/
def loadWrites (i : Instr) (G : Group) (pend : List Pend) (clk lat : Nat) (ps : List Piece) : List (Nat × RegWrite) :=
  let regs := (ps.map (·.reg)).eraseDups
  let step := if (formOf i).op = 0x70 then 0 else 1
  match loadDest i with
  | .v d => regs.map (fun r =>
      let mine := ps.filter (·.reg == r)
      let due := lat + step * r
      (due, .v (d.toNat + r) (maskOf (fun l => mine.any (·.lane == l)))
        (laneList.map (fun l => putPieces (mine.filter (·.lane == l)) (settledV G pend (clk + due) (d.toNat + r) l)))))
  | .s d => regs.map (fun r => (lat + step * r, .s (d.toNat + r) (putPieces (ps.filter (·.reg == r)) 0)))
  | .idx _ => []

/-! ### Performing -/

/-- What an access comes to. -/
inductive AccOut where
  /-- A cause; nothing of the access is performed. -/
  | trap (s : State) (x : Trap)
  /-- An integrity error has killed the team. -/
  | gone (s : State)
  /-- The store queue is full. -/
  | stall (s : State)
  /-- It waits. -/
  | wait (s : State)
  /-- Performed, but for the lanes that went to the log; a failure found while it was performed. -/
  | done (s : State) (writes : List (Nat × RegWrite)) (logged : Bool) (fail : Option Trap)

/-- The scope of a release, capped by the space: 0 none or GRP, 1 CORE, 2 wider (R260, R264). -/
def relKind (w : MWord) (sp : Space) : Nat :=
  if !w.ord.getLsbD 1 then 0
  else
    let cap := match sp with
      | .priv => 1
      | .team => 2
      | .peer => 3
      | .glb => 5
    let n := min w.scope.toNat cap
    if n < 2 then 0 else if n = 2 then 1 else 2

/-- The scope of an access's release, as R265 has it too: a relaxed store or atomic after a release fence is a release of its scope, capped by the space. -/
def Who.relKind (w : Who) (m : MWord) (sp : Space) : Nat :=
  let n := Sys2Proof.Machine.relKind m sp
  if n = 0 && m.ord == 0 then (match sp with | .priv => 0 | .team => min 1 w.G.relFence | _ => w.G.relFence) else n

/-- The byte writes of a store, in element order. -/
def storeBytes (ps : List Spot) : List (PAddr × Byte) := ps.flatMap (fun p => p.bs.zip (natBytes p.e.size p.e.data.toNat))

/-- Records a release at CORE scope by the owner of its lines (R270). -/
def Mem.setRelOwner (m : Mem) (ls : List Nat) (c stamp : Nat) : Mem :=
  { m with relOwner := ls.foldl (fun r l => spIns l (c, stamp) r) m.relOwner }

/-- Writes to scratchpads at once; a CORE-scope release by a group of the scratchpad's own core is recorded for promotion (R269, R270). -/
def State.storeScratch (s : State) (c stamp rel : Nat) (w : List (PAddr × Byte)) : State :=
  let own := ((w.filter (fun x => x.1.unit == c)).map (fun x => x.1.line)).eraseDups
  s.modMem (fun m => let m := m.store w
    if rel = 1 then m.setRelOwner own c stamp else m)

/-- A number in its place in a rising list. -/
def insNat (x : Nat) : List Nat → List Nat
  | [] => [x]
  | y :: r => if x ≤ y then x :: y :: r else y :: insNat x r

/-- Puts a store into the store queue, in a part for each 64-byte line, in the order of their addresses: what one store writes of a window's blocks is captured in offset order (R267, R326, R332). -/
def State.enqueue (s : State) (w : Who) (stamp rel : Nat) (bytes : List (PAddr × Byte)) : State :=
  let lines := ((bytes.map (fun x => x.1.line)).eraseDups).foldr insNat []
  let es : List SqEntry := lines.map (fun l =>
    { stamp := stamp, t := w.t, g := w.g, bytes := bytes.filter (fun x => x.1.line == l), red := none, stage := none, rel := rel == 2, coreRel := rel == 1 })
  (s.modCore w.c (fun k => { k with sq := k.sq ++ es })).l1Drop w.c (bytes.map (·.1))

/-- Performs the stores of a lane access (R544). In private space each element finds its lines in L1 before it is merged into them (R211); a release to peer space waits in the queue for its release work (R268). -/
def State.performStore (s : State) (w : Who) (a : Access) (ps : List Spot) : State :=
  let rel := match mWord a.instr with | some m => w.relKind m a.space | none => 0
  match a.space with
  | .priv => ps.foldl (fun s p => (storeBytes [p]).foldl (fun s x => s.l1Write w.c x.1 x.2) (s.fillPriv w .priv [p])) s
  | .glb => s.enqueue w a.stamp rel (storeBytes ps)
  | _ => if rel = 2 then s.enqueue w a.stamp rel (storeBytes ps) else s.storeScratch w.c a.stamp rel (storeBytes ps)

/-- The marks of the granule that an access reaches: as the TLB's entry has them, else as the frame table has them (R324). An entry of a 256 MiB page carries those of each of its frames (R365), for which the model asks the frame table. -/
def State.marksFor (s : State) (c asn : Nat) (va : DWord) (b : PAddr) : Marks :=
  match (if b.store == .sram then s.tlbHit c asn va false else none) with
  | some e => if e.pages = 1 then e.marksOf va else s.marks b
  | none => s.marks b

/-- The windows' and logged regions' checks on a store or atomic of a group, in the order in which R545 names those of a store (R325, R365, R445). -/
def State.markTrap (s : State) (w : Who) (k : AccKind) (ps : List Spot) : Option Trap :=
  let marks (p : Spot) : Marks := s.marksFor w.c w.T.asn p.e.addr p.at_
  let pick (f : Spot → Bool) : List Elem := (ps.filter f).map (·.e)
  let bad (c : Byte) (f : Spot → Bool) : Option Trap := if ps.any f then some (elemTrap c (pick f)) else none
  match k with
  | .load => none
  | .store =>
    (bad 0x58 (fun p => (marks p).unmapped)).or
      ((bad 0x16 (fun p => decide (p.e.size < 4) && s.additive p.at_)).or (bad 0x11 (fun p => (marks p).logged)))
  | _ =>
    (bad 0x11 (fun p => (marks p).logged)).or
      ((bad 0x5A (fun p => (marks p).tx)).or (bad 0x58 (fun p => (marks p).unmapped)))

/-- The pages of some elements. -/
def pagesFor (es : List Elem) : List Nat := (es.map (fun e => vpage e.addr)).eraseDups

/-- Is there room in the log, and in the fault table of the die for one page at least of those that take a residency fault (R80, R238)? Pages for which the table has none yet are reported before the replay. -/
def State.logRoom (s : State) (w : Who) (far : List Elem) : Bool :=
  let tab := (spFind s.mmp.faults (dieOf w.c)).getD []
  decide (w.G.log.length < 4) && (decide (tab.length < 64) || (pagesFor far).all (fun p => tab.any (fun x => x.asn == w.T.asn && x.page == p)))

/-- Logs the lanes of an access with an element in `far`, which takes a residency fault, and reports the faults (R234, R241). -/
def State.logLanes (s : State) (w : Who) (a : Access) (far : List Elem) : State :=
  if far == [] then s
  else
    let m := elemLanes far
    let e : LogEntry := { acc := { a with lanes := m, elems := a.elems.filter (fun x => inMask m x.lane) }, mask := m, pages := pagesFor far, failed := none }
    let s := s.modGroup w.t w.g (fun G => { G with log := G.log ++ [e] })
    s.postFaults w.c w.T.asn ((accKind a.instr) != .load) (pagesFor far)

/-- Do two elements name a common byte of global space? -/
def Elem.meets (a b : Elem) : Bool := decide (a.addr.toNat < b.addr.toNat + b.size) && decide (b.addr.toNat < a.addr.toNat + a.size)

/-- Is an access an acquire (R264)? -/
def Access.acquires (a : Access) : Bool := match mWord a.instr with | some m => m.ord.getLsbD 0 | none => false

/-- Must an access come behind an older one of its group in the operand log: an acquire, which happens before all that follows it (R263, R264), or a load that reads what it reads too (R262)? A RED never finds one there (R242). -/
def Group.logBefore (G : Group) (a : Access) : Bool :=
  accKind a.instr != .red && G.log.any (fun e => e.failed.isNone && decide (e.acc.stamp < a.stamp) && (e.acc.acquires || (e.acc.space == a.space &&
    e.acc.elems.any (fun x => !x.fill && a.elems.any (fun y => !y.fill && x.meets y)))))

/-- Can an access not be made since no module of an edge on its way is up: that of a walk, or of an element (R393)? -/
def State.cutFrom (s : State) (w : Who) (k : AccKind) (es : List Elem) (near : List Spot) : Bool :=
  es.any (fun e => s.coreCut w.c w.T.asn e.addr k.need.wr) || near.any (fun p => !s.reaches (dieOf w.c) p.at_.unit)

/-- Performs an access: the checks of R205, `extra` (the overlap check of atomics), translation under R241, the marks, what holds it back, then `perf` on the lanes that are resident, and the log for the others. `first` at its issue; `more` says what else holds back the resident lanes. -/
def State.access (s : State) (w : Who) (a : Access) (first : Bool) (extra : Option Trap) (more : State → List Spot → Bool)
    (perf : State → Who → List Spot → AccOut) : AccOut :=
  let k := accKind a.instr
  let es := a.elems.filter (fun e => !e.fill)
  match firstFail es (spaceChecks w a.space) with
  | some x => .trap s x
  | none =>
    match (if first then extra else none) with
    | some x => .trap s x
    | none =>
      let fs := es.map (fun e => (e, s.find w a.space k.need e))
      let c10 := foundAs fs (.cause 0x10)
      let c11 := foundAs fs (.cause 0x11)
      let far := foundAs fs .resid
      let ps := spotsOf fs
      if (foundAs fs .poisoned) != [] then .gone (s.killSpace w.T.asn)
      else if c10 != [] then .trap s (elemTrap 0x10 c10)
      else if c11 != [] then .trap s (elemTrap 0x11 c11)
      else match s.markTrap w k ps with
        | some x => .trap s x
        | none =>
          let out := elemLanes far
          let near := ps.filter (fun p => !inMask out p.e.lane)
          let prm := match mWord a.instr with | some m => m.prm && (k == .load || a.space != .glb) | none => false
          let release := match mWord a.instr with | some m => k == .atomic && a.space == .peer && w.relKind m a.space == 2 && !s.relDone w.c w.t w.g a.stamp | none => false
          if a.space == .glb && s.cutFrom w k es near then .gone (s.killTeam w.t 0x50)
          else if first && k == .store && a.space == .glb && es != [] && s.sqFull w.c then .stall s
          else if s.blocked w k a.stamp prm near || more s near || release || w.G.logBefore a || (first && s.parksFirst w k a.space es near) ||
              (far != [] && !s.logRoom w far) then
            .wait (s.warm w k.need a.space es)
          else
            match perf (s.warm w k.need a.space es) w near with
            | .done s wr _ f => .done (s.logLanes w a far) wr (far != []) f
            | o => o

/-- Does reading these spots of memory meet a mismatching line (R385)? -/
def State.readsPoison (s : State) (ps : List Spot) : Bool := s.mem.poison != [] && s.mem.poisoned (spotLines ps)

/-- The elements of an access that a performing covers: the spots, and the filled elements of lanes that did not fault. -/
def filledElems (a : Access) (ps : List Spot) : List Elem :=
  a.elems.filter (fun e => e.fill && !a.elems.any (fun f => f.lane == e.lane && !f.fill && !ps.any (fun p => p.e == f)))

/-- Performs the loads of an access: reads `num` of each spot from the lines `reads`, checks stale words, and sets out the register writes (R291, R385, R511, R515). -/
def State.performLoad (s : State) (a : Access) (pend : List Pend) (clk : Nat) (num : State → Spot → Nat) (reads : State → List Nat) (w : Who) (ps : List Spot) : AccOut :=
  let relaxed := match mWord a.instr with | some m => m.ord == 0 | none => true
  let s := s.fillPriv w a.space ps
  if s.mem.poisoned (reads s) || s.l1Bad w.c a.space ps then .gone (s.killIntegrity w.t)
  else
    let s := s.scrub (reads s)
    let raw := ps.map (fun p => (p.e, num s p))
    let decays := match a.instr with | .swld _ => true | _ => false
    let stale := if decays then (raw.filter (fun x => (stampedOf (BitVec.ofNat 64 x.2)).stale a.step)).map (·.1) else []
    let fs := if decays then factorsOf (raw.map (fun x => BitVec.ofNat 64 x.2)) else []
    if stale != [] then .trap s { cause := 0x49, names := some (elemLanes stale) }
    else if s.factorBad w.c fs then .gone (s.killIntegrity w.t)
    else
      let s := if decays then s.keepFactors w.c fs else s
      let s := s.fillSk w a.space relaxed ps
      let all := raw ++ (filledElems a ps).map (fun e => (e, e.data.toNat))
      let lat := if ps == [] then spaceLatency a.space else ps.foldl (fun m p => max m (spotLatency w a.space p)) 1
      .done s (loadWrites a.instr w.G pend clk lat (all.flatMap (fun x => loadPieces (s.factor w.c) a x.1 x.2))) false none

/-- What a group waits for after an access: the slots of an atomic that returns a value (R80), the log where lanes of a store or RED went there (R242). -/
def Access.parkAfter (a : Access) (logged : Bool) : List Park :=
  match accKind a.instr with
  | .load => []
  | .atomic => [.atomic a 0]
  | _ => if logged then [.logged] else []

/-- The effect of an access at its issue: BCD at the last cycle it occupies (R71, R94), and what it came to. The manual does not say whether an access with no active lane or no element writes BCD: the model has it write degree 1 (DESIGN CHOICE, log 67). -/
def accessEff (x : Ctx) (a : Access) (d : Nat) (out : AccOut) : Res :=
  let bcd : List (Nat × RegWrite) := [(d - 1, .bcd (bcdWord d 1))]
  match out with
  | .trap s y => .trap s y
  | .gone s => .gone s
  | .stall s => .stall s
  | .wait s => .done (s.park x.t x.g (.access a)) { writes := bcd, cycles := d }
  | .done s wr logged _ => .done ((a.parkAfter logged).foldl (fun s p => s.park x.t x.g p) s) { writes := wr ++ bcd, cycles := d }

/-- The group of an issue. -/
def Ctx.who (x : Ctx) : Who := { t := x.t, g := x.g, T := x.T, G := x.G, sh := x.sh, c := x.c }

/-- The degree of an access at its issue. -/
def Ctx.degree (x : Ctx) (s : State) (a : Access) (tile : Bool) : Nat :=
  let es := a.elems.filter (fun e => !e.fill)
  let fs := es.map (fun e => (e, s.find x.who a.space (accKind a.instr).need e))
  accDegree tile (spotsOf fs) (foundAs fs .resid)

end Sys2Proof.Machine
end

