-- ==== Sys2Proof/Machine/Undo.lean ====
section
/-! DEFINITION. Logged regions, row tags, undo entries, and the reading of a row as it stood at the start of a step (R365 to R372). -/

namespace Sys2Proof.Machine

/-- Bytes of a row, and of an undo entry (R362, R366). -/
def rowBytes : Nat := 256
def entryBytes : Nat := 320

/-- The undo area that a slice has by default: 1 MiB at the top of its die's SRAM (R366). -/
def Undo.start (slice : Nat) : Undo := { base := 2 ^ 30 - 2 ^ 27 + slice % 128 * 2 ^ 20, size := 2 ^ 20, used := [], next := 0 }

/-- The undo area of a slice of the package. -/
def State.undoOf (s : State) (slice : Nat) : Undo := (spFind s.mmp.undo slice).getD (Undo.start slice)

/-- How many entries an undo area holds (R366). -/
def Undo.slots (u : Undo) : Nat := u.size / 320

/-- The die-SRAM offset of an entry. -/
def Undo.slot (u : Undo) (k : Nat) : Nat := u.base + 320 * k

/-- The row of an address. -/
def rowOf (va : DWord) : DWord := va &&& ~~~255#64

/-- The logged region in whose pages a byte lies, and the byte's address in the region: the frame table has them, whatever address space an access comes from (R365). -/
def State.loggedRegion (s : State) (b : PAddr) : Option (Region × DWord) :=
  match s.frameAt b with
  | none => none
  | some f => (((spFind s.mmp.logged b.unit).getD []).find? (fun r =>
      r.asn == f.asn && decide (r.base.toNat ≤ (f.va b.off).toNat) && decide ((f.va b.off).toNat < r.base.toNat + r.len))).map (fun r => (r, f.va b.off))

/-- The place of the tag of a row (R365). -/
def Region.tagAt (r : Region) (die : Nat) (va : DWord) : PAddr :=
  { store := .sram, unit := die, off := r.tags + 16 * ((va.toNat - r.base.toNat) / rowBytes) }

/-- LSTEP and LPTR of a tag. -/
def State.tagStep (s : State) (a : PAddr) : Nat := s.mem.num a 8
def State.tagPtr (s : State) (a : PAddr) : Nat := s.mem.num (a.add 8) 8

/-- The place of an undo entry of a die. -/
def entryAt (die ptr : Nat) : PAddr := { store := .sram, unit := die, off := ptr }

/-- ROW, STEP and PREV of an entry, and the place of its DATA (R366). -/
def State.entryRow (s : State) (a : PAddr) : Nat := s.mem.num a 8
def State.entryStep (s : State) (a : PAddr) : Nat := s.mem.num (a.add 8) 8
def State.entryPrev (s : State) (a : PAddr) : Nat := s.mem.num (a.add 16) 8
def entryData (a : PAddr) : PAddr := a.add 64

/-- The most entries that the undo areas of a die hold. -/
def maxEntries : Nat := 128 * 52429

/-- The entries of a row's chain along PREV, newest first, from `ptr` on (R366). -/
def State.chain (s : State) (die : Nat) : Nat → Nat → List Nat
  | 0, _ => []
  | fuel + 1, ptr => if ptr = 0 then [] else ptr :: s.chain die fuel (s.entryPrev (entryAt die ptr))

/-- The undo entries of a row, newest first, where its tag names any (R365, R366). -/
def State.rowChain (s : State) (die : Nat) (tag : PAddr) : List Nat := if s.tagStep tag = 0 then [] else s.chain die maxEntries (s.tagPtr tag)

/-- The entry that a versioned read of a step takes: the oldest of the row's with STEP at or above it, where the tag holds LSTEP above it (R372). -/
def State.versionEntry (s : State) (b : PAddr) (step : DWord) : Option Nat :=
  match s.loggedRegion b with
  | none => none
  | some (r, va) =>
    if s.tagStep (r.tagAt b.unit va) ≤ step.toNat then none
    else ((s.rowChain b.unit (r.tagAt b.unit va)).filter (fun p => decide (step.toNat ≤ s.entryStep (entryAt b.unit p)))).getLast?

/-- Where a byte of global space is read as it stood at the start of a step, and whether PREV had to be followed (R372). -/
def State.versionPlace (s : State) (b : PAddr) (step : DWord) : PAddr × Bool :=
  match s.versionEntry b step, s.loggedRegion b with
  | some p, some (r, va) => ((entryData (entryAt b.unit p)).add (b.off % rowBytes), decide (s.tagPtr (r.tagAt b.unit va) ≠ p))
  | _, _ => (b, false)

/-- The lines that a versioned read of a byte consumes beside the byte's own: the row's tag, and the entries up to the one that it takes (R372, R396). -/
def State.versionLines (s : State) (b : PAddr) (step : DWord) : List Nat :=
  match s.loggedRegion b with
  | none => []
  | some (r, va) =>
    let tag := r.tagAt b.unit va
    tag.line :: (if s.tagStep tag ≤ step.toNat then [] else (s.rowChain b.unit tag).map (fun p => (entryAt b.unit p).line))

/-- The number in the bytes of a spot as they stood at the start of a step. -/
def State.versionNum (s : State) (w : Who) (step : DWord) (sk : Bool) (p : Spot) : Nat :=
  bytesNat (p.bs.map (fun b =>
    let (v, _) := s.versionPlace b step
    if v == b then s.laneByte w.c .glb (sk && p.leaf.getLsbD 5) b else s.mem.byte v))

/-- The lines of memory that a versioned read of some spots consumes. -/
def State.versionReads (s : State) (w : Who) (step : DWord) (sk : Bool) (ps : List Spot) : List Nat :=
  (ps.flatMap (fun p => p.bs.flatMap (fun b =>
    let (v, _) := s.versionPlace b step
    s.versionLines b step ++ (if v == b && (s.laneHeld w.c .glb (sk && p.leaf.getLsbD 5) b).isSome then [] else [v.line])))).eraseDups

/-- Must a versioned read follow PREV (R372)? -/
def State.versionFollows (s : State) (step : DWord) (ps : List Spot) : Bool := ps.any (fun p => (s.versionPlace p.at_ step).2)

end Sys2Proof.Machine
end

