-- ==== Sys2Proof/Machine/Records.lean ====
section
/-! DEFINITION. Tensor records: handles, the record cache, fills, HBIND, HFLUSH, HINFO (R162 to R173, R494 to R496). -/

namespace Sys2Proof.Machine

/-- The address of the record of a handle (R162). -/
def recordAddr (recbase : DWord) (h : Half) : DWord := (recbase &&& ~~~63#64) + BitVec.ofNat 64 (192 * h.toNat)

/-- Does an entry of the cache, or a fill, stand for a record? -/
def RecEntry.isFor (x : RecEntry) (asn : Nat) (a : DWord) : Bool := x.asn == asn && x.addr == a
def Fill.isFor (x : Fill) (asn : Nat) (a : DWord) : Bool := x.asn == asn && x.addr == a

/-- Is the fill still in progress? -/
def Fill.open_ (x : Fill) : Bool := x.cause.isNone && x.image.isNone

/-- Is a fill one that a party's instruction waits for or takes the outcome of: its own, or that of an HBIND of its team whose result has not been flushed (R169, R171)? -/
def Fill.serves (x : Fill) (asn : Nat) (a : DWord) (t : Nat) (p : Party) : Bool := x.isFor asn a && x.t == t && (x.by_ == some p || (x.by_.isNone && x.keep))

/-- A use of a record: its image, a fill awaited, or the cause of a fill that failed (R169, R170). -/
inductive RecUse where
  | image (s : State) (x : RecBits)
  | stall (s : State)
  | cause (s : State) (c : Byte)

/-- Starts a fill for a party of a team, or for an HBIND, unless the record is cached or such a fill is there (R171). Two things are open: whether an HBIND of a cached record is a use of it (the order of replacement stays as it is: DESIGN CHOICE, log 68), and whether an HBIND begins anew where an earlier fill has failed and no use has reported it yet (it does not: DESIGN CHOICE, log 95). -/
def State.startFill (s : State) (c asn : Nat) (a : DWord) (t : Nat) (by_ : Option Party) : State :=
  let k := s.core c
  if k.recs.any (·.isFor asn a) || k.fills.any (fun x => x.isFor asn a && x.t == t && x.by_ == by_ && x.keep) then s
  else s.setCore c { k with fills := k.fills ++ [{ asn := asn, addr := a, t := t, by_ := by_, keep := true, cause := none, image := none }] }

/-- Removes a fill. -/
def State.dropFill (s : State) (c : Nat) (x : Fill) : State := s.modCore c (fun k => { k with fills := k.fills.filter (· != x) })

/-- Uses a record through the cache of a core (R168 to R170): the cached image, else the outcome of the party's fill, which is begun where there is none. -/
def State.useRecord (s : State) (c asn : Nat) (a : DWord) (t : Nat) (p : Party) : RecUse :=
  let k := s.core c
  match k.recs.find? (·.isFor asn a) with
  | some e => .image (s.setCore c { k with
      recs := e :: k.recs.filter (fun x => !x.isFor asn a), fills := k.fills.filter (fun x => !(x.isFor asn a && x.by_ == some p)) }) e.image
  | none =>
    match k.fills.find? (·.serves asn a t p) with
    | some x =>
      (match x.cause, x.image with
        | some y, _ => .cause (s.dropFill c x) y
        | none, some r => .image (s.dropFill c x) r
        | none, none => .stall s)
    | none => .stall (s.startFill c asn a t (some p))

/-- What a fill finds at a record's address (R168, R169): a page move or a link's retrain that it waits for, a residency fault, a die out of reach, a mismatching line of the page tables, a cause, or the image. -/
inductive FillFound where
  | held
  | resid
  | cut
  | tables
  | cause (c : Byte)
  | image (x : RecBits)
  deriving DecidableEq, Repr

/-- Reads lines of an address space as an engine of a core does, through the walk-ahead TLB (R168, R232); the first cause in address order. -/
def State.engineBytes (s : State) (c asn : Nat) (a : DWord) : Nat → FillFound ⊕ List Byte
  | 0 => .inr []
  | n + 1 =>
    match s.engineBytes c asn a n with
    | .inl x => .inl x
    | .inr bs =>
      if s.engineCut c asn (a + BitVec.ofNat 64 (64 * n)) false then .inl .cut
      else match s.enginePeek c asn Need.load false (a + BitVec.ofNat 64 (64 * n)) with
      | .cause c => .inl (.cause c)
      | .poisoned => .inl .tables
      | .resid => .inl .resid
      | .ok pa _ =>
        if s.heldAt pa then .inl .held
        else if !s.reaches (dieOf c) pa.unit then .inl .cut
        else if s.training c pa.unit pa.slice then .inl .held
        else if s.mem.poisoned [pa.line] then .inl (.cause 0x50)
        else .inr (bs ++ s.mem.bytes pa 64)

/-- What a fill finds: the three lines of the record, its check and its form. -/
def State.readRecord (s : State) (c asn : Nat) (a : DWord) : FillFound :=
  match s.engineBytes c asn a 3 with
  | .inl x => x
  | .inr bs =>
    let x : RecBits := imageOf 1536 bs
    if recCheck x && recWf x then .image x else .cause 0x28

/-- The addresses of a record's lines, and the lines so far as their pages are resident. -/
def recordLines (a : DWord) : List DWord := [a, a + 64, a + 128]
def State.recordPlaces (s : State) (c asn : Nat) (a : DWord) : List Nat :=
  (recordLines a).filterMap (fun x => match s.enginePeek c asn Need.load false x with | .ok pa _ => some pa.line | _ => none)

/-- Ends a fill: the record is kept in place of the least recently used of 64, and every fill of it that is in progress ends with it; where it is not to be kept, the instruction that waits for it alone takes it (R495). A cause waits for the instruction, or for the first use (R168, R169, R171). -/
def State.endFill (s : State) (c : Nat) (x : Fill) (f : FillFound) : State :=
  match f with
  | .held | .resid => s
  | .cut => (s.dropFill c x).killTeam x.t 0x50
  | .tables => (s.dropFill c x).killSpace x.asn
  | .cause y => s.modCore c (fun k => { k with fills := k.fills.map (fun z => if z == x then { x with cause := some y } else z) })
  | .image r =>
    if !x.keep then
      (if x.by_.isNone then s.dropFill c x
      else s.modCore c (fun k => { k with fills := k.fills.map (fun z => if z == x then { x with image := some r } else z) }))
    else s.modCore c (fun k => { k with
      fills := k.fills.filter (fun y => !(y.isFor x.asn x.addr && y.keep && y.open_)),
      recs := ({ asn := x.asn, addr := x.addr, image := r } :: k.recs.filter (fun y => !y.isFor x.asn x.addr)).take 64 })

/-- RECORD_FILL (R168), of the oldest fill of a record that is in progress. A residency fault is posted to the MMP, once its table has room, and the fill goes on when it has been serviced (R169, R238). -/
def execRecordFill (core asn : Nat) (addr : DWord) (s : State) : Host.Outcome State Fault Refusal :=
  event s (
    match (s.core core).fills.find? (fun x => x.isFor asn addr && x.open_) with
    | none => none
    | some x =>
      match s.readRecord core asn addr with
      | .held => none
      | .resid =>
        let pages := (recordLines addr).filter (fun a => s.enginePeek core asn Need.load false a == .resid)
        some (s.postFaults core asn false (pages.map vpage))
      | f =>
        let s := s.scrub (s.recordPlaces core asn addr)
        let s := (recordLines addr).foldl (fun s a => (s.engineTranslate core asn Need.load false a).1) s
        some (s.endFill core x f))

/-- The layout register of a group as an instruction reads it. -/
def Ctx.layout (x : Ctx) (s : State) (r : Nat) : LayBits := early s.ctl.draws (53000 + r) (spGet 0 x.G.l r) (lateL x.run.pend r)

/-- The handle register of a group as an instruction reads it. -/
def Ctx.handle (x : Ctx) (s : State) (r : Nat) : Half := early s.ctl.draws (54000 + r) (spGet 0 x.G.h r) (lateH x.run.pend r)

/-- The cause of a failed fill: a mismatching line kills the team, any other is the instruction's (R169, R385). -/
def recCause (t : Nat) (s : State) (c : Byte) : Res := if c == 0x50 then .gone (s.killIntegrity t) else .trap s { cause := c }

/-- The handle that an HBIND names; none where S bits 31:16 are not zero or an immediate is negative (R171). -/
def hbindHandle (w : RIWord) (e : Env) : Option Half :=
  let v := if w.isImm then w.imm else e.src w.a 0
  if v.toNat < 65536 then some (v.setWidth 16) else none

/-- HBIND of a group. -/
def hbindGroup (w : RIWord) (x : Ctx) (s : State) : Res :=
  match hbindHandle w x.env with
  | none => .trap s { cause := 0x02 }
  | some h => .done (s.startFill x.c x.T.asn (recordAddr x.T.recbase h) x.t none) { writes := [(1, .h (dstNum w.d) h)] }

/-- HBIND of a sequencer. -/
def hbindSeq (w : RIWord) (x : SeqCtx) (s : State) : Res :=
  match hbindHandle w x.env with
  | none => .trap s { cause := 0x02 }
  | some h => .done (s.startFill x.sh.core x.T.asn (recordAddr x.T.recbase h) x.t none) { writes := [(1, .h (dstNum w.d) h)] }

/-- HBIND (R171, R494). -/
def execHbind (w : RIWord) (s : State) : Host.Outcome State Fault Refusal := issue (.hbind w) s (hbindGroup w) (hbindSeq w) noBody

/-- The cores within a scope of a core (R258). -/
def inScope (scope c k : Nat) : Bool :=
  match scope with
  | 0 | 1 | 2 => c == k
  | 3 => c / 16 == k / 16
  | 4 => dieOf c == dieOf k
  | _ => true

/-- What an HFLUSH does to a core in its scope (R495): the record leaves the cache; a fill of it that is in progress there completes for the instruction that waits for it and is not kept, be it on another core or on this one, and neither is what an HBIND's fill has come to (log 30). -/
def Core.flushRec (k : Core) (asn : Nat) (a : DWord) : Core :=
  { k with
    recs := k.recs.filter (fun y => !y.isFor asn a),
    fills := (k.fills.filter (fun y => !(y.isFor asn a && y.by_.isNone && !y.open_))).map (fun y => if y.isFor asn a then { y with keep := false } else y) }

/-- HFLUSH (R171, R172, R495): held until the release work of R268 is done, at CORE scope too, since the core's own fills read memory (log 69). -/
def execHflush (w : RIWord) (s : State) : Host.Outcome State Fault Refusal :=
  issueG (.hflush w) s (fun x s =>
    if !s.relDone x.c x.t x.g (s.ctl.stamp + 1) then .stall s
    else
      let a := recordAddr x.T.recbase (x.handle s (srcNum w.a))
      .done { s with cores := s.cores.map (fun k => if inScope w.var.toNat x.c k.1 then
        (k.1, k.2.flushRec x.T.asn a) else k) } {})

/-- HINFO (R171, R496). -/
def execHinfo (w : RIWord) (s : State) : Host.Outcome State Fault Refusal :=
  issueG (.hinfo w) s (fun x s =>
    let f := (x.env.src w.b 0).toNat
    if 47 < f then .trap s { cause := 0x02 }
    else match s.useRecord x.c x.T.asn (recordAddr x.T.recbase (x.handle s (srcNum w.a))) x.t (.group x.t x.g) with
      | .image s r => .done s { writes := destWrites w.d false 4 x.ex (laneList.map (fun _ => BitVec.ofNat 64 (recNum r (4 * f) 4))) }
      | .stall s => .stall s
      | .cause s c => recCause x.t s c)

end Sys2Proof.Machine
end

