-- ==== Sys2Proof/Machine/LoadStore.lean ====
section
/-! DEFINITION. LD, LDV, LDT, ST, STT and SWLD, of groups and of slice threads (R291, R358, R360, R372, R509 to R516, R543 to R547). -/

namespace Sys2Proof.Machine

/-! ### Groups -/

/-- A plain element of an access of `n` bytes. -/
def plainElem (l : Nat) (a : DWord) (n : Nat) (d d2 : DWord) : Elem :=
  { lane := l, addr := a, size := n, reg := 0, sh := 0, data := d, data2 := d2, fill := false }

/-- The lanes that a load serves: with an S destination only the lowest (R510). -/
def loadLanes (w : MWord) (ex : Lanes) : List Nat :=
  match w.d with
  | .s _ => (lanesOf ex).take 1
  | _ => lanesOf ex

/-- The access of an LD, LDV or SWLD word. -/
def loadAccess (w : MWord) (x : Ctx) (s : State) (step : DWord) : Access :=
  let sp := spaceOf w.space
  { instr := x.i, pc := x.pc, ex := x.ex, space := sp, lanes := x.ex, regs := 0, stamp := s.ctl.stamp, step := step,
    elems := (loadLanes w x.ex).map (fun l => plainElem l (inSpace sp (x.env.addr w l)) (typeBits w.t / 8) 0 0) }

/-- How the loads of an access read: as lanes do, or for LDV as of its step. -/
def Access.num (a : Access) (w : Who) (s : State) (p : Spot) : Nat :=
  let sk := match mWord a.instr with | some m => m.ord == 0 | none => true
  match a.instr with
  | .ldv _ => s.versionNum w a.step sk p
  | _ => s.laneNum w.c a.space sk p

/-- The lines of memory that the loads of an access consume (R396). -/
def Access.reads (a : Access) (w : Who) (ps : List Spot) (s : State) : List Nat :=
  let sk := match mWord a.instr with | some m => m.ord == 0 | none => true
  match a.instr with
  | .ldv _ => s.versionReads w a.step sk ps
  | _ => s.laneReads w.c a.space sk ps

/-- Performs a load or a store; at its issue an LDV that must follow PREV waits (R372). -/
def Access.perform (a : Access) (first : Bool) (pend : List Pend) (clk : Nat) (s : State) (w : Who) (ps : List Spot) : AccOut :=
  match a.instr with
  | .st _ | .stt _ => .done (s.performStore w a ps) [] false none
  | .ldv _ => if first && s.versionFollows a.step ps then .wait s else s.performLoad a pend clk (fun s p => a.num w s p) (a.reads w ps) w ps
  | _ => s.performLoad a pend clk (fun s p => a.num w s p) (a.reads w ps) w ps

/-- Nothing but what holds back every access holds this one back. -/
def noMore (_ : State) (_ : List Spot) : Bool := false

/-- Issues an access of a group that no atomic makes. -/
def issueAccess (x : Ctx) (s : State) (a : Access) (tile : Bool) : Res :=
  accessEff x a (x.degree s a tile) (s.access x.who a true none noMore (a.perform true x.run.pend x.run.clk))

/-- LD, LDV or SWLD of a group. -/
def loadGroup (w : MWord) (step : Ctx → State → DWord) (x : Ctx) (s : State) : Res :=
  let s := s.bumpStamp
  issueAccess x s (loadAccess w x s (step x s)) false

/-- The access of an ST word: the active lanes, each with its datum (R544). -/
def storeAccess (w : MWord) (x : Ctx) (s : State) : Access :=
  let sp := spaceOf w.space
  let act := activeLanes x.env w.hdr.guard x.ex
  { instr := x.i, pc := x.pc, ex := x.ex, space := sp, lanes := act, regs := 0, stamp := s.ctl.stamp, step := 0,
    elems := (lanesOf act).map (fun l => plainElem l (inSpace sp (x.env.addr w l)) (typeBits w.t / 8) (x.env.srcT (wideType w.t) w.b l) 0) }

/-- ST of a group (R544). -/
def storeGroup (w : MWord) (x : Ctx) (s : State) : Res :=
  let s := s.bumpStamp
  issueAccess x s (storeAccess w x s) false

/-! ### Tiles (R515, R544) -/

/-- The register offset and the lowest bit of element `i` of a tile of `e`-byte elements (R515). -/
def tileSlot (e i : Nat) : Nat × Nat :=
  if e = 8 then (2 * (i / 16), 0)
  else (i / (16 * (4 / e)), 8 * e * (i / 16 % (4 / e)))

/-- The value of a tile's element in the registers of a store. -/
def tileDatum (v : Nat → Nat → Word) (first e i : Nat) : DWord :=
  let (r, sh) := tileSlot e i
  let l := i % 16
  if e = 8 then v (first + r + 1) l ++ v (first + r) l
  else BitVec.ofNat 64 ((v (first + r) l).toNat / 2 ^ sh % 2 ^ (8 * e))

/-- The layout, view and base address of a tile's side, once its record is read. -/
structure TileView where
  L : Layout
  V : View
  base : DWord
  ok : Bool
  cause : Byte
  hole : Bool

/-- The space that a record's SPACE names for lanes; none for main memory (R436). -/
def laneSpace (n : Nat) : Option Space :=
  match n with
  | 0 => some .glb
  | 2 => some .team
  | 3 => some .peer
  | _ => none

/-- The tile view of team space (SEL 0). -/
def teamTile (len : Nat) (bits : Nat) (y : LayBits) : TileView :=
  let L := layoutOf y
  { L := L, V := linearView len (max 1 (eszBits L.esz)), base := 0, ok := L.kind == 1 && eszBits L.esz == bits, cause := 0x14, hole := false }

/-- The tile view of a record (SEL 1). -/
def recordTile (bits : Nat) (y : LayBits) (r : TRec) : TileView :=
  let L := layoutOf y
  { L := L, V := r.view (codeBits r.fmt), base := r.baseOf L 0, ok := L.kind == 0 && codeBits r.fmt == bits && r.okFor 0 L false, cause := 0x10, hole := r.dieHole L }

/-- The elements of a tile in lanes of `act`, with their places in the layout. -/
def tileElems (v : TileView) (sp : Space) (e : Nat) (act : Lanes) (dat : Nat → DWord) (load : Bool) : List (Elem × Pos) :=
  ((upFrom 0 v.L.size).filter (fun i => inMask act (i % 16))).filterMap (fun i =>
    let p := v.L.pos v.V i
    let (r, sh) := tileSlot e i
    if p.inb then some ({ lane := i % 16, addr := inSpace sp (v.base + BitVec.ofInt 64 p.off), size := e, reg := r, sh := sh, data := dat i, data2 := 0, fill := false }, p)
    else if load then some ({ lane := i % 16, addr := 0, size := e, reg := r, sh := sh, data := v.V.fill, data2 := 0, fill := true }, p)
    else none)

/-- The checks of a tile access between acceptance and translation (R516, step 4). -/
def tileCheck (x : Ctx) (sp : Space) (v : TileView) (es : List (Elem × Pos)) : Option Trap :=
  let real := es.filter (fun y => !y.1.fill)
  let mis := (real.filter (fun y => y.1.misaligned || !v.V.aligned y.2)).map (·.1)
  if mis != [] then some (elemTrap 0x16 mis)
  else (firstFail (real.map (·.1)) (spaceChecks x.who sp).dropLast).or
    (if !v.V.clip && !v.L.within v.V none then some { cause := v.cause } else if v.hole then some { cause := 0x10 } else none)

/-- The access of an LDT or STT word with its elements; it covers `n` registers. -/
def tileAccess (w : MWord) (n : Nat) (act : Lanes) (x : Ctx) (s : State) (es : List Elem) : Access :=
  { instr := x.i, pc := x.pc, ex := x.ex, space := spaceOf w.space, lanes := act, regs := n, stamp := s.ctl.stamp, step := 0, elems := es }

/-- An instruction that is held in its slot has no effect: `s` is the state before it (R86). -/
def Res.orHold (r : Res) (s : State) : Res :=
  match r with
  | .stall _ => .stall s
  | r => r

/-- LDT or STT of a group once its record is read. LST is written unless the access is held in its slot (R124, R253). -/
def tileIssue (w : MWord) (first : Nat) (act : Lanes) (load : Bool) (x : Ctx) (s : State) (v : TileView) : Res :=
  let sp := spaceOf w.space
  let e := typeBits w.t / 8
  let acc := classify 0 0 v.L v.V v.ok
  let s0 := s
  let s := s.modGroup x.t x.g (fun G => G.write (.lst (lstWord acc 0)))
  if acc.cls = 2 then .trap s { cause := 0x20 }
  else
    let es := tileElems v sp e act (fun i => if load then 0 else tileDatum x.env.v first e i) load
    match tileCheck x sp v es with
    | some t => .trap s t
    | none =>
      let s := s.bumpStamp
      (issueAccess x s (tileAccess w (ceilDiv (v.L.size * e) 64) act x s (es.map (·.1))) true).orHold s0

/-- LDT or STT of a group (R516): its fields, its record, then the rest. -/
def tileGroup (w : MWord) (load : Bool) (x : Ctx) (s : State) : Res :=
  match w.b with
  | .idx i =>
    let d := sideOf i
    let y := x.layout s d.lay.toNat
    let e := typeBits w.t / 8
    let n := (layoutOf y).size
    let first := if load then dstNum w.d else srcNum w.c
    let act := if load then x.ex else activeLanes x.env w.hdr.guard x.ex
    let b := x.T.launch.budget x.G.role
    if 4096 < n * e ∨ b.1 < first + ceilDiv (n * e) 64 then .trap s { cause := 0x02 }
    else if d.sel = 0 then tileIssue w first act load x s (teamTile x.sh.scratchLen (typeBits w.t) y)
    else match s.useRecord x.c x.T.asn (recordAddr x.T.recbase (x.handle s d.num.toNat)) x.t (.group x.t x.g) with
      | .stall s => .stall s
      | .cause s c => recCause x.t s c
      | .image s r =>
        if laneSpace (recOf r).space != some (spaceOf w.space) then .trap s { cause := 0x20 }
        else tileIssue w first act load x s (recordTile (typeBits w.t) y (recOf r))
  | _ => .trap s { cause := 0x02 }

/-! ### Slice threads (R358 to R361) -/

/-- Is a page one that a slice thread of die `d` reaches: present and resident there, and not backed by the host (R360)? -/
def leafNear (d : Nat) (w : DWord) : Bool := leafPresent w && homeBit w && !hostBit w && hdie w == d

/-- The place of a byte that a slice thread reaches: in a resident page of its own die, cause 0x10 where it has none there, and then 0x11 where the page does not grant the access (R229, R360). -/
def State.threadPlace (s : State) (th : Thread) (n : Need) (a : DWord) : Byte ⊕ PAddr :=
  match s.walk th.asn a with
  | .cause c => .inl c
  | .poisoned => .inl 0x50
  | .leaf _ w big => if !leafNear (th.slice / 128) w then .inl 0x10 else if !leafGrants n w then .inl 0x11 else .inr (placeOf w big a)

/-- The places of a thread's elements, or the first cause: 0x10 before 0x11 (R229). -/
def State.threadSpots (s : State) (th : Thread) (n : Need) (es : List Elem) : Byte ⊕ List Spot :=
  let fs := es.map (fun e => (e, s.threadPlace th n e.addr))
  let has (c : Byte) : Bool := fs.any (fun x => match x.2 with | .inl y => y == c | _ => false)
  if es.any Elem.misaligned then .inl 0x16
  else if has 0x50 then .inl 0x50
  else if has 0x10 then .inl 0x10
  else if has 0x11 then .inl 0x11
  else .inr (fs.filterMap (fun x => match x.2 with
    | .inr pa => some { e := x.1, bs := (upFrom 0 x.1.size).map pa.add, leaf := 0 }
    | _ => none))

/-- Must a thread's access wait: a line of it is owned by a copy engine or held by a page move (R221, R239)? -/
def State.threadHeld (s : State) (ps : List Spot) : Bool := ps.any (fun p => p.bs.any (fun b => s.ownedAt b || s.heldAt b))

/-- The walks of a thread's elements, which no TLB serves (R230). -/
def State.threadTouch (s : State) (th : Thread) (es : List Elem) (write : Bool) : State := es.foldl (fun s e => s.touch th.asn e.addr write) s

/-- A thread's lanes whose guard is true. -/
def ThCtx.active (x : ThCtx) (g : BitVec 4) : Lanes := activeLanes x.env g 0xFFFF

/-- A group that stands for a thread where registers are written. -/
def threadGroup (th : Thread) : Group :=
  { gid := th.num, role := .vector, prio := 0, priv := true, core := 0, place := .retired,
    lanes := laneList.map (fun l => { Lane.start th.pc with v := th.v.map (fun x => (x.1, nth 0 x.2 l)) }),
    s := [], m := [], l := [], h := [], xs := [], xprev := [], slots := [], relFence := 0, counted := false, untested := [], log := [], lst := 0, bcd := 0, cause := 0, epc := 0, eaddr := 0, elanes := 0,
    inHandler := false, frame := none, causes := [], run := none, parks := [], ready := false, qwait := 0, lastIssue := none, since := 0, privBase := 0 }

/-- LD or SWLD of a slice thread. -/
def loadThread (w : MWord) (x : ThCtx) (s : State) : Res :=
  let es := laneList.map (fun l => plainElem l (x.env.addr w l) (typeBits w.t / 8) 0 0)
  match s.threadSpots x.th Need.load es with
  | .inl c => .trap s { cause := c }
  | .inr ps =>
    if s.threadHeld ps then .stall s
    else if s.readsPoison ps then .trap s { cause := 0x50 }
    else
      let s := (s.threadTouch x.th es false).scrub (spotLines ps)
      let a : Access := { instr := x.i, pc := x.th.pc, ex := 0xFFFF, space := .glb, lanes := 0xFFFF, elems := es, regs := 0, step := s.pkg.gstep, stamp := 0 }
      let raw := ps.map (fun p => (p.e, bytesNat (p.bs.map s.mem.byte)))
      let decays := match x.i with | .swld _ => true | _ => false
      if decays && raw.any (fun y => (stampedOf (BitVec.ofNat 64 y.2)).stale s.pkg.gstep) then .trap s { cause := 0x49 }
      else
        let ex := sliceExec x.th.slice
        let fs := if decays then factorsOf (raw.map (fun y => BitVec.ofNat 64 y.2)) else []
        if s.factorBad ex fs then .trap s { cause := 0x50 }
        else
        let s := if decays then s.keepFactors ex fs else s
        .done s { writes := loadWrites x.i (threadGroup x.th) [] 0 0 (raw.flatMap (fun y => loadPieces (s.factor ex) a y.1 y.2)) }

/-- Writes bytes at a slice, line by line, capturing what lies in TX granules (R326, R329). -/
def State.sliceWrite (s : State) (w : List (PAddr × Byte)) : State :=
  ((w.map (fun x => x.1.line)).eraseDups).foldl (fun s l => s.writeLine (w.filter (fun x => x.1.line == l))) s

/-- ST of a slice thread (R325, R365). -/
def storeThread (w : MWord) (x : ThCtx) (s : State) : Res :=
  let es := (lanesOf (x.active w.hdr.guard)).map (fun l => plainElem l (x.env.addr w l) (typeBits w.t / 8) (x.env.srcT (wideType w.t) w.b l) 0)
  match s.threadSpots x.th Need.store es with
  | .inl c => .trap s { cause := c }
  | .inr ps =>
    if ps.any (fun p => (s.marks p.at_).unmapped) then .trap s { cause := 0x58 }
    else if ps.any (fun p => decide (p.e.size < 4) && s.additive p.at_) then .trap s { cause := 0x16 }
    else if ps.any (fun p => (s.loggedRegion p.at_).isSome) then .trap s { cause := 0x4A }
    else if s.threadHeld ps then .stall s
    else .done ((s.threadTouch x.th es true).sliceWrite (storeBytes ps)) {}

/-! ### The instructions -/

/-- LD (R509 to R513). -/
def execLd (w : MWord) (s : State) : Host.Outcome State Fault Refusal := issue (.ld w) s (loadGroup w (fun _ _ => 0)) noBody (loadThread w)

/-- LDV (R372, R509 to R513). -/
def execLdv (w : MWord) (s : State) : Host.Outcome State Fault Refusal := issueG (.ldv w) s (loadGroup w (fun x _ => x.env.src64 w.c 0))

/-- LDT (R514 to R516). -/
def execLdt (w : MWord) (s : State) : Host.Outcome State Fault Refusal := issueG (.ldt w) s (tileGroup w true)

/-- ST (R543 to R545). -/
def execSt (w : MWord) (s : State) : Host.Outcome State Fault Refusal := issue (.st w) s (storeGroup w) noBody (storeThread w)

/-- STT (R543 to R545). -/
def execStt (w : MWord) (s : State) : Host.Outcome State Fault Refusal := issueG (.stt w) s (tileGroup w false)

/-- SWLD (R291, R547). -/
def execSwld (w : MWord) (s : State) : Host.Outcome State Fault Refusal :=
  issue (.swld w) s (loadGroup w (fun x s => s.stepOf x.c)) noBody (loadThread w)

/-- SWLD_RAW (R291, R547). -/
def execSwldRaw (w : MWord) (s : State) : Host.Outcome State Fault Refusal :=
  issue (.swldRaw w) s (loadGroup w (fun x s => s.stepOf x.c)) noBody (loadThread w)

end Sys2Proof.Machine
end

