-- ==== Sys2Proof/Machine/Atomics.lean ====
section
/-! DEFINITION. Atomics at memory, RED, SWADD, ENQ and DEQ (R264, R275 to R283, R294, R442 to R446, R475 to R478, R541, R547). -/

namespace Sys2Proof.Machine

/-! ### What an atomic does to its location -/

/-- The smaller or larger of two codes of an integer type (R444). -/
def intMinMax (t : BitVec 5) (max_ : Bool) (a b : Nat) : Nat :=
  let n := typeBits t
  let v (x : Nat) : Int := if isSignedT t then signedOf n x else x
  if v a < v b then (if max_ then b else a) else (if max_ then a else b)

/-- The new value of an integer or float operation (R444). -/
def atomValue (k : AtomKind) (t : BitVec 5) (old x : Nat) : Nat :=
  let n := typeBits t
  match k with
  | .add => (old + x) % 2 ^ n
  | .min => intMinMax t false old x
  | .max => intMinMax t true old x
  | .and => old &&& x
  | .or => old ||| x
  | .xor => old ^^^ x
  | .exch => x
  | .fadd => faddBits (fmtT t) .rne false false old x
  | .fmin => fminmaxBits (fmtT t) false false old x
  | .fmax => fminmaxBits (fmtT t) false true old x
  | _ => old

/-- What an atomic on one word comes to: the word to write, if any, and the reply. -/
structure AtomOut where
  new : Option Nat
  done : AtomDone

/-- An atomic on one word of `old` value; `F` is the executor's factor table and `step` its observation of GSTEP (R294, R444). -/
def atomWord (k : AtomKind) (t : BitVec 5) (F : Nat → Nat → Nat) (step : DWord) (old : Nat) (x y : DWord) : AtomOut :=
  let m := 2 ^ typeBits t
  match k with
  | .cas => { new := if old = x.toNat % m then some (y.toNat % m) else none, done := .value (BitVec.ofNat 64 old) 0 }
  | .swadd =>
    let w := stampedOf (BitVec.ofNat 64 old)
    let f := y.toNat % 256
    if w.sv && w.factor != f then { new := none, done := .failed 0x48 }
    else if w.stale step then { new := none, done := .failed 0x49 }
    else
      let p := if w.sv then decayPow (F f) (w.elapsed step) else 0x3F800000
      let v := fmaBits fmt32 .rne false false w.value p (x.toNat % 2 ^ 32)
      { new := some (Stamped.word { value := v, stamp := fldN step 0 16, factor := f, sv := true }).toNat, done := .value (BitVec.ofNat 64 old) 0 }
  | _ => { new := some (atomValue k t old (x.toNat % m)), done := .value (BitVec.ofNat 64 old) 0 }

/-! ### Ring control blocks (R281 to R283) -/

/-- The fields of a ring control block. -/
structure Ring where
  head : Nat
  tail : Nat
  cap : Nat
  esz : Nat
  base : DWord
  zeros : Bool

/-- Reads a block. -/
def Mem.ring (m : Mem) (a : PAddr) : Ring :=
  { head := m.num a 8, tail := m.num (a.add 8) 8, cap := m.num (a.add 16) 4, esz := m.num (a.add 20) 1,
    base := BitVec.ofNat 64 (m.num (a.add 24) 8), zeros := m.num (a.add 21) 3 == 0 && m.num (a.add 32) 32 == 0 }

/-- Are the fields of a block those that R283 asks for, with elements of `n` bytes? -/
def Ring.ok (r : Ring) (n : Nat) : Bool := r.cap != 0 && (r.esz == 4 || r.esz == 8) && r.esz == n && r.base.toNat % r.esz == 0 && r.zeros

/-- The address of the slot that an ENQ or DEQ touches; none if it touches none (R282). -/
def Ring.slot (r : Ring) (enq : Bool) : Option DWord :=
  let n := (r.tail + 2 ^ 64 - r.head) % 2 ^ 64
  if enq then (if n = r.cap then none else some (r.base + BitVec.ofNat 64 (r.tail % r.cap * r.esz)))
  else if n = 0 then none else some (r.base + BitVec.ofNat 64 (r.head % r.cap * r.esz))

/-- A ring slot as its executor finds it (R283). -/
inductive SlotAt where
  | failed (c : Byte)
  | tables
  | resid
  | place (a : PAddr)
  deriving DecidableEq, Repr

/-- The slot of a block in team space. -/
def teamSlot (x : Share) (n : Nat) (a : DWord) : SlotAt :=
  if a.toNat + n ≤ x.scratchLen then .place (x.place a.toNat) else .failed 0x14

/-- The slot of a block in global space. -/
def State.globalSlot (s : State) (asn : Nat) (a : DWord) : SlotAt :=
  match s.translate asn Need.atomic false a with
  | .cause c => .failed c
  | .poisoned => .tables
  | .resid => .resid
  | .ok pa _ =>
    let m := s.marks pa
    if m.logged then .failed 0x11 else if m.unmapped then .failed 0x58 else if m.tx then .failed 0x5A else .place pa

/-- The address of the slot that an ENQ or DEQ on a block touches, where its fields are such that it touches one. -/
def Mem.slotVa (m : Mem) (a : PAddr) (enq : Bool) (n : Nat) : Option DWord := if (m.ring a).ok n then (m.ring a).slot enq else none

/-- One ENQ or DEQ on a block at a place (R282, R283). The element that a DEQ reads is checked (R385, R396). -/
def State.ringStep (s : State) (enq : Bool) (n : Nat) (a : PAddr) (x : DWord) (slot : DWord → SlotAt) : State × AtomDone :=
  let r := s.mem.ring a
  if !r.ok n then (s, .failed 0x02)
  else match r.slot enq with
    | none => (s, .noChange (if enq then 1 else 2))
    | some va =>
      match slot va with
      | .failed c => (s, .failed c)
      | .tables => (s, .failed 0x50)
      | .resid => (s, .residency)
      | .place p =>
        if !enq && s.mem.poisoned [p.line] then (s, .failed 0x50)
        else
        let s := s.scrub [p.line]
        if enq then
          (s.modMem (fun m => (m.store (numBytes p n (x.toNat % 256 ^ n))).store (numBytes (a.add 8) 8 ((r.tail + 1) % 2 ^ 64))), .value 0 0)
        else
          (s.modMem (fun m => m.store (numBytes a 8 ((r.head + 1) % 2 ^ 64))), .value (BitVec.ofNat 64 (s.mem.num p n)) 0)

/-! ### Requests -/

/-- What the opcode and operation of a word do (R436). -/
def atomKindOf (i : Instr) (w : MWord) : AtomKind :=
  let ints : List AtomKind := [.add, .min, .max, .and, .or, .xor, .exch]
  let floats : List AtomKind := [.fadd, .fmin, .fmax]
  match (formOf i).op with
  | 0x79 => nth .fadd floats w.op.toNat
  | 0x7A => .cas
  | 0x7B => if isFloatT w.t then nth .fadd floats w.op.toNat else nth .add ints w.op.toNat
  | 0x7C => .swadd
  | 0x7D => .enq
  | 0x7E => .deq
  | _ => nth .add ints w.op.toNat

/-- The bytes of an access of an atomic: a ring block, a stamped word, or the type's. A lane of an ENQ or DEQ names its block; that it counts towards the degree with the 64 bytes of the block, and not with the slot that its executor touches, is the model's choice (DESIGN CHOICE, log 70). -/
def atomSize (k : AtomKind) (t : BitVec 5) : Nat := if k == .enq || k == .deq then 64 else typeBits t / 8

/-- The request of one lane. -/
def atomReq (w : Who) (a : Access) (m : MWord) (k : AtomKind) (p : Spot) : AtomReq :=
  { kind := k, ty := m.t, space := a.space, va := p.e.addr, pa := p.at_, x := p.e.data, y := p.e.data2, asn := w.T.asn,
    t := w.t, g := w.g, lane := p.e.lane, reply := accKind a.instr != .red, stamp := a.stamp, core := w.c, coreRel := w.relKind m a.space == 1, prm := m.prm }

/-- Has an atomic with this answer written its location (R270)? -/
def AtomReq.wrote (r : AtomReq) (d : AtomDone) : Bool :=
  match d with
  | .value v _ => r.kind != .cas || v.toNat == r.x.toNat % 2 ^ typeBits r.ty
  | _ => false

/-- Performs one atomic on a word or block of a scratchpad or of die SRAM. `ex` names the executor's factor table, `step` is the GSTEP that it observes. -/
def State.atomAt (s : State) (ex : Nat) (step : DWord) (r : AtomReq) (slot : DWord → SlotAt) : State × AtomDone :=
  let n := typeBits r.ty / 8
  if r.kind == .enq || r.kind == .deq then s.ringStep (r.kind == .enq) n r.pa r.x slot
  else if r.kind == .swadd && s.factorBad ex [r.y.toNat % 256] then (s.killIntegrity r.t, .failed 0x50)
  else
    let s := if r.kind == .swadd then s.keepFactors ex [r.y.toNat % 256] else s
    let o := atomWord r.kind r.ty (s.factor ex) step (s.mem.num r.pa n) r.x r.y
    match o.new with
    | some v => (s.modMem (fun m => m.store (numBytes r.pa n v)), o.done)
    | none => (s, o.done)

/-- Performs one atomic in private space, on the lines in L1 (R275). -/
def State.atomPriv (s : State) (w : Who) (r : AtomReq) (p : Spot) : State × AtomDone :=
  if r.kind == .swadd && s.factorBad w.c [r.y.toNat % 256] then (s.killIntegrity r.t, .failed 0x50)
  else
    let s := if r.kind == .swadd then s.keepFactors w.c [r.y.toNat % 256] else s
    let o := atomWord r.kind r.ty (s.factor w.c) (s.stepOf w.c) (s.laneNum w.c .priv false p) r.x r.y
    match o.new with
    | some v => ((p.bs.zip (natBytes p.e.size v)).foldl (fun s x => s.l1Write w.c x.1 x.2) s, o.done)
    | none => (s, o.done)

/-- Performs the atomic of one lane in private space: the lane finds its lines in L1 before it is merged into them (R211). -/
def State.privLane (s : State) (w : Who) (a : Access) (m : MWord) (k : AtomKind) (p : Spot) : State :=
  let (s, d) := (s.fillPriv w .priv [p]).atomPriv w (atomReq w a m k p) p
  if accKind a.instr == .red then s else s.fillSlot w.t w.g p.e.lane d

/-- Records an atomic that has written as a release at CORE scope, for promotion: in die SRAM, or in its core's own scratchpad (R269, R270). -/
def State.recordRel (s : State) (r : AtomReq) (d : AtomDone) : State :=
  if r.coreRel && r.wrote d && (r.pa.store != .scratch || r.pa.unit == r.core) then s.modMem (fun m => m.setRelOwner [r.pa.line] r.core r.stamp) else s

/-- Performs an atomic on a scratchpad, on the core that has it (R275). -/
def State.atomScratch (s : State) (r : AtomReq) (slot : DWord → SlotAt) : State × AtomDone :=
  let (s, d) := s.atomAt r.pa.unit (s.stepOf r.pa.unit) r slot
  (s.recordRel r d, d)

/-- Performs the atomic of one lane on a scratchpad. -/
def State.scratchLane (s : State) (w : Who) (a : Access) (m : MWord) (k : AtomKind) (p : Spot) : State :=
  let (s, d) := s.atomScratch (atomReq w a m k p) (teamSlot w.sh (typeBits m.t / 8))
  if accKind a.instr == .red then s else s.fillSlot w.t w.g p.e.lane d

/-- Must a RED to a scratchpad wait in its core's queue: it releases more widely than its core, or a write that it must follow is still on its way (R262, R263, R268, R280)? -/
def State.redWaits (s : State) (w : Who) (a : Access) (rel : Nat) (ps : List Spot) : Bool :=
  accKind a.instr == .red && (rel == 2 || ps.any (fun p => p.bs.any (fun b => s.ownWaits w a.stamp false b)))

/-- Is a queue's entry a request to a service group of another die? -/
def SqEntry.farAsk (e : SqEntry) : Bool := match e.red with | some r => r.far && !e.scratch | none => false

/-- An entry takes its place in a queue: the end; a request to another die, which may have been parked, stands before those of later instructions (R561). -/
def queueEntry (q : List SqEntry) (e : SqEntry) : List SqEntry :=
  let before (o : SqEntry) : Bool := !(e.farAsk && o.farAsk && decide (e.stamp < o.stamp))
  q.takeWhile before ++ e :: q.dropWhile before

/-- The entries of an access take their places in a queue, in lane order. -/
def queueAll (q es : List SqEntry) : List SqEntry := es.foldl queueEntry q

/-- Performs the atomics of an access on its resident lanes, in lane order: at once in private, team and peer space, but for a RED that has to wait in the core's queue; by requests through that queue to the service groups in global space (R275, R280). -/
def State.performAtomic (s : State) (a : Access) (w : Who) (ps : List Spot) : AccOut :=
  match mWord a.instr with
  | none => .done s [] false none
  | some m =>
    let k := atomKindOf a.instr m
    let rel := w.relKind m a.space
    let es : List SqEntry := ps.map (fun p => { stamp := a.stamp, t := w.t, g := w.g, bytes := [], red := some (atomReq w a m k p), stage := none, rel := rel == 2, coreRel := rel == 1 })
    let queued := (s.modCore w.c (fun c => { c with sq := queueAll c.sq es })).l1Drop w.c (ps.map Spot.at_)
    let s' := s.fillPriv w a.space ps
    if (match a.space with | .glb => false | .priv => s'.l1Bad w.c .priv ps | _ => s.readsPoison ps) then .gone (s'.killIntegrity w.t)
    else match a.space with
      | .glb => .done queued [] false none
      | .priv => .done (ps.foldl (fun s p => s.privLane w a m k p) s) [] false none
      | _ =>
        if s.redWaits w a rel ps then .done queued [] false none
        else .done (ps.foldl (fun s p => s.scratchLane w a m k p) (s.scrub (spotLines ps))) [] false none

/-- Is the slot of a block in team space in an absent line? -/
def State.slotGone (s : State) (w : Who) (st : Nat) (enq : Bool) (n : Nat) (p : Spot) : Bool :=
  match (s.mem.slotVa p.at_ enq n).map (teamSlot w.sh n) with
  | some (.place b) => s.absentFor st b
  | _ => false

/-- Does the ring slot that a lane of an ENQ or DEQ in team space would touch lie in an absent line (R214)? -/
def State.slotAbsent (s : State) (w : Who) (a : Access) (ps : List Spot) : Bool :=
  match a.instr, a.space, mWord a.instr with
  | .enq _, .team, some m => ps.any (fun p => s.slotGone w a.stamp true (typeBits m.t / 8) p)
  | .deq _, .team, some m => ps.any (fun p => s.slotGone w a.stamp false (typeBits m.t / 8) p)
  | _, _, _ => false

/-- Performs any lane access. -/
def Access.performAny (a : Access) (first : Bool) (pend : List Pend) (clk : Nat) (s : State) (w : Who) (ps : List Spot) : AccOut :=
  match accKind a.instr with
  | .atomic | .red => s.performAtomic a w ps
  | _ => a.perform first pend clk s w ps

/-! ### The end of an atomic (R81, R283, R294) -/

/-- The register pieces of a lane's reply. -/
def replyPieces (a : Access) (m : MWord) (lane : Nat) (d : AtomDone) : List Piece :=
  let p (reg v : Nat) : Piece := { lane := lane, reg := reg, sh := 0, bits := 32, val := v % 2 ^ 32 }
  match d with
  | .value v st =>
    (match a.instr with
      | .enq _ | .deq _ => [p 0 st.toNat]
      | .swadd _ => [p 0 v.toNat, p 1 (v.toNat / 2 ^ 32)]
      | _ => if wideType m.t then [p 0 v.toNat, p 1 (v.toNat / 2 ^ 32)] else [p 0 (placeBits (isSignedT m.t) (typeBits m.t) v.toNat).toNat])
  | .noChange st => [p 0 st.toNat]
  | _ => []

/-- The element that a DEQ has taken, for its second register. -/
def dequeued (a : Access) (lane : Nat) (d : AtomDone) : List Piece :=
  match a.instr, d with
  | .deq m, .value v _ =>
    ({ lane := lane, reg := 0, sh := 0, bits := 32, val := v.toNat % 2 ^ 32 } : Piece) ::
      (if wideType m.t then [{ lane := lane, reg := 1, sh := 0, bits := 32, val := v.toNat / 2 ^ 32 }] else [])
  | _, _ => []

/-- Register writes of pieces at V register `d` on. -/
def pieceWrites (d : Nat) (ps : List Piece) : List RegWrite :=
  ((ps.map (·.reg)).eraseDups).map (fun r => .v (d + r) (maskOf (fun l => ps.any (fun p => p.reg == r && p.lane == l)))
    (laneList.map (fun l => putPieces (ps.filter (fun p => p.reg == r && p.lane == l)) 0)))

/-- The order in which the causes of failed lanes are reported (R283, R294). -/
def causeOrder : List Byte := [0x50, 0x48, 0x49, 0x02, 0x14, 0x10, 0x11, 0x58, 0x5A]

/-- The cause that failed lanes come to, with its lanes. -/
def failOf (ds : List (Nat × AtomDone)) : Option (Byte × Lanes) :=
  (causeOrder.find? (fun c => ds.any (fun d => d.2 == .failed c))).map (fun c => (c, maskOf (fun l => ds.any (fun d => d.1 == l && d.2 == .failed c))))

/-- The lanes of an atomic that its failed log entries name: their service has failed (R243). -/
def Group.failedLanes (G : Group) (a : Access) : Lanes :=
  G.log.foldl (fun m e => if e.failed.isSome && e.acc.stamp == a.stamp then m ||| e.mask else m) 0

/-- The lanes of an atomic that its log entries logged behind a failed one name: they go unperformed (R243). -/
def Group.lostLanes (G : Group) (a : Access) : Lanes :=
  (G.log.dropWhile (fun e => e.failed.isNone)).foldl (fun m e => if e.acc.stamp == a.stamp then m ||| e.mask else m) 0

/-- The lanes of an atomic that still wait for an answer: not done, and neither failed nor lost in the log. -/
def Group.awaited (G : Group) (a : Access) (done : Lanes) : Lanes := a.lanes &&& ~~~done &&& ~~~G.lostLanes a

/-- Has every lane that an atomic waits for its answer? -/
def Group.slotsFilled (G : Group) (a : Access) (done : Lanes) : Bool := (lanesOf (G.awaited a done)).all (fun l => (spFind G.slots l).isSome)

/-- The answers of an atomic's lanes that have one. -/
def Group.answers (G : Group) (a : Access) (done : Lanes) : List (Nat × AtomDone) :=
  (lanesOf (G.awaited a done)).filterMap (fun l => (spFind G.slots l).map (fun d => (l, d)))

/-- Was the lane performed, by its answer? -/
def AtomDone.ok : AtomDone → Bool
  | .value _ _ | .noChange _ => true
  | _ => false

/-- The register writes of an atomic's answers. -/
def answerWrites (a : Access) (m : MWord) (ds : List (Nat × AtomDone)) : List RegWrite :=
  pieceWrites (dstNum m.d) (ds.flatMap (fun d => replyPieces a m d.1 d.2)) ++ pieceWrites (srcNum m.c) (ds.flatMap (fun d => dequeued a d.1 d.2))

/-- Writes the answers that have come to their registers, frees their slots, and counts their lanes as done (R89, R279). -/
def State.takeAnswers (s : State) (w : Who) (a : Access) (done : Lanes) : State × Lanes :=
  match mWord a.instr with
  | none => (s, done)
  | some m =>
    let ds := (w.G.answers a done).filter (fun d => d.2.ok)
    let ls := maskOf (fun l => ds.any (fun d => d.1 == l))
    (s.modGroup w.t w.g (fun G => (answerWrites a m ds).foldl Group.write { G with slots := G.slots.filter (fun x => !inMask ls x.1) }), done ||| ls)

/-- The lanes of an atomic whose ring slot lies in a page that is not resident go to the log, with the page as their executor found it; none where the log is full (R283, R241). -/
def State.logSlots (s : State) (w : Who) (a : Access) (done : Lanes) : Option State :=
  let ls := maskOf (fun l => (w.G.answers a done).any (fun d => d.1 == l && d.2 == .residency))
  let es := a.elems.filter (fun e => inMask ls e.lane)
  if w.G.log.length ≥ 4 then none
  else
    let pages := es.filterMap (fun e => match s.find w a.space Need.atomic e with
      | .spot (b :: _) _ => (s.mem.slotVa b ((formOf a.instr).op == 0x7D) (match mWord a.instr with | some m => typeBits m.t / 8 | none => 0)).map vpage
      | _ => none)
    let s := s.modGroup w.t w.g (fun G => { G with
      slots := G.slots.filter (fun x => !inMask ls x.1),
      log := G.log ++ [{ acc := { a with lanes := ls, elems := es }, mask := ls, pages := pages.eraseDups, failed := none }] })
    some (s.postFaults w.c w.T.asn true pages)

/-- The cause of an atomic's failing lanes, if any: the first of R283 and R294 that some lane took; a service that failed gives 0x10, and the lanes of its log entry (R243). -/
def Group.atomFail (G : Group) (a : Access) (done : Lanes) : Option Trap :=
  let ds := G.answers a done
  let logged := G.failedLanes a
  let all := ds ++ (lanesOf logged).map (fun l => (l, AtomDone.failed 0x10))
  match failOf all with
  | none => none
  | some (c, ls) =>
    let good := done ||| maskOf (fun l => ds.any (fun d => d.1 == l && d.2.ok))
    let low := if c == 0x10 && logged != 0 then (lowElem (a.elems.filter (fun e => inMask logged e.lane))).map (·.addr) else none
    some { cause := c, eaddr := low, names := some ls, performed := good, src := if low.isSome then .replay else .own }

/-! ### The store queue and the service groups -/

/-- Do two byte ranges of a queue share a byte? -/
def SqEntry.overlaps (a b : SqEntry) : Bool :=
  match b.red with
  | some r => (upFrom 0 r.size).any (fun i => a.touches (r.pa.add i))
  | none => b.bytes.any (fun x => a.touches x.1)

/-- The place of an entry. -/
def SqEntry.at_ (e : SqEntry) : PAddr :=
  match e.red with
  | some r => r.pa
  | none => (e.bytes.head?.map (·.1)).getD { store := .sram, unit := 0, off := 0 }

/-- Is the byte in a line that a copy command in flight owns or has cleared (R213, R221)? A write that has left its group waits for that command only: one still queued may itself wait for the write. -/
def State.movedNow (s : State) (b : PAddr) : Bool :=
  s.cores.any (fun k => match k.2.cur with
    | some f => (b.store == .sram && f.cmd.owned.contains b.line) || (b.store == .scratch && f.cmd.absent.contains (b.unit, b.off / 128))
    | none => false)

/-- Must a store or a request of a core come behind an older entry of its queue: they share a byte, go to one slice (R224), to one service group or both to other dies (R561), or are stores to one window of TX granules (R327)? -/
def State.mustFollow (s : State) (o e : SqEntry) : Bool :=
  o.overlaps e ||
  (match o.red, e.red with
    | some q, some r => serviceOf q.pa == serviceOf r.pa || (q.far && r.far)
    | none, none =>
      (o.at_.store == .sram && e.at_.store == .sram && o.at_.unit == e.at_.unit && sliceOf o.at_.off == sliceOf e.at_.off) ||
      ((s.marks e.at_).tx && (s.marks o.at_).tx && (s.txWindows o.at_).any (fun w => (s.txWindows e.at_).any (·.id == w.id)))
    | _, _ => false)

/-- Has the core an older atomic or RED to global space whose requests are still to be injected (R561)? -/
def State.injectsFirst (s : State) (c st : Nat) : Bool :=
  s.teams.any (fun T => T.groups.any (fun G => (T.share? G.core).map (·.core) == some c && G.parks.any (fun p => match p with
    | .access a => a.space == .glb && decide (a.stamp < st) && (accKind a.instr == .atomic || accKind a.instr == .red)
    | _ => false)))

/-- How many requests stand in the queue of a service group, or are on their way to it. -/
def State.serviceLoad (s : State) (q : Nat) : Nat := (s.requests.filter (fun r => serviceOf r.pa == q)).length

/-- May a request leave its core for its service group: the queue there has room (R276), requests to other dies leave in the order of their instructions (R561), no page move holds its line (R239), a RED finds no line that a copy engine owns (R221), and the owner of the line has drained for one with .prm (R270)? -/
def State.mayInject (s : State) (c : Nat) (e : SqEntry) (r : AtomReq) : Bool :=
  decide (s.serviceLoad (serviceOf r.pa) < 256) && !(r.far && s.injectsFirst c e.stamp) && !s.heldAt r.pa &&
  (r.reply || !(upFrom 0 r.size).any (fun i => s.ownedFor e.stamp (r.pa.add i))) && !(r.prm && s.prmWaits r.core r.pa)

/-- May a store be written: no copy command in flight or page move has its lines (R221, R239), no module on its way retrains (R393), the group's own requests to its bytes have been performed (R262), and no request with .prm is on its way to the line of a release at CORE scope, which would have to wait for it (R270)? -/
def State.mayWrite (s : State) (c : Nat) (e : SqEntry) : Bool :=
  !e.bytes.any (fun x => s.movedNow x.1 || s.heldAt x.1) && (e.scratch || !s.training c e.at_.unit e.at_.slice) &&
  s.requests.all (fun r => !((r.of e.t e.g && e.bytes.any (fun x => r.touches x.1)) || (e.coreRel && r.prm && r.pa.line == e.at_.line)))

/-- May an entry of a core's queue be performed before the older ones `old` (R65, R221, R224, R262, R268, R326, R327, R561)? -/
def State.mayPerform (s : State) (c : Nat) (old : List SqEntry) (e : SqEntry) : Bool :=
  (!e.rel || s.relDone c e.t e.g e.stamp) &&
  (e.stage.isSome || (old.all (fun o => o.stage.isSome || !s.mustFollow o e) &&
    (match e.red with
      | some r => if e.scratch then !(upFrom 0 r.size).any (fun i => s.movedNow (r.pa.add i)) else s.mayInject c e r
      | none => s.mayWrite c e)))

/-- Removes entry `idx` of a core's queue. -/
def State.dropSq (s : State) (c idx : Nat) : State := s.modCore c (fun k => { k with sq := k.sq.eraseIdx idx })

/-- Empties a stage, and lets the parties go on that wait for it. -/
def State.emptyStage (s : State) (t r k : Nat) : State :=
  s.modTeam t (fun T => (T.setStage r k { T.stage r k with full := false }).stageSettle r k)

/-- What the performing of a queue's entry does: an STGFREE empties its stage (R65), a store is written at its slice and captured or written to its scratchpad, a RED to a scratchpad is performed there, any other atomic goes to its service group, across the die links where that lies on another die (R561). -/
def State.performEntry (s : State) (core : Nat) (e : SqEntry) : State :=
  match e.stage, e.red with
  | some (r, k), _ => s.emptyStage e.t r k
  | none, some r =>
    if !e.scratch then s.forward (.request r) (FlitLoad.request r).hops
    else if s.mem.poisoned [r.pa.line] then s.killIntegrity r.t
    else ((s.scrub [r.pa.line]).atomScratch r (fun _ => .resid)).1
  | none, none =>
    let s := if e.scratch then s.modMem (fun m => m.store e.bytes) else s.writeLine e.bytes
    if e.coreRel then s.modMem (fun m => m.setRelOwner [e.at_.line] core e.stamp) else s

/-- Can an entry of a core's queue no longer reach its slice (R393)? -/
def State.entryCut (s : State) (c : Nat) (e : SqEntry) : Bool := e.stage.isNone && e.at_.store == .sram && !s.reaches (dieOf c) e.at_.unit

/-- STORE_PERFORM (R267); where no module of an edge is up, the team is killed (R393). -/
def execStorePerform (core idx : Nat) (s : State) : Host.Outcome State Fault Refusal :=
  event s (
    match (s.core core).sq[idx]? with
    | none => none
    | some e =>
      if !s.mayPerform core ((s.core core).sq.take idx) e then none
      else
        let s := s.dropSq core idx
        if s.entryCut core e then some (s.killTeam e.t 0x50)
        else some (s.performEntry core e))

/-- The walk that a service group makes for a ring slot, through its core's TLB (R230, R231). The residency fault of the slot's page is reported when the lane's answer is taken (R283). -/
def State.warmSlot (s : State) (cluster : Nat) (r : AtomReq) : State :=
  if r.kind == .enq || r.kind == .deq then
    match s.mem.slotVa r.pa (r.kind == .enq) (typeBits r.ty / 8) with
    | some va => (s.coreTranslate (coreId (cluster / 4) (cluster % 4) 0) r.asn Need.atomic va).1
    | none => s
  else s

/-- Does a copy command issued before `st` own the byte's line, one that waits for nothing of its own group any more? -/
def State.ownedEarlier (s : State) (b : PAddr) (st : Nat) : Bool :=
  s.ownedAt b && s.cores.any (fun k => k.2.cq.any (fun m => decide (m.order < st) && m.owned.contains b.line && s.ownDone m.t m.g m.order))

/-- Must a request wait at its service group: a copy engine in flight has its line, or, for a ring slot, a page move, unless that waits for the request itself, or a copy command issued before it (R221, R239)? -/
def State.svcHeld (s : State) (r : AtomReq) : Bool :=
  (upFrom 0 r.size).any (fun i => s.movedNow (r.pa.add i)) ||
  (if r.kind == .enq || r.kind == .deq then
    match (s.mem.slotVa r.pa (r.kind == .enq) (typeBits r.ty / 8)).map (s.globalSlot r.asn) with
    | some (.place b) => s.movedNow b || (s.heldAt b && !s.heldAt r.pa) || s.ownedEarlier b r.stamp
    | _ => false
  else false)

/-- Must a request wait for the drain of the core that last released its line at CORE scope (R270)? -/
def State.svcDrains (s : State) (r : AtomReq) : Bool := r.prm && s.prmWaits r.core r.pa

/-- Does the walk for a ring slot meet a mismatching line of the page tables (R385)? -/
def State.slotTables (s : State) (r : AtomReq) : Bool :=
  (r.kind == .enq || r.kind == .deq) &&
  (match s.mem.slotVa r.pa (r.kind == .enq) (typeBits r.ty / 8) with | some va => s.globalSlot r.asn va == .tables | none => false)

/-- Performs a request at its service group, and answers it. -/
def State.serve (s : State) (cluster : Nat) (r : AtomReq) : State :=
  if s.mem.poisoned [r.pa.line] then (s.killIntegrity r.t).answer r (.failed 0x50)
  else if s.slotTables r then (s.killSpace r.asn).answer r (.failed 0x50)
  else
    let home := coreId (cluster / 4) (cluster % 4) 0
    let s := (s.warmSlot cluster r).scrub [r.pa.line]
    let (s, d) := s.atomAt (serviceExec cluster) (s.stepOf home) r (s.globalSlot r.asn)
    (s.recordRel r d).answer r d

/-! ### The instructions -/

/-- Two active lanes whose bytes overlap (R277): ELANES names all of them. -/
def overlapTrap (es : List Elem) : Option Trap :=
  let hit (a b : Elem) : Bool := a.lane != b.lane && decide (a.addr.toNat < b.addr.toNat + b.size) && decide (b.addr.toNat < a.addr.toNat + a.size)
  let bad := es.filter (fun a => es.any (hit a))
  if bad == [] then none else some { cause := 0x31, names := some (elemLanes bad) }

/-- The access of an atomic; private space is a lane's own, so that no two lanes overlap there. -/
def atomAccess (w : MWord) (x : Ctx) (s : State) : Access :=
  let sp := spaceOf w.space
  let act := activeLanes x.env w.hdr.guard x.ex
  let k := atomKindOf x.i w
  { instr := x.i, pc := x.pc, ex := x.ex, space := sp, lanes := act, regs := 0, stamp := s.ctl.stamp, step := 0,
    elems := (lanesOf act).map (fun l => plainElem l (inSpace sp (x.env.addr w l)) (atomSize k w.t)
      (if k == .swadd then (x.env.src w.b l).setWidth 64 else x.env.srcT (wideType w.t) w.b l)
      (if k == .swadd then (x.env.src w.c l).setWidth 64 else if k == .cas then x.env.srcT (wideType w.t) w.c l else 0)) }

/-- An atomic of a group (R445). -/
def atomGroup (w : MWord) (x : Ctx) (s : State) : Res :=
  let s := s.bumpStamp
  let a := atomAccess w x s
  let extra := if accKind x.i == .red || a.space == .priv then none else overlapTrap a.elems
  accessEff x a (x.degree s a false) (s.access x.who a true extra (fun s ps => s.slotAbsent x.who a ps) (fun s w ps => s.performAtomic a w ps))

/-- Is the row of a byte logged for another step than the thread's, or not at all, where it lies in a logged region (R368)? -/
def State.rowUnlogged (s : State) (th : Thread) (b : PAddr) : Bool :=
  match s.loggedRegion b with
  | some (r, va) => s.tagStep (r.tagAt b.unit va) != th.step.toNat + 1
  | none => false

/-- Does the line of a row's tag mismatch (R385, R396)? -/
def State.tagPoisoned (s : State) (b : PAddr) : Bool :=
  match s.loggedRegion b with
  | some (r, va) => s.mem.poisoned [(r.tagAt b.unit va).line]
  | none => false

/-- SWADD of a slice thread, performed at its slice. -/
def swaddThread (w : MWord) (x : ThCtx) (s : State) : Res :=
  let es := (lanesOf (x.active w.hdr.guard)).map (fun l => plainElem l (x.env.addr w l) 8 ((x.env.src w.b l).setWidth 64) ((x.env.src w.c l).setWidth 64))
  match w.c with
  | .s _ => .trap s { cause := 0x02 }
  | _ =>
    if es.any Elem.misaligned then .trap s { cause := 0x16 }
    else if (overlapTrap es).isSome then .trap s { cause := 0x31 }
    else match s.threadSpots x.th Need.atomic es with
      | .inl c => .trap s { cause := c }
      | .inr ps =>
        if ps.any (fun p => (s.marks p.at_).tx) then .trap s { cause := 0x5A }
        else if ps.any (fun p => (s.marks p.at_).unmapped) then .trap s { cause := 0x58 }
        else if s.threadHeld ps then .stall s
        else if ps.any (fun p => s.tagPoisoned p.at_) then .trap s { cause := 0x50 }
        else if ps.any (fun p => s.rowUnlogged x.th p.at_) then .trap s { cause := 0x4A }
        else if s.readsPoison ps || s.factorBad (sliceExec x.th.slice) (ps.map (fun p => p.e.data2.toNat % 256)) then .trap s { cause := 0x50 }
        else
          let ex := sliceExec x.th.slice
          let r (p : Spot) : AtomReq := { kind := .swadd, ty := 0x19, space := .glb, va := p.e.addr, pa := p.at_, x := p.e.data, y := p.e.data2, asn := x.th.asn, t := 0, g := 0, lane := p.e.lane, reply := false, stamp := 0, core := 0, coreRel := false, prm := false }
          let (s, ds) := ps.foldl (fun (y : State × List (Nat × AtomDone)) p =>
            let (s, d) := y.1.atomAt ex y.1.pkg.gstep (r p) (fun _ => .resid)
            (s, y.2 ++ [(p.e.lane, d)])) ((s.threadTouch x.th es true).scrub (spotLines ps), [])
          match failOf ds with
          | some (c, _) => .trap s { cause := c }
          | none =>
            let pieces := ds.flatMap (fun d => match d.2 with
              | .value v _ => [({ lane := d.1, reg := 0, sh := 0, bits := 32, val := v.toNat % 2 ^ 32 } : Piece), { lane := d.1, reg := 1, sh := 0, bits := 32, val := v.toNat / 2 ^ 32 }]
              | _ => [])
            .done s { writes := (pieceWrites (dstNum w.d) pieces).map (fun y => (0, y)) }

/-- ATOM_ADD (R444). -/
def execAtomAdd (w : MWord) (s : State) : Host.Outcome State Fault Refusal := issueG (.atomAdd w) s (atomGroup w)
/-- ATOM_MIN (R444). -/
def execAtomMin (w : MWord) (s : State) : Host.Outcome State Fault Refusal := issueG (.atomMin w) s (atomGroup w)
/-- ATOM_MAX (R444). -/
def execAtomMax (w : MWord) (s : State) : Host.Outcome State Fault Refusal := issueG (.atomMax w) s (atomGroup w)
/-- ATOM_AND (R444). -/
def execAtomAnd (w : MWord) (s : State) : Host.Outcome State Fault Refusal := issueG (.atomAnd w) s (atomGroup w)
/-- ATOM_OR (R444). -/
def execAtomOr (w : MWord) (s : State) : Host.Outcome State Fault Refusal := issueG (.atomOr w) s (atomGroup w)
/-- ATOM_XOR (R444). -/
def execAtomXor (w : MWord) (s : State) : Host.Outcome State Fault Refusal := issueG (.atomXor w) s (atomGroup w)
/-- ATOM_EXCH (R444). -/
def execAtomExch (w : MWord) (s : State) : Host.Outcome State Fault Refusal := issueG (.atomExch w) s (atomGroup w)
/-- ATOMF (R444). -/
def execAtomf (w : MWord) (s : State) : Host.Outcome State Fault Refusal := issueG (.atomf w) s (atomGroup w)
/-- ACAS (R444). -/
def execAcas (w : MWord) (s : State) : Host.Outcome State Fault Refusal := issueG (.acas w) s (atomGroup w)
/-- RED (R280, R541). -/
def execRed (w : MWord) (s : State) : Host.Outcome State Fault Refusal := issueG (.red w) s (atomGroup w)
/-- SWADD (R294, R547). -/
def execSwadd (w : MWord) (s : State) : Host.Outcome State Fault Refusal := issue (.swadd w) s (atomGroup w) noBody (swaddThread w)
/-- ENQ (R282, R476). -/
def execEnq (w : MWord) (s : State) : Host.Outcome State Fault Refusal := issueG (.enq w) s (atomGroup w)
/-- DEQ (R282, R476). -/
def execDeq (w : MWord) (s : State) : Host.Outcome State Fault Refusal := issueG (.deq w) s (atomGroup w)

end Sys2Proof.Machine
end

