-- ==== Sys2Proof/Machine/Control.lean ====
section
/-! DEFINITION. Control transfer, traps by instruction, the exit of lanes, and the departure of groups (R38 to R41, R306, R307, R433, R459 to R463, R480, R501, R520, R542, R553). -/

namespace Sys2Proof.Machine

/-- NOP (R433). -/
def execNop (b : Bool) (s : State) : Host.Outcome State Fault Refusal := issueG (.nop b) s (fun _ s => .done s {})

/-- The lanes of a branch whose guard is true (R410). -/
def branchLanes (w : RIWord) (x : Ctx) : Lanes := maskOf (fun l => inMask x.ex l && x.env.guard w.hdr.guard l)

/-- A branch of a group (R460, R461): `link` is the register pair of a return address. -/
def branchBody (w : RIWord) (target : Ctx → Nat → DWord) (link : Dst) (x : Ctx) (s : State) : Res :=
  let act := branchLanes w x
  let ls := lanesOf act
  if act == 0 then .done s {}
  else x.withTargets s (ls.map (target x))
    (fun s => .done s { goto := ls.map (fun l => (l, target x l)), writes := destWrites link true 2 act (laneList.map (fun _ => nextSlot x.pc)) })

/-- A label target (R424). -/
def labelTarget (w : RIWord) (pc : DWord) : DWord := pc + w.imm.signExtend 64

/-- BRA of a slice thread: its guard must be uniform (R358). -/
def braThread (w : RIWord) (x : ThCtx) (s : State) : Res :=
  let q := laneList.map (x.env.guard w.hdr.guard)
  if q.all id then
    let a := labelTarget w x.th.pc
    if s.targetBad (1024 + x.th.slice) x.th.asn a then .trap s { cause := 0x03 } else .done s { jump := some a }
  else if q.all (!·) then .done s {}
  else .trap s { cause := 0x02 }

/-- BRA (R460). -/
def execBra (w : RIWord) (s : State) : Host.Outcome State Fault Refusal :=
  issue (.bra w) s (branchBody w (fun x _ => labelTarget w x.pc) (.idx 0)) noBody (braThread w)

/-- JMP (R501). -/
def execJmp (w : RIWord) (s : State) : Host.Outcome State Fault Refusal := issueG (.jmp w) s (branchBody w (fun x l => x.env.src64 w.a l) (.idx 0))

/-- CALL, label form (R460). -/
def execCall (w : RIWord) (s : State) : Host.Outcome State Fault Refusal := issueG (.call w) s (branchBody w (fun x _ => labelTarget w x.pc) w.d)

/-- CALL_REG (R460). -/
def execCallReg (w : RIWord) (s : State) : Host.Outcome State Fault Refusal := issueG (.callReg w) s (branchBody w (fun x l => x.env.src64 w.a l) w.d)

/-- RET (R542): as JMP. -/
def execRet (w : RIWord) (s : State) : Host.Outcome State Fault Refusal := issueG (.ret w) s (branchBody w (fun x l => x.env.src64 w.a l) (.idx 0))

/-- Lanes exit: they leave every mask and every meeting, and the releases they complete are made (R52, R480). -/
def Group.exitLanes (G : Group) (ex : Lanes) : Group :=
  let G := G.modLanes ex (fun _ L => { L with hold := .exited, meet := none })
  let G := [0, 1, 2, 3, 4, 5, 6, 7, 8, 9, 10, 11].foldl (fun G r => G.write (.m r (spGet 0 G.m r &&& ~~~ex))) G
  G.meetSettle

/-- EXIT of a group's lanes (R480). -/
def exitGroup (x : Ctx) (s : State) : Res :=
  let before := x.G.allAtBar.isSome
  let s := s.modGroup x.t x.g (fun G => G.exitLanes x.ex)
  .done (if before then s else s.tryArrive x.t x.g) { ends := true }

/-- The end of a slice thread (R480, R361). -/
def State.endThread (s : State) (th : Thread) : State :=
  let s := { s with threads := s.threads.filter (fun y => !(y.slice == th.slice && y.num == th.num)) }
  s.modSched (fun q => { q with tasks := q.tasks.map (fun e => if e.1 == th.task then (e.1, { e.2 with threads := e.2.threads - 1 }) else e) })

/-- EXIT (R480). -/
def execExit (w : RIWord) (s : State) : Host.Outcome State Fault Refusal := issue (.exit w) s exitGroup noBody (fun x s => .gone (s.endThread x.th))

/-- TRAP (R553): cause 0x08, its lanes performed. -/
def execTrap (w : RIWord) (s : State) : Host.Outcome State Fault Refusal :=
  issueG (.trap w) s (fun x s => .trap s { cause := 0x08, eaddr := some (w.imm.setWidth 64), performed := x.ex })

/-- BRK (R463): cause 0x09, its lanes performed. -/
def execBrk (w : RIWord) (s : State) : Host.Outcome State Fault Refusal :=
  issueG (.brk w) s (fun x s => .trap s { cause := 0x09, eaddr := some (w.xf.setWidth 64), performed := x.ex })

/-- The bed pinned on the executing core. -/
def Ctx.pinned (x : Ctx) : Option Nat := x.sh.pinned

/-- GRAFT (R306, R307, R492): a branch within the bed, or a park that ends with the group's departure. -/
def graftBody (w : RIWord) (vc sc : Nat) (x : Ctx) (s : State) : Res :=
  let (v, n, _) := x.T.launch.budget x.G.role
  let a := graftTarget x.env x.pc w
  if v < vc ∨ n < sc then .trap s { cause := 0x02 }
  else match x.T.bedAt a with
    | none => .trap s { cause := 0x38 }
    | some (b, bed) =>
      if bed.cores == [] then .trap s { cause := 0x38 }
      else if x.pinned == some b then
        x.withTargets s [a] (fun s => .done s { goto := (lanesOf x.ex).map (fun l => (l, a)) })
      else if !x.G.converged then .trap s { cause := 0x3A }
      else .done (s.park x.t x.g (.graft a vc sc x.pc)) { stay := true }

/-- GRAFT, label form. -/
def execGraft (w : RIWord) (s : State) : Host.Outcome State Fault Refusal := issueG (.graft w) s (graftBody w w.xf.toNat (srcNum w.a))

/-- GRAFT_REG. -/
def execGraftReg (w : RIWord) (s : State) : Host.Outcome State Fault Refusal := issueG (.graftReg w) s (graftBody w w.xf.toNat (srcNum w.c))

/-- MIGR (R38, R39, R80, R520): a park that ends with the group's departure, or at once where the group already is. -/
def execMigr (w : RIWord) (s : State) : Host.Outcome State Fault Refusal :=
  issueG (.migr w) s (fun x s =>
    let d := (x.env.src w.a 0).toNat
    if 16 ≤ d then .trap s { cause := 0x02 }
    else if d = rankOf x.c then .done (s.park x.t x.g .done) {}
    else .done (s.park x.t x.g (.migr d x.pc x.ex)) { stay := true })

end Sys2Proof.Machine
end

