-- ==== Sys2Proof/Machine/Fences.lean ====
section
/-! DEFINITION. Fences, stage frees, and the instructions on window counters (R64, R65, R265, R268, R332 to R336, R473, R490, R549, R555). -/

namespace Sys2Proof.Machine

/-! ### FENCE -/

/-- Does a FENCE of this FN do the release work of R268 (R490)? -/
def fenceWide (w : RIWord) : Bool := w.var.getLsbD 1 && decide (3 ≤ fldN w.var 2 3)

/-- The scope of the release that a FENCE makes of the group's later relaxed stores and atomics: 0 none or GRP, 1 CORE, 2 wider (R265). -/
def fenceScope (w : RIWord) : Nat := if !w.var.getLsbD 1 then 0 else if fldN w.var 2 3 < 2 then 0 else if fldN w.var 2 3 = 2 then 1 else 2

/-- What a FENCE leaves with its group (R265). -/
def Group.fenced (G : Group) (w : RIWord) : Group := { G with relFence := max G.relFence (fenceScope w) }

/-- FENCE of a group (R265, R490). The log is empty when it issues (R242). -/
def fenceBody (w : RIWord) (x : Ctx) (s : State) : Res :=
  let s := s.bumpStamp
  let s := s.modGroup x.t x.g (fun G => G.fenced w)
  if fenceWide w && !s.relDone x.c x.t x.g s.ctl.stamp then .done (s.park x.t x.g (.release s.ctl.stamp)) {}
  else .done s {}

/-- FENCE (R265, R490). -/
def execFence (w : RIWord) (s : State) : Host.Outcome State Fault Refusal := issueG (.fence w) s (fenceBody w)

/-! ### Window counters (R336) -/

/-- The window that Sw names, or the cause (R336). -/
def State.namedWindow (s : State) (sw : Word) : Byte ⊕ Window :=
  if sw.toNat ≥ 4096 then .inl 0x02
  else match s.window? sw.toNat with
    | some w => .inr w
    | none => .inl 0x58

/-- WCNT (R336, R555). A selector in a register is looked at with the window's counters. -/
def execWcnt (w : RIWord) (s : State) : Host.Outcome State Fault Refusal :=
  issueG (.wcnt w) s (fun x s =>
    let sel := (x.env.src w.b 0).toNat
    match s.namedWindow (x.env.src w.a 0) with
      | .inl c => .trap s { cause := c }
      | .inr win =>
        match (win.copyOf (dieOf x.c)).value win sel with
        | some v => .done s { writes := destWrites w.d true 12 x.ex (laneList.map (fun _ => v)) }
        | none => .trap s { cause := 0x02 })

/-- The test of a CWAIT on the copy of a die (R473): the result, or none while it goes on. -/
def State.cwaitTest (s : State) (die win sel : Nat) (target expires : DWord) : Option Nat :=
  let late := expires != ones 64 && decide (expires.toNat ≤ s.pkg.time.toNat)
  match s.window? win with
  | none => if late then some 1 else none
  | some w =>
    let c := w.copyOf die
    if (match c.value w sel with | some v => reached v target | none => false) then some 0
    else if decide (sel < 64) && !c.rxLive.getLsbD sel then some 2
    else if late then some 1
    else none

/-- When a CWAIT's timeout expires (R336); all ones where it never does. -/
def expiryOf (now : DWord) (us : Word) : DWord := if us == ones 32 then ones 64 else now + us.setWidth 64 * 1000

/-- The cycles after which the result of a CWAIT or RFENCE that does not park is written: R74 states none, and it is written before the run is over (R68, R473). -/
def waitLatency (s : State) : Nat := 1 + Config.openCycles s.ctl.draws

/-- CWAIT of a group (R336, R473). -/
def cwaitBody (w : RIWord) (x : Ctx) (s : State) : Res :=
  let sel := (x.env.src w.b 0).toNat
  let sw := x.env.src w.a 0
  match s.namedWindow sw with
    | .inl c => .trap s { cause := c }
    | .inr win =>
      if 65 < sel ∨ (win.counters.value win sel).isNone then .trap s { cause := 0x02 }
      else
        let target := x.env.src64 w.c 0
        let expires := expiryOf s.pkg.time (x.env.s w.xf.toNat)
        match s.cwaitTest (dieOf x.c) win.id sel target expires with
        | some r => .done s { writes := destWrites w.d true (waitLatency s) x.ex (laneList.map (fun _ => BitVec.ofNat 64 r)) }
        | none => .done (s.park x.t x.g (.cwait win.id sel target expires (dstNum w.d) x.pc x.ex)) { stay := true }

/-- CWAIT (R336, R473). -/
def execCwait (w : RIWord) (s : State) : Host.Outcome State Fault Refusal := issueG (.cwait w) s (cwaitBody w)

/-- Captures the partial blocks of a Q8 window (R332). -/
def State.flushQ8 (s : State) (id : Nat) : State :=
  match s.window? id with
  | none => s
  | some w =>
    if w.mode = 2 then
      (w.masks.map (·.1)).foldl (fun s blk =>
        match s.window? id with
        | none => s
        | some w =>
          match s.translate w.asn {} false (w.base + BitVec.ofNat 64 (128 * blk)) with
          | .ok pa _ => s.captureBlock w blk pa
          | _ => s) s
    else s

/-- The lost destinations of a window (R336). -/
def Window.lostMask (w : Window) : DWord := ~~~w.txLive &&& BitVec.ofNat 64 (2 ^ w.dests.length - 1)

/-- A step of an RFENCE: its release work awaited, then the captured count that sent is to reach; the answer once it has (R336). Where its window has been unmapped meanwhile it ends, with a value that the manual does not state (DESIGN CHOICE, log 34). -/
def State.rfenceStep (s : State) (c t g win upTo : Nat) (goal : Option DWord) : State × Option DWord × Option DWord :=
  let (s, goal) := match goal with
    | some n => (s, some n)
    | none =>
      if s.relDone c t g upTo then
        let s := s.flushQ8 win
        (s, (s.window? win).map Window.captured)
      else (s, none)
  match s.window? win, goal with
  | none, _ => (s, goal, some (Config.freeWord (4096 * s.ctl.draws + 4093) ++ Config.freeWord (4096 * s.ctl.draws + 4092)))
  | some w, some n => (s, goal, if reached w.sent n then some w.lostMask else none)
  | some _, none => (s, goal, none)

/-- RFENCE of a group (R336). -/
def rfenceBody (w : RIWord) (x : Ctx) (s : State) : Res :=
  match s.namedWindow (x.env.src w.a 0) with
  | .inl c => .trap s { cause := c }
  | .inr win =>
    if !win.tx then .trap s { cause := 0x02 }
    else
      let s := s.bumpStamp
      let st := s.ctl.stamp
      match s.rfenceStep x.c x.t x.g win.id st none with
      | (s, _, some v) => .done s { writes := destWrites w.d true (waitLatency s) x.ex (laneList.map (fun _ => v)) }
      | (s, goal, none) => .done (s.park x.t x.g (.rfence win.id st goal (dstNum w.d))) {}

/-- RFENCE (R336, R555). -/
def execRfence (w : RIWord) (s : State) : Host.Outcome State Fault Refusal := issueG (.rfence w) s (rfenceBody w)

/-! ### STGFREE (R64, R65, R549) -/

/-- STGFREE of a group: a release at CLU scope. Where its release work is not done, the emptying of the stage waits for it in the core's queue, as a release's own write does (R65, R268); the group goes on, since STGFREE neither parks nor stalls (R71, R80). A stage whose emptying is on its way counts as freed. -/
def stgfreeGroup (w : RIWord) (x : Ctx) (s : State) : Res :=
  match stageOf w x.env with
  | none => .trap s { cause := 0x02 }
  | some (r, k) =>
    if !(x.T.stage r k).full || s.stageFreed x.t r k then .trap s { cause := 0x32 }
    else
      let s := s.bumpStamp
      if s.relDone x.c x.t x.g s.ctl.stamp then .done (s.emptyStage x.t r k) {}
      else .done (s.modCore x.c (fun c => { c with sq := c.sq ++ [{ stamp := s.ctl.stamp, t := x.t, g := x.g, bytes := [], red := none, stage := some (r, k), rel := true, coreRel := false }] })) {}

/-- Have all instructions of a share's matrix engine read their operands? One that waits, or that has started and is held, has not. -/
def Share.operandsRead (sh : Share) : Bool :=
  sh.mul.waiting.isNone && sh.drain.waiting.isNone && !sh.mul.started.any (·.held) && !sh.drain.started.any (·.held)

/-- STGFREE of a sequencer: it takes effect once the instructions before it have read their operands (R65). -/
def stgfreeSeq (w : RIWord) (x : SeqCtx) (s : State) : Res :=
  match stageOf w x.env with
  | none => .trap s { cause := 0x02 }
  | some (r, k) =>
    if !x.sh.operandsRead then .stall s
    else if !(x.T.stage r k).full || s.stageFreed x.t r k then .trap s { cause := 0x32 }
    else .done (s.emptyStage x.t r k) {}

/-- STGFREE (R64, R65). -/
def execStgfree (w : RIWord) (s : State) : Host.Outcome State Fault Refusal := issue (.stgfree w) s (stgfreeGroup w) (stgfreeSeq w) noBody

end Sys2Proof.Machine
end

