-- ==== Sys2Proof/Machine/LayoutOps.lean ====
section
/-! DEFINITION. The layout instructions LSET to LGET (R111 to R119, R505 to R508, R557). -/

namespace Sys2Proof.Machine

/-! ### Operations on layouts; the cause where there is no result -/

/-- Replaces `len` bits of a register image from bit `lo`. -/
def setBits (x : LayBits) (lo len v : Nat) : LayBits :=
  (x &&& ~~~(BitVec.ofNat 1024 (2 ^ len - 1) <<< lo)) ||| (BitVec.ofNat 1024 (v % 2 ^ len) <<< lo)

/-- A result that must be well formed, or its cause (R103). -/
def wellFormedOr (c : Byte) (x : LayBits) : Byte ⊕ LayBits := if layWf x then .inr x else .inl c

/-- LSET (R112): byte 4j + b from byte b of word j. -/
def lsetOf (words : List Word) : Byte ⊕ LayBits :=
  wellFormedOr 0x02 (BitVec.ofNat 1024 (words.foldr (fun w a => w.toNat + 2 ^ 32 * a) 0))

/-- LMODE (R113). -/
def lmodeOf (x : LayBits) (k : Nat) (b c : Word) : Byte ⊕ LayBits :=
  let n := layCount x
  if k < 8 then
    if n < k then .inl 0x02
    else
      let y := setBits x (64 * k) 64 (b.toNat + 2 ^ 32 * c.toNat)
      wellFormedOr 0x02 (if k = n then setBits (setBits y 704 4 (n + 1)) (708 + k) 1 1 else y)
  else if k < 14 then wellFormedOr 0x02 (setBits x (512 + 32 * (k - 8)) 32 c.toNat)
  else if fldN b 3 1 != 0 || fldN b 7 25 != 0 then .inl 0x02
  else wellFormedOr 0x02 (setBits (setBits x 716 3 (fldN b 0 3)) 733 3 (fldN b 4 3))

/-- LSWZ (R114). -/
def lswzOf (x : LayBits) (sw : Word) : Byte ⊕ LayBits :=
  if 8192 ≤ sw.toNat then .inl 0x02 else wellFormedOr 0x02 (setBits x 720 13 sw.toNat)

/-- LGET (R115). -/
def lgetOf (x : LayBits) (f : Nat) : Byte ⊕ Word :=
  if f < 8 then .inr (fld x (64 * f) 32)
  else if f < 16 then .inr (fld x (64 * (f - 8) + 32) 32)
  else if f < 22 then .inr (fld x (512 + 32 * (f - 16)) 32)
  else if f = 22 then .inr (fld x 704 32)
  else if f = 23 then .inr (BitVec.ofNat 32 (layoutOf x).size)
  else .inl 0x02

/-- The skip of R116: the modes of La below a step `q`. -/
def chainSkip : List Mode → Nat → Option (List Mode × Nat)
  | [], q => some ([], q)
  | m :: r, q => if q < m.ext then some (m :: r, q) else if q % m.ext != 0 then none else chainSkip r (q / m.ext)

/-- The split of R116: `e` positions with step `q` over the modes left. -/
def chainTake : List Mode → Nat → Nat → Option (List Mode)
  | [], _, e => if 1 < e then none else some []
  | m :: r, q, e =>
    if e ≤ 1 then some []
    else if m.ext % q != 0 then none
    else
      let a := m.ext / q
      let out (n : Nat) : Mode := { ext := n, tag := m.tag, rev := false, step := q * m.step }
      if e ≤ a then some [out e]
      else if e % a != 0 then none
      else (chainTake r 1 (e / a)).map (out a :: ·)

/-- One mode of Lb over the modes of La (R116). -/
def chainMode (ms : List Mode) (e : Nat) (st : Int) : Option (List Mode) :=
  if st = 0 ∨ e = 1 then some [{ ext := e, tag := (ms.head?.map (·.tag)).getD 0, rev := false, step := 0 }]
  else (chainSkip ms st.toNat).bind (fun x => chainTake x.1 x.2 e)

/-- The modes and marks of a composition (R116). -/
def chainModes (ms : List Mode) : List (Mode × Bool) → Option (List (Mode × Bool))
  | [] => some []
  | (m, g) :: r =>
    match chainMode ms m.ext m.step, chainModes ms r with
    | some out, some rest => some (out.zipIdx.map (fun x => (x.1, g && x.2 == 0)) ++ rest)
    | _, _ => none

/-- A layout with other modes, well formed or the cause. -/
def withModes (L : Layout) (ms : List (Mode × Bool)) (origin : List Int) (c : Byte) : Byte ⊕ LayBits :=
  let L : Layout := { L with modes := ms.map (·.1), marks := ms.map (·.2), origin := origin }
  if L.ok then .inr L.bits else .inl c

/-- LCHAIN (R116). -/
def lchainOf (x y : LayBits) : Byte ⊕ LayBits :=
  let A := layoutOf x
  let B := layoutOf y
  if B.modes.any (fun m => m.tag != 0 || decide (m.step < 0) || m.rev) || B.origin.any (· != 0) || A.modes.any (·.rev) then .inl 0x21
  else match chainModes A.modes (B.modes.zip B.marks) with
    | some ms => withModes A ms A.origin 0x21
    | none => .inl 0x21

/-- The coordinate of an index within one top-level dimension, its last mode taking the whole quotient (R117). -/
def groupWalk : List Mode → Nat → List Int → List Int
  | [], _, co => co
  | [m], i, co => addCoord co m.tag (i * m.step)
  | m :: r, i, co => groupWalk r (i / m.ext) (addCoord co m.tag ((i % m.ext : Nat) * m.step))

/-- The tile of one top-level dimension (R117). -/
def partGroup (g : List Mode) (n t : Nat) : Option (List Mode) :=
  if n % t = 0 then chainMode g t 1
  else match g with
    | [m] => some [{ m with ext := t }]
    | _ => none

/-- The tiles and origins of all dimensions (R117). -/
def partGroups : List (List Mode) → List Nat → Nat → List Int → Option (List (Mode × Bool) × List Int × Nat)
  | [], _, n, co => some ([], co, n)
  | g :: gs, t :: ts, n, co =>
    let size := g.foldl (fun a m => a * m.ext) 1
    let cnt := ceilDiv size t
    match partGroup g size t with
    | none => none
    | some ms => (partGroups gs ts (n / cnt) (groupWalk g (n % cnt * t) co)).map (fun x => (ms.zipIdx.map (fun y => (y.1, y.2 == 0)) ++ x.1, x.2))
  | _ :: _, [], _, _ => none

/-- LPART (R117, R557). -/
def lpartOf (x y : LayBits) (n : Nat) : Byte ⊕ LayBits :=
  let A := layoutOf x
  let T := layoutOf y
  if A.dieModes != [] || A.modes.any (·.rev) || T.modes.length != A.tops.length || T.modes.any (fun m => m.step != 1) then .inl 0x21
  else match partGroups A.tops (T.modes.map (·.ext)) n A.origin with
    | some (ms, co, 0) => withModes A ms co 0x21
    | _ => .inl 0x21

/-- LTRANS (R118). -/
def ltransOf (x : LayBits) (perm : Word) : Byte ⊕ LayBits :=
  let A := layoutOf x
  let d := A.tops.length
  let ps := (upFrom 0 d).map (fun j => fldN perm (3 * j) 3)
  if perm.toNat / 2 ^ (3 * d) != 0 || !(upFrom 0 d).all (fun k => ps.contains k) then .inl 0x02
  else withModes A (ps.flatMap (fun p => (nth [] A.tops p).zipIdx.map (fun y => (y.1, y.2 == 0)))) A.origin 0x02

/-- Are two adjacent modes mergeable (R119)? -/
def mergeable (a b : Mode) : Bool :=
  a.tag == b.tag && a.tag != 7 && !a.rev && !b.rev && b.step == a.ext * a.step && decide (a.ext * b.ext ≤ 65535)

/-- Two modes merged. -/
def merged (a b : Mode) : Mode := { a with ext := a.ext * b.ext }

/-- LFLAT (R119). -/
def lflatOf (x : LayBits) (k : Nat) : Byte ⊕ LayBits :=
  let A := layoutOf x
  let ms := A.modes.zip A.marks
  match ms.drop k with
  | (a, g) :: (b, false) :: r => if mergeable a b then withModes A (ms.take k ++ (merged a b, g) :: r) A.origin 0x22 else .inl 0x22
  | _ => .inl 0x22

/-- The merging of LFLAT.ALL. -/
def flatAll : Mode → List Mode → List Mode
  | m, [] => [m]
  | m, n :: r => if mergeable m n then flatAll (merged m n) r else m :: flatAll n r

/-- LFLAT.ALL (R119). -/
def lflatAllOf (x : LayBits) : Byte ⊕ LayBits :=
  let A := layoutOf x
  match A.modes.filter (·.ext != 1) with
  | [] => withModes A [({ ext := 1, tag := (A.modes.head?.map (·.tag)).getD 0, rev := false, step := 1 }, true)] A.origin 0x22
  | m :: r => (match flatAll m r with
      | [y] => withModes A [(y, true)] A.origin 0x22
      | _ => .inl 0x22)

/-! ### The instructions -/

/-- What a layout instruction gives: a register at issue + 4 (R507), or its cause. -/
def layRes (w : RIWord) (s : State) (r : Byte ⊕ LayBits) : Res :=
  match r with
  | .inl c => .trap s { cause := c }
  | .inr x => .done s { writes := [(4, .l (dstNum w.d) x)] }

/-- The layout register that a field of a sequencer's word names. -/
def SeqCtx.layout (x : SeqCtx) (r : Nat) : LayBits := spGet 0 x.sh.seq.l r

/-- The operand of B, or the immediate of format I. -/
def layB (w : RIWord) (e : Env) : Word := if w.isImm then w.imm else e.src w.b 0

/-- LSET (R112). -/
def execLset (w : RIWord) (s : State) : Host.Outcome State Fault Refusal :=
  issue (.lset w) s
    (fun x s => layRes w s (lsetOf ((upFrom (srcNum w.a) 32).map x.env.s)))
    (fun x s => if 32 < srcNum w.a then .trap s { cause := 0x02 } else layRes w s (lsetOf ((upFrom (srcNum w.a) 32).map x.env.s)))
    noBody

/-- LMODE (R113). -/
def execLmode (w : RIWord) (s : State) : Host.Outcome State Fault Refusal :=
  issueG (.lmode w) s (fun x s => layRes w s (lmodeOf (x.layout s (srcNum w.a)) w.xf.toNat (x.env.src w.b 0) (x.env.src w.c 0)))

/-- LCHAIN (R116). -/
def execLchain (w : RIWord) (s : State) : Host.Outcome State Fault Refusal :=
  issueG (.lchain w) s (fun x s => layRes w s (lchainOf (x.layout s (srcNum w.a)) (x.layout s (srcNum w.b))))

/-- LPART (R117). -/
def execLpart (w : RIWord) (s : State) : Host.Outcome State Fault Refusal :=
  issue (.lpart w) s
    (fun x s => layRes w s (lpartOf (x.layout s (srcNum w.a)) (x.layout s (srcNum w.b)) (x.env.src w.c 0).toNat))
    (fun x s => layRes w s (lpartOf (x.layout (srcNum w.a)) (x.layout (srcNum w.b)) (x.env.src w.c 0).toNat))
    noBody

/-- LTRANS (R118). -/
def execLtrans (w : RIWord) (s : State) : Host.Outcome State Fault Refusal :=
  issue (.ltrans w) s
    (fun x s => layRes w s (ltransOf (x.layout s (srcNum w.a)) (layB w x.env)))
    (fun x s => layRes w s (ltransOf (x.layout (srcNum w.a)) (layB w x.env)))
    noBody

/-- LFLAT (R119). -/
def execLflat (w : RIWord) (s : State) : Host.Outcome State Fault Refusal :=
  issueG (.lflat w) s (fun x s => layRes w s (lflatOf (x.layout s (srcNum w.a)) w.xf.toNat))

/-- LFLAT_ALL (R119). -/
def execLflatAll (w : RIWord) (s : State) : Host.Outcome State Fault Refusal :=
  issueG (.lflatAll w) s (fun x s => layRes w s (lflatAllOf (x.layout s (srcNum w.a))))

/-- LSWZ (R114). -/
def execLswz (w : RIWord) (s : State) : Host.Outcome State Fault Refusal :=
  issueG (.lswz w) s (fun x s => layRes w s (lswzOf (x.layout s (srcNum w.a)) (layB w x.env)))

/-- LGET (R115). -/
def execLget (w : RIWord) (s : State) : Host.Outcome State Fault Refusal :=
  issueG (.lget w) s (fun x s =>
    match lgetOf (x.layout s (srcNum w.a)) (x.env.src w.b 0).toNat with
    | .inl c => .trap s { cause := c }
    | .inr v => .done s (valueEff Sig.lget w false 4 x.ex (laneList.map (fun _ => v.setWidth 64))))

end Sys2Proof.Machine
end

