-- ==== Sys2Proof/Machine/Sides.lean ====
section
/-! DEFINITION. The sides of engine commands: opening, classification, bounds, places, degrees, reading and writing of elements; LCHK and LBCD (R123 to R137, R164, R167, R174, R176, R230 to R233, R244, R506). -/

namespace Sys2Proof.Machine

/-! ### Opening a side -/

/-- A reservation record that is free (R174). -/
def RangeRec.free : RangeRec := { base := 0, len := 0, form := 0, bsoff := 0, rsoff := 0, csoff := 0, st := .free }

/-- The reservation record of a range number of a share. -/
def Share.range (sh : Share) (n : Nat) : RangeRec := spGet RangeRec.free sh.ranges n

/-- The data bytes of a range: up to the lowest scale offset present (R174). -/
def RangeRec.dataLen (r : RangeRec) : Nat :=
  let m (bit off len : Nat) : Nat := if r.form.getLsbD bit then min off len else len
  m 16 r.bsoff (m 17 r.rsoff (m 18 r.csoff r.len))

/-- FMT of a range. -/
def RangeRec.fmt (r : RangeRec) : Nat := fldN r.form 0 5

/-- What opening a side comes to. -/
inductive Opened where
  | ok (s : State) (v : SideVal)
  | stall (s : State)
  | cause (s : State) (c : Byte)

/-- Opens a side of a command: its record through the record cache (R169, R170), its range as it is now (R176). `h` is the handle of a record side. -/
def State.openSide (s : State) (T : Team) (sh : Share) (d : Side) (lay : LayBits) (h : Half) (p : Party) : Opened :=
  let v : SideVal := { sel := d.sel.toNat, num := d.num.toNat, lay := lay, recAddr := 0, image := none, range := none }
  match d.sel.toNat with
  | 1 =>
    let a := recordAddr T.recbase h
    (match s.useRecord sh.core T.asn a T.id p with
      | .image s x => .ok s { v with recAddr := a, image := some x }
      | .stall s => .stall s
      | .cause s c => .cause s c)
  | 2 => let r := sh.range d.num.toNat
    if r.st == .reserved then .ok s { v with range := some r } else .cause s 0x41
  | _ => .ok s v

/-! ### Layout, view and type of a side -/

/-- A side as an engine evaluates it: its layout, its view, whether what R105 to R109 and R167 ask of it holds, its element size in bits, its type code (0 for team space), and its record. -/
structure Operand where
  L : Layout
  V : View
  ok : Bool
  bits : Nat
  fmt : Nat
  r : Option TRec

/-- The operand of a side for a table; `len` is the length of the team's allocation, `comp` that a compressed source is meant (R109, R167, R244, R249). -/
def SideVal.operand (v : SideVal) (len table : Nat) (comp : Bool) : Operand :=
  let L := layoutOf v.lay
  match v.image, v.range with
  | some x, _ =>
    let r := recOf x
    { L := L, V := r.view (codeBits r.fmt), ok := L.kind == 0 && r.okFor table L comp && (!comp || r.comp), bits := codeBits r.fmt, fmt := r.fmt, r := some r }
  | none, some g =>
    let b := codeBits g.fmt
    { L := L, V := linearView g.dataLen b, ok := L.kind == 2 && (L.esz == 0 || eszBits L.esz == b), bits := b, fmt := g.fmt, r := none }
  | none, none =>
    let b := eszBits L.esz
    { L := L, V := linearView len (max 1 b), ok := L.kind == 1 && b != 0, bits := b, fmt := 0, r := none }

/-- The class of an operand for a table (R123). -/
def Operand.accept (o : Operand) (table k : Nat) : Accept := classify table k o.L o.V o.ok

/-- The cause of a whole operand that leaves its bounds (R110). -/
def SideVal.boundsCause (v : SideVal) : Byte := if v.sel = 1 then 0x10 else if v.sel = 2 then 0x41 else 0x14

/-- Does a die mode reach an entry of the die map that is not valid (R164)? -/
def Operand.dieHole (o : Operand) : Bool := o.r.any (·.dieHole o.L)

/-! ### Places of elements -/

/-- The bytes of an element of a size in bits. -/
def elemBytes (bits : Nat) : Nat := max 1 (bits / 8)

/-- Where an element of a side is, before translation: a global address, an offset in team space, a peer address, an offset in a range's core array. -/
inductive EngAddr where
  | glb (a : DWord) (main : Bool)
  | team (a : DWord)
  | peer (a : DWord)
  | range (off : Nat)
  deriving DecidableEq, Repr

/-- The address of a position of a side. The tests of R110 are on coordinates: an offset that the skew of R108 then takes out of an operand-buffer range is not tested again, and one below zero counts as zero (DESIGN CHOICE, log 91). -/
def SideVal.addr (v : SideVal) (o : Operand) (p : Pos) : EngAddr :=
  let off := BitVec.ofInt 64 p.off
  match o.r with
  | some r =>
    let a := r.baseOf o.L p.entry + off
    (match r.space with
      | 2 => .team a
      | 3 => .peer a
      | n => .glb a (n == 1))
  | none => match v.range with
    | some g => .range (g.base + p.off.toNat)
    | none => .team off

/-- The virtual address of a global element. -/
def EngAddr.va : EngAddr → DWord
  | .glb a _ => a
  | _ => 0

/-- The address that an engine's trap reports of an element: its virtual address (R233, R377). Elements of other spaces have none. -/
def EngAddr.eaddr : EngAddr → Option DWord
  | .glb a _ => some a
  | _ => none

/-- The place of `size` bytes at a peer address, or the cause of R215: its form, its presence, its allocation. -/
def Team.peerPlace (T : Team) (a : DWord) (size : Nat) : Byte ⊕ PAddr :=
  if a.toNat ≥ 2 ^ 28 then .inl 0x10
  else match T.peerShare a with
    | none => .inl 0x15
    | some x => if fldN a 0 24 + size ≤ x.scratchLen then .inr (x.place (fldN a 0 24)) else .inl 0x14

/-- The peer tests of an operand whose elements are all known at issue (R215): the first cause in index order. -/
def SideVal.peerTest (v : SideVal) (o : Operand) (T : Team) : Option Byte :=
  if o.r.any (·.space == 3) then
    (upFrom 0 o.L.size).findSome? (fun i =>
      match v.addr o (o.L.pos o.V i) with
      | .peer a => (match T.peerPlace a (elemBytes o.bits) with | .inl c => some c | .inr _ => none)
      | _ => none)
  else none

/-- The tests of R110, R164 and R215 on a whole operand: the cause, if any. An operand that clips is tested element by element, and so is dimension `moved` of a CPYG's row side (R247), whose peer addresses are known only when the indices are. -/
def SideVal.boundsTest (v : SideVal) (o : Operand) (T : Team) (moved : Option Nat) : Option Byte :=
  if !o.V.clip && !o.L.within o.V moved then some v.boundsCause
  else if o.dieHole then some 0x10
  else if o.V.clip || moved.isSome then none
  else v.peerTest o T

/-- What an engine finds at an element: a cause, a mismatching page-table line, a residency fault, a place with the page entry's address. -/
inductive EngFound where
  | cause (c : Byte)
  | poisoned
  | resid
  | place (a : PAddr)
  deriving DecidableEq, Repr

/-- Finds `n` bytes of an engine's element (R212, R215, R228, R229). -/
def State.engineFind (s : State) (T : Team) (sh : Share) (n : Need) (size : Nat) (a : EngAddr) : EngFound :=
  match a with
  | .glb va main =>
    (match s.enginePeek sh.core T.asn n main va with
      | .cause c => .cause c
      | .poisoned => .poisoned
      | .resid => .resid
      | .ok pa _ => if n.wr && (s.marks pa).logged then .cause 0x11 else .place pa)
  | .team off => if off.toNat + size ≤ sh.scratchLen then .place (sh.place off.toNat) else .cause 0x14
  | .peer a => (match T.peerPlace a size with | .inl c => .cause c | .inr p => .place p)
  | .range off => .place { store := .obuf, unit := sh.core, off := off }

/-- Uses the walk-ahead TLB for an address: it is filled, and the leaf is marked (R230, R232). -/
def State.engineWarm (s : State) (T : Team) (sh : Share) (n : Need) (a : EngAddr) : State :=
  match a with
  | .glb va main => (s.engineTranslate sh.core T.asn n main va).1
  | _ => s

/-- Reads an element at a place. -/
def Mem.elem (m : Mem) (a : PAddr) (bit bits : Nat) : Nat :=
  if bits < 8 then m.num a 1 / 2 ^ bit % 2 ^ bits else m.num a (bits / 8)

/-- The bytes that a list of element writes leaves. -/
def Mem.elemWrites (m : Mem) (ws : List ElemWrite) : List (PAddr × Byte) :=
  (ws.foldl (fun (x : Mem × List (PAddr × Byte)) w =>
    let bs := if w.bits < 8 then
        let old := x.1.num w.pa 1
        numBytes w.pa 1 (old - old / 2 ^ w.bit % 2 ^ w.bits * 2 ^ w.bit + w.val.toNat % 2 ^ w.bits * 2 ^ w.bit)
      else numBytes w.pa (w.bits / 8) (w.val.toNat % 2 ^ w.bits)
    (x.1.setBytes bs, x.2 ++ bs)) (m, [])).2

/-- Performs element writes of an engine. -/
def State.engineWrite (s : State) (ws : List ElemWrite) : State := s.modMem (fun m => m.store (m.elemWrites ws))

/-! ### Degree (R135) -/

/-- How the store of an address is banked, which core's it is, and the address that counts. R135 names die SRAM and private space; the model counts 64-byte lines of main memory too, by their virtual addresses (DESIGN CHOICE, log 73). -/
def EngAddr.bank (a : EngAddr) (T : Team) (sh : Share) : Banking × Nat × Nat :=
  match a with
  | .glb va _ => (.lines, 0, va.toNat)
  | .team off => (.scratch, sh.core, sh.scratchBase + off.toNat)
  | .peer a =>
    (match T.peerShare a with
      | some x => (.scratch, x.core, x.scratchBase + fldN a 0 24)
      | none => (.scratch, sh.core, fldN a 0 24))
  | .range off => (.obuf, sh.core, off)

/-- The degree of the elements of one beat. -/
def beatOf (T : Team) (sh : Share) (n : Nat) (as : List EngAddr) : Nat :=
  let bs := as.map (fun a => a.bank T sh)
  let kinds := (bs.map (fun b => (b.1, b.2.1))).eraseDups
  kinds.foldl (fun d k => max d (beatDegree k.1 ((bs.filter (fun b => (b.1, b.2.1) == k)).map (fun b => (b.2.2, n))))) 1

/-- The greatest degree over the beats of `per` elements of a list of positions; only elements in bounds and aligned count. -/
def SideVal.degree (v : SideVal) (o : Operand) (T : Team) (sh : Share) (per : Nat) (ps : List Pos) : Nat :=
  (chunks (max 1 per) ps.length ps).foldl (fun d b =>
    max d (beatOf T sh (elemBytes o.bits) ((b.filter (fun p => p.inb && o.V.aligned p)).map (v.addr o)))) 1

/-! ### LCHK and LBCD (R131, R137, R506 to R508) -/

/-- K of an operand type for tables 3 and 4 (R506); 0 where the type is none of theirs. -/
def kOfType (t : Nat) : Nat :=
  match t with
  | 0x11 | 0x12 => 32
  | 0x13 | 0x14 | 0x01 => 64
  | 0x15 | 0x18 => 128
  | _ => 0

/-- The output types of a drain (R139, R197). -/
def drainTypes : List Nat := [3, 0x10, 0x11, 0x12, 0x13, 0x14, 0x15]

/-- Is the T of an LCHK or LBCD valid for its table and layout (R508)? A T of 0 leaves the size to ESZ. -/
def checkType (table t esz : Nat) : Bool :=
  match table with
  | 0 => if t = 0 then esz != 0 else loadTypes.contains t
  | 3 | 4 => kOfType t != 0
  | 5 => if t = 0 then esz != 0 else drainTypes.contains t
  | _ => t != 0 || esz != 0

/-- The side that an LCHK or LBCD names (R506), once opened. -/
def checkSide (w : RIWord) (x : Ctx) (s : State) (y : LayBits) : Opened :=
  let n := srcNum w.b
  match (layoutOf y).kind with
  | 0 => s.openSide x.T x.sh { sel := 1, num := BitVec.ofNat 5 n, lay := 0 } y (x.handle s n) (.group x.t x.g)
  | 2 => s.openSide x.T x.sh { sel := 2, num := BitVec.ofNat 5 n, lay := 0 } y 0 (.group x.t x.g)
  | k => .ok s { sel := if k = 1 then 0 else 3, num := 0, lay := y, recAddr := 0, image := none, range := none }

/-- The operand of an LCHK or LBCD: its size comes from ESZ, else from T. -/
def checkOperand (v : SideVal) (table t len : Nat) : Operand :=
  let o := v.operand len table (table == 1 && (match v.image with | some x => (recOf x).comp | none => false))
  let b := if o.L.esz = 0 then codeBits t else eszBits o.L.esz
  if o.L.kind = 3 then { o with V := tileView, bits := 32, ok := o.L.esz == 0 || o.L.esz == 5 }
  else match o.r with
    | some r => { o with V := r.view b, bits := b }
    | none => match v.range with
      | some g => { o with V := linearView g.dataLen b, bits := b }
      | none => { o with V := linearView len b, bits := b, ok := o.L.kind == 1 }

/-- What LCHK and LBCD share: the checks, then the result. -/
def checkBody (w : RIWord) (res : Ctx → SideVal → Operand → RegWrite) (x : Ctx) (s : State) : Res :=
  let y := x.layout s (srcNum w.a)
  let L := layoutOf y
  let table := w.xf.toNat
  if L.kind = 0 ∧ 15 < srcNum w.b then .trap s { cause := 0x02 }
  else if !checkType table w.t.toNat L.esz then .trap s { cause := 0x02 }
  else match checkSide w x s y with
    | .stall s => .stall s
    | .cause s c => recCause x.t s c
    | .ok s v => .done s { writes := [(6, res x v (checkOperand v table w.t.toNat x.sh.scratchLen))] }

/-- LCHK (R131). -/
def execLchk (w : RIWord) (s : State) : Host.Outcome State Fault Refusal :=
  issueG (.lchk w) s (checkBody w (fun _ _ o =>
    .lst (lstWord (o.accept w.xf.toNat (kOfType w.t.toNat)) w.xf.toNat)))

/-- The beat of a table: the elements of one register for the lane load unit, else 128 bytes (R135). -/
def tableBeat (table bits : Nat) : Nat := if table = 0 then (if bits = 64 then 16 else 512 / bits) else beatElems bits

/-- LBCD (R137). -/
def execLbcd (w : RIWord) (s : State) : Host.Outcome State Fault Refusal :=
  issueG (.lbcd w) s (checkBody w (fun x v o =>
    .bcd (bcdWord (if o.L.kind = 3 then 1 else
      v.degree o x.T x.sh (tableBeat w.xf.toNat o.bits) ((upFrom 0 o.L.size).map (o.L.pos o.V))) 0)))

end Sys2Proof.Machine
end

