-- ==== Sys2Proof/Machine/Copies.lean ====
section
/-! DEFINITION. Copy commands: issue, start, completion, compressed sources (R92, R213, R221, R233, R244 to R257, R328, R372, R464 to R468). -/

namespace Sys2Proof.Machine

/-! ### What a command moves -/

/-- The copy operation of an instruction. -/
def copyOpOf (i : Instr) : CopyOp :=
  match formOf i with
  | .e k _ => k
  | _ => .cpy

/-- The operands of a command's sides: destination (table 2), source (table 1), index vector. -/
def CopyCmd.dstOp (m : CopyCmd) (len : Nat) : Operand := m.dst.operand len 2 false
def CopyCmd.srcOp (m : CopyCmd) (len : Nat) (v : SideVal) : Operand := v.operand len 1 (copyOpOf m.op == .cpyz)
def CopyCmd.idxOp (len : Nat) (v : SideVal) : Operand := v.operand len 1 false

/-- Does the command read decayed values of stamped words: from a record of FMT SW64 (R248)? -/
def decaysTo (src dst : Operand) : Bool := src.r.isSome && src.fmt == 0x19 && dst.bits == 32 && (dst.fmt == 0x10 || dst.fmt == 0)

/-- Do the types of two sides agree (R248)? -/
def typesAgree (src dst : Operand) : Bool :=
  decaysTo src dst || (src.bits == dst.bits && (src.r.isNone || dst.r.isNone || src.fmt == dst.fmt))

/-- A layout with the origin of one dimension raised (R247). -/
def Layout.raised (L : Layout) (d : Nat) (by_ : Int) : Layout := { L with origin := addCoord L.origin d by_ }

/-! ### One element -/

/-- What an element of a command comes to: written or dropped, a cause with its address, a residency fault, a mismatch, a frame held by a page move, a die out of reach. -/
inductive ElemRes where
  | ok (clipped : Bool) (w : Option ElemWrite) (line : List Nat)
  | cause (c : Byte) (a : Option DWord)
  | resid (write : Bool) (va : DWord)
  | poisoned (space : Bool)
  | held
  | cut
  deriving DecidableEq, Repr

/-- What holds an engine back at a place, or stops it: a page move, a die that no module leads to, a module on the way that retrains (R239, R393). -/
def State.engineStop (s : State) (core : Nat) (a : PAddr) : Option ElemRes :=
  let far := a.store == .sram || a.store == .lpddr
  if s.heldAt a then some .held
  else if far && !s.reaches (dieOf core) a.unit then some .cut
  else if far && s.training core a.unit a.slice then some .held
  else none

/-- Is the result not that of an element moved? -/
def ElemRes.bad : ElemRes → Bool
  | .ok _ _ _ => false
  | _ => true

/-- Can an engine not walk for an address (R393)? -/
def State.walkStop (s : State) (T : Team) (sh : Share) (a : EngAddr) (write : Bool) : Bool :=
  match a with
  | .glb va _ => s.engineCut sh.core T.asn va write
  | _ => false

/-- The place from which an engine reads bytes of an element, or why it does not. -/
def State.readPlace (s : State) (T : Team) (sh : Share) (size : Nat) (a : EngAddr) : ElemRes ⊕ PAddr :=
  if s.walkStop T sh a false then .inl .cut
  else match s.engineFind T sh Need.load size a with
  | .cause c => .inl (.cause c a.eaddr)
  | .poisoned => .inl (.poisoned true)
  | .resid => .inl (.resid false a.va)
  | .place pa =>
    match s.engineStop sh.core pa with
    | some x => .inl x
    | none => .inr pa

/-- The place to which an engine writes an element, or why it does not. -/
def State.writePlace (s : State) (T : Team) (sh : Share) (size : Nat) (a : EngAddr) : ElemRes ⊕ PAddr :=
  if s.walkStop T sh a true then .inl .cut
  else match s.engineFind T sh Need.store size a with
  | .cause c => .inl (.cause c a.eaddr)
  | .poisoned => .inl (.poisoned true)
  | .resid => .inl (.resid true a.va)
  | .place pa =>
    match s.engineStop sh.core pa with
    | some x => .inl x
    | none => .inr pa

/-! ### Compressed sources (R249, R250) -/

/-- The places of `n` bytes of global memory as the engine of a core reads them, or the first reason why it does not. -/
def State.engineRead (s : State) (T : Team) (sh : Share) (main : Bool) : Nat → DWord → ElemRes ⊕ List PAddr
  | 0, _ => .inr []
  | n + 1, va =>
    match s.readPlace T sh 1 (.glb va main) with
    | .inl x => .inl x
    | .inr pa =>
      if s.mem.poisoned [pa.line] then .inl (.poisoned false)
      else match s.engineRead T sh main n (va + 1) with
        | .inl x => .inl x
        | .inr ps => .inr (pa :: ps)

/-- The bytes at some places. -/
def State.bytesAt (s : State) (ps : List PAddr) : List Byte := ps.map s.mem.byte

/-- The walks of an engine that reads `n` bytes: one for each page (R230, R232). -/
def State.warmRange (s : State) (T : Team) (sh : Share) (main : Bool) (va : DWord) (n : Nat) : State :=
  (touched 65536 [(va.toNat, n)]).foldl (fun s p =>
    (s.engineTranslate sh.core T.asn Need.load main (BitVec.ofNat 64 (max va.toNat (65536 * p)))).1) s

/-- Puts the non-zero elements of `n` bytes in the places that the bitmap marks (R250). -/
def unskip (n : Nat) : List Bool → List Byte → List Byte
  | [], _ => []
  | true :: r, bs => bs.take n ++ unskip n r (bs.drop n)
  | false :: r, bs => List.replicate n 0 ++ unskip n r bs

/-- The bits of a bitmap, lowest bit of the lowest byte first. -/
def bitmap (bs : List Byte) : List Bool := bs.flatMap (fun b => (upFrom 0 8).map b.getLsbD)

/-- The bytes of payload that a bitmap asks for, with the bitmap (R250). -/
def skipLength (n maps : Nat) (bs : List Byte) : Nat := maps + n * ((bitmap (bs.take maps)).filter id).length

/-- What the payload of a chunk is to be, by its MODE (R250): stored bytes, a bitmap of some bytes over elements of a size, nothing; none where MODE is reserved. -/
inductive ChunkMode where
  | stored
  | skip (n maps : Nat)
  | zero

/-- The mode of a chunk's header; none where MODE is reserved or a reserved byte is not zero. -/
def chunkMode (h : List Byte) : Option ChunkMode :=
  if (h.drop 1).take 3 != [0, 0, 0] then none
  else match (nth 0 h 0).toNat with
    | 0 => some .stored
    | 1 => some (.skip 2 256)
    | 2 => some (.skip 4 128)
    | 3 => some .zero
    | _ => none

/-- A decoded chunk: which part and chunk it is, its raw bytes or why there are none, what the engine read for it, and the lines it read. -/
structure Chunk where
  key : Nat × Int
  data : ElemRes ⊕ List Byte
  reads : List (DWord × Nat)
  lines : List Nat

/-- Decodes the chunk at an address, with the bytes it reads there (R250). A chunk that breaks the format reports its own address. -/
def State.chunkAt (s : State) (T : Team) (sh : Share) (main : Bool) (va : DWord) : (ElemRes ⊕ List Byte) × List PAddr :=
  match s.engineRead T sh main 8 va with
  | .inl x => (.inl x, [])
  | .inr hp =>
    let h := s.bytesAt hp
    let len := bytesNat (h.drop 4)
    let bad : (ElemRes ⊕ List Byte) × List PAddr := (.inl (.cause 0x50 (some va)), hp)
    let payload (n : Nat) (f : List Byte → ElemRes ⊕ List Byte) : (ElemRes ⊕ List Byte) × List PAddr :=
      match s.engineRead T sh main n (va + 8) with
      | .inl x => (.inl x, hp)
      | .inr ps => (f (s.bytesAt ps), hp ++ ps)
    match chunkMode h with
    | none => bad
    | some .stored => if len = 4096 then payload 4096 .inr else bad
    | some .zero => if len = 0 then (.inr (List.replicate 4096 0), hp) else bad
    | some (.skip n maps) =>
      match payload maps .inr with
      | (.inl x, ps) => (.inl x, ps)
      | (.inr bm, _) => if len = skipLength n maps bm then payload len (fun bs => .inr (unskip n (bitmap bm) (bs.drop maps))) else bad

/-- Decodes chunk `k` of a part of a compressed record (R249): the word of the index table at CIDX gives its place in units of 32 bytes from the base, which a die-map entry gives where the layout has a die mode (R105). -/
def State.chunk (s : State) (T : Team) (sh : Share) (r : TRec) (L : Layout) (key : Nat × Int) : Chunk :=
  let main := r.space == 1
  let at_ := r.cidx + BitVec.ofInt 64 (4 * key.2)
  match s.engineRead T sh main 4 at_ with
  | .inl x => { key := key, data := .inl x, reads := [(at_, 4)], lines := [] }
  | .inr ps =>
    let va := r.baseOf L key.1 + BitVec.ofNat 64 (32 * bytesNat (s.bytesAt ps))
    let (d, qs) := s.chunkAt T sh main va
    { key := key, data := d, reads := [(at_, 4), (va, max 1 qs.length)], lines := ((ps ++ qs).map PAddr.line).eraseDups }

/-- The chunk that a source position lies in. -/
def Pos.chunk (p : Pos) : Nat × Int := (p.entry, p.off / 4096)

/-- The value of a source element that is in bounds, with the line it came from: a compressed source's from its decoded chunk, another's from memory, as of a step where the command has .ver (R372). -/
def State.copyValue (s : State) (T : Team) (sh : Share) (m : CopyCmd) (o : Operand) (v : SideVal) (chunks : List Chunk) (p : Pos) : ElemRes ⊕ (Nat × List Nat) :=
  if copyOpOf m.op == .cpyz then
    match chunks.find? (·.key == p.chunk) with
    | some { data := .inr bs, .. } =>
      let x := bytesNat ((bs.drop (p.off % 4096).toNat).take (elemBytes o.bits))
      .inr (if o.bits < 8 then x / 2 ^ p.bit % 2 ^ o.bits else x, [])
    | some { data := .inl x, .. } => .inl x
    | none => .inl (.cause 0x10 none)
  else
    let a := v.addr o p
    match s.readPlace T sh (elemBytes o.bits) a with
    | .inl x => .inl x
    | .inr pa =>
      let (pa, ls) := match m.ver, a with
        | some step, .glb _ _ => let v := (s.versionPlace pa step).1
          (v, v.line :: s.versionLines pa step)
        | _, _ => (pa, [pa.line])
      if s.mem.poisoned ls then .inl (.poisoned false) else .inr (s.mem.elem pa p.bit o.bits, ls)

/-- What moving an element from a source position to a destination position comes to. `F` is the factor table, `step` the GSTEP observed. Bits move unchanged, also into TRN elements: R466 and R248 let a copy write the code 10 that R143 says no instruction writes (DEDUCED, log 74). An element that a clipped SW64 source fills is decayed like one that is read, its fill pattern being taken for a stamped word, of which R248 and R106 say nothing (DESIGN CHOICE, log 92). -/
def State.copyElem (s : State) (T : Team) (sh : Share) (m : CopyCmd) (d : Operand) (src : Option (SideVal × Operand)) (chunks : List Chunk)
    (F : Nat → Nat → Nat) (step : DWord) (ps pd : Pos) : ElemRes :=
  let val : ElemRes ⊕ (Nat × List Nat) := match src with
    | none => .inr (m.fill.toNat % 2 ^ d.bits, [])
    | some (v, o) =>
      if !ps.inb then (if o.V.clip then .inr (o.V.fill.toNat, []) else .inl (.cause 0x10 (v.addr o ps).eaddr))
      else if !o.V.aligned ps then .inl (.cause 0x16 (v.addr o ps).eaddr)
      else s.copyValue T sh m o v chunks ps
  let sin := src.isNone || ps.inb
  match val with
  | .inl x => x
  | .inr (x, ls) =>
    let decays := match src with | some (_, o) => decaysTo o d | none => false
    let w := stampedOf (BitVec.ofNat 64 x)
    let a := m.dst.addr d pd
    if decays && w.stale step then .cause 0x49 (match src with | some (v, o) => (v.addr o ps).eaddr | none => none)
    else if !pd.inb then (if d.V.clip then .ok true none ls else .cause 0x10 a.eaddr)
    else if !d.V.aligned pd then .cause 0x16 a.eaddr
    else match s.writePlace T sh (elemBytes d.bits) a with
      | .inl x => x
      | .inr pa => .ok (!sin) (some { pa := pa, bit := pd.bit, bits := d.bits, val := BitVec.ofNat 64 (if decays then w.decayed F step else x) }) ls

/-! ### The positions of a command -/

/-- The indices of a CPYG, read in order, each with the line it came from (R247). -/
def State.copyIndices (s : State) (T : Team) (sh : Share) (v : SideVal) (o : Operand) : ElemRes ⊕ List (Int × Nat) :=
  (upFrom 0 o.L.size).foldl (fun acc i =>
    match acc with
    | .inl x => .inl x
    | .inr xs =>
      let p := o.L.pos o.V i
      let a := v.addr o p
      if !o.V.aligned p then .inl (.cause 0x16 a.eaddr)
      else match s.readPlace T sh 4 a with
        | .inl x => .inl x
        | .inr pa => if s.mem.poisoned [pa.line] then .inl (.poisoned false) else .inr (xs ++ [(signedOf 32 (s.mem.num pa 4), pa.line)])) (.inr [])

/-- The positions of element `i`: of the source (that of the destination where there is none) and of the destination. -/
def CopyCmd.positions (m : CopyCmd) (d : Operand) (src : Option Operand) (idx : List Int) (i : Nat) : Pos × Pos :=
  match copyOpOf m.op, src with
  | .gth, some o =>
    let r := max 1 o.L.size
    ((o.L.raised m.dim (nth 0 idx (i / r))).pos o.V (i % r), d.L.pos d.V i)
  | .sct, some o =>
    let r := max 1 d.L.size
    (o.L.pos o.V i, (d.L.raised m.dim (nth 0 idx (i / r))).pos d.V (i % r))
  | _, some o => (o.L.pos o.V i, d.L.pos d.V i)
  | _, none => (d.L.pos d.V i, d.L.pos d.V i)

/-- The number of elements that a command moves. -/
def CopyCmd.count (m : CopyCmd) (d : Operand) (src : Option Operand) : Nat :=
  match copyOpOf m.op, src with
  | .sct, some o => o.L.size
  | _, _ => d.L.size

/-- A coordinate with the value of one dimension replaced. -/
def setCoord (co : List Int) (d : Nat) (v : Int) : List Int := co.zipIdx.map (fun x => if x.2 = d then v else x.1)

/-- The positions in bounds that a destination can reach: of a scatter, whose indices are read only at its start, those of every coordinate of the moved dimension (R213, R247, R252). -/
def CopyCmd.reach (m : CopyCmd) (d : Operand) : List Pos :=
  let all :=
    if copyOpOf m.op == .sct then
      (((upFrom 0 d.L.size).map (fun i => let x := d.L.index i
        (setCoord x.1 m.dim 0, x.2))).eraseDups).flatMap (fun x => (upFrom 0 (nth 0 d.V.ext m.dim)).map (fun (c : Nat) => d.L.posOf d.V (setCoord x.1 m.dim c) x.2))
    else (upFrom 0 d.L.size).map (d.L.pos d.V)
  all.filter (·.inb)

/-! ### A whole command -/

/-- What the start of a command comes to. -/
inductive CopyRun where
  | wait (s : State)
  | fault (s : State) (c : Byte) (a : Option DWord)
  | gone (s : State)
  | started (s : State) (f : InFlight)

/-- The element writes among results. -/
def writesOf (rs : List ElemRes) : List ElemWrite := rs.filterMap (fun r => match r with | .ok _ w _ => w | _ => none)

/-- The bytes of element writes that lie in TX granules, in order (R328). -/
def State.txBytes (s : State) (ws : List ElemWrite) : List PAddr :=
  (ws.flatMap (fun w => (upFrom 0 (elemBytes w.bits)).map w.pa.add)).filter (fun a => (s.marks a).tx)

/-- The number of permits of an engine, each for the 4096 raw bytes of a chunk (R251). -/
def permitCount : Nat := 16

/-- The chunks that the source of a command reaches, in the order of first use; none unless it is compressed (R249). -/
def CopyCmd.chunkKeys (m : CopyCmd) (src : Option (SideVal × Operand)) (pos : List (Pos × Pos)) : List (Nat × Int) :=
  match copyOpOf m.op, src with
  | .cpyz, some (_, o) => ((pos.filter (fun p => p.1.inb && o.V.aligned p.1)).map (fun p => p.1.chunk)).eraseDups
  | _, _ => []

/-- The turn in which each element is moved: that of its chunk, whose permit is one of 16 at a time; an element that needs no chunk goes with the one before it (R251). -/
def turnsOf (keys : List (Nat × Int)) : List (Pos × Pos) → Nat → List Nat
  | [], _ => []
  | p :: r, w =>
    let i := keys.findIdx (· == p.1.chunk)
    let w := if p.1.inb && decide (i < keys.length) then i / permitCount else w
    w :: turnsOf keys r w

/-- Puts a numbered result among results sorted by number. -/
def insertRes (x : Nat × ElemRes) : List (Nat × ElemRes) → List (Nat × ElemRes)
  | [] => [x]
  | y :: r => if x.1 ≤ y.1 then x :: y :: r else y :: insertRes x r

/-- How far a command has come: the state with what it has written, the number of the first element that it does not move and why, its results so far, the elements written, those left to write, the permits still held, and the stamped words that it has decayed. -/
structure Moving where
  s : State
  lim : Nat
  stop : Option ElemRes
  res : List (Nat × ElemRes)
  first : List ElemWrite
  last : List ElemWrite
  permits : List (Nat × Int)
  words : List DWord

/-- What does not change while a command moves its elements. -/
structure CopyJob where
  T : Team
  sh : Share
  m : CopyCmd
  d : Operand
  src : Option (SideVal × Operand)
  pos : List (Pos × Pos)
  F : Nat → Nat → Nat
  step : DWord

/-- The elements of one beat of a command, counted on its destination (R130). -/
def CopyJob.per (j : CopyJob) : Nat := max 1 (beatElems j.d.bits)

/-- The first element of the last beat, which is written at the command's completion. -/
def CopyJob.lastBeat (j : CopyJob) : Nat := (j.pos.length - 1) / j.per * j.per

/-- The stamped words at some source positions that a command decays, as its engine reads them. -/
def CopyJob.stampedWords (j : CopyJob) (s : State) (cs : List Chunk) (ps : List Pos) : List DWord :=
  match j.src with
  | some (v, o) => if decaysTo o j.d then
      (ps.filter (·.inb)).filterMap (fun p => match s.copyValue j.T j.sh j.m o v cs p with | .inr (x, _) => some (BitVec.ofNat 64 x) | .inl _ => none)
    else []
  | none => []

/-- One turn of a command: the chunks of up to 16 permits are decoded, the elements they feed are read, and those before the first beat that stops the command are written, which returns the permits (R233, R251). In the last turn the elements of the last beat stay to be written. -/
def CopyJob.turn (j : CopyJob) (last : Bool) (ids : List (Nat × Pos × Pos)) (x : Moving) : Moving :=
  let ids := ids.filter (fun i => decide (i.1 < x.lim))
  let keys := j.m.chunkKeys j.src (ids.map (·.2))
  let cs := match j.src.bind (·.2.r) with
    | some r => keys.map (x.s.chunk j.T j.sh r (layoutOf ((j.src.map (·.1.lay)).getD 0)))
    | none => []
  let s := cs.foldl (fun s c => c.reads.foldl (fun s r => s.warmRange j.T j.sh (j.src.any (fun y => y.2.r.any (·.space == 1))) r.1 r.2) s) x.s
  let s := s.scrub ((cs.flatMap (·.lines)).eraseDups)
  let rs := ids.map (fun i => (i.1, x.s.copyElem j.T j.sh j.m j.d j.src cs j.F j.step i.2.1 i.2.2))
  let bad := rs.find? (·.2.bad)
  let lim : Nat := match bad with | some b => b.1 / j.per * j.per | none => x.lim
  let go := rs.filter (fun r => decide (r.1 < lim))
  let later (r : Nat × ElemRes) : Bool := last && decide (j.lastBeat ≤ r.1)
  let now := writesOf ((go.filter (fun r => !later r)).map (·.2))
  { s := s.engineWrite now, lim := lim, stop := (bad.map (·.2)).or x.stop, res := x.res ++ go, first := x.first ++ now,
    last := writesOf ((go.filter later).map (·.2)), permits := if last then keys else [], words := x.words ++ j.stampedWords x.s cs (ids.map (·.2.1)) }

/-- The walks of a command's elements through the walk-ahead TLB, the lines its reads scrub and the factors its decays keep (R230, R232, R288, R385). -/
def CopyJob.after (j : CopyJob) (s : State) (n : Nat) (rs : List ElemRes) : State :=
  let comp := copyOpOf j.m.op == .cpyz
  let s := (j.pos.take n).foldl (fun s p =>
    let s := match j.src with
      | some (v, o) => if p.1.inb && !comp then s.engineWarm j.T j.sh Need.load (v.addr o p.1) else s
      | none => s
    if p.2.inb then s.engineWarm j.T j.sh Need.store (j.m.dst.addr j.d p.2) else s) s
  s.scrub ((rs.flatMap (fun r => match r with | .ok _ _ ls => ls | _ => [])).eraseDups)

/-- What the engine of a core is given to move: the operands and positions of a command whose indices are read. -/
def State.copyJob (s : State) (T : Team) (sh : Share) (m : CopyCmd) (idx : List Int) : CopyJob :=
  let d := m.dstOp sh.scratchLen
  let src := m.src.map (fun v => (v, m.srcOp sh.scratchLen v))
  { T := T, sh := sh, m := m, d := d, src := src, F := s.factor sh.core, step := s.stepOf sh.core,
    pos := (upFrom 0 (m.count d (src.map (·.2)))).map (m.positions d (src.map (·.2)) idx) }

/-- Moves the elements of a job, turn by turn. -/
def CopyJob.run (j : CopyJob) (s : State) : Moving :=
  let keys := j.m.chunkKeys j.src j.pos
  let ids := (turnsOf keys j.pos 0).zip ((upFrom 0 j.pos.length).zip j.pos)
  let n := max 1 (ceilDiv keys.length permitCount)
  (upFrom 0 n).foldl (fun x w => j.turn (decide (w + 1 = n)) ((ids.filter (fun i => decide (i.1 = w))).map (·.2)) x)
    { s := s, lim := j.pos.length, stop := none, res := [], first := [], last := [], permits := [], words := [] }

/-- The operands of a command with the table each is held against, the index layout of a CPYG among them: no rule names its table, and the model takes that of a copy source (DESIGN CHOICE, log 75). -/
def CopyCmd.operands (m : CopyCmd) (len : Nat) : List (SideVal × Operand × Nat) :=
  (m.dst, m.dstOp len, 2) :: ((m.src.toList.map (fun v => (v, m.srcOp len v, 1))) ++ (m.index.toList.map (fun v => (v, CopyCmd.idxOp len v, 1))))

/-- The class and the table of the worst operand (R124). -/
def CopyCmd.worst (m : CopyCmd) (len : Nat) : Accept × Nat :=
  ((m.operands len).map (fun x => (x.2.1.accept x.2.2 0, x.2.2))).foldl worse (Accept.conforming, 2)

/-- The largest degree over the beats of a command's operands (R135, R254). Where a beat ends is the model's choice on two sides: those of a CPYG's row side are cut over all its n × r elements, across the ends of its rows, and those of a CPYZ's source are counted by the 64-byte lines of its raw image, not by those of its chunks (DESIGN CHOICE, log 93). -/
def CopyJob.degree (j : CopyJob) : Nat :=
  let deg (v : SideVal) (o : Operand) (ps : List Pos) : Nat := v.degree o j.T j.sh (beatElems o.bits) ps
  let dd := deg j.m.dst j.d (j.pos.map (·.2))
  let ds := match j.src with | some (v, o) => deg v o (j.pos.map (·.1)) | none => 1
  let di := match j.m.index with
    | some v => let o := CopyCmd.idxOp j.sh.scratchLen v
      deg v o ((upFrom 0 o.L.size).map (o.L.pos o.V))
    | none => 1
  max dd (max ds di)

/-- What a moved job comes to: a residency fault of the first element that is not moved holds the whole command back, a cause of it stops the command at its beat (R233), and a job without one is in flight with its last beat to write. -/
def CopyJob.outcome (j : CopyJob) (s : State) (x : Moving) : CopyRun :=
  match x.stop with
  | some (.resid w va) => .wait (s.engineFault j.sh.core j.T.asn w va)
  | some .held => .wait s
  | some (.cause c a) => .fault (j.after x.s x.lim (x.res.map (·.2))) c a
  | some (.poisoned sp) => .gone (if sp then x.s.killSpace j.T.asn else x.s.killIntegrity j.T.id)
  | some .cut => .gone (x.s.killTeam j.T.id 0x50)
  | some (.ok _ _ _) => .wait s
  | none =>
    let rs := x.res.foldr insertRes []
    if x.s.factorBad j.sh.core (factorsOf x.words) then .gone (x.s.killIntegrity j.T.id)
    else
    let s' := (j.after x.s j.pos.length (rs.map (·.2))).keepFactors j.sh.core (factorsOf x.words)
    .started s'
      { cmd := j.m, first := x.first.filter (·.pa.store == .obuf), last := x.last, permits := x.permits,
        delivered := ceilDiv (rs.length * j.d.bits) 8,
        clipped := (rs.filter (fun r => match r.2 with | .ok c _ _ => c | _ => false)).length,
        degree := j.degree, cost := (j.m.worst j.sh.scratchLen).1.cost, captures := s'.txBytes (writesOf (rs.map (·.2))) }

/-- Moves the elements of a command but for those of its last beat, or finds why it stops. -/
def State.runCopy (s : State) (T : Team) (sh : Share) (m : CopyCmd) : CopyRun :=
  let idx : ElemRes ⊕ List (Int × Nat) := match m.index with
    | some v => s.copyIndices T sh v (CopyCmd.idxOp sh.scratchLen v)
    | none => .inr []
  match idx with
  | .inl (.cause c a) => .fault s c a
  | .inl (.poisoned sp) => .gone (if sp then s.killSpace T.asn else s.killIntegrity T.id)
  | .inl .cut => .gone (s.killTeam T.id 0x50)
  | .inl _ => .wait s
  | .inr idx =>
    let s := s.scrub ((idx.map (·.2)).eraseDups)
    let j := s.copyJob T sh m (idx.map (·.1))
    j.outcome s (j.run s)

/-! ### Ownership and presence (R213, R221, R252) -/

/-- Counts a command on some keys, or takes it off. -/
def countOn (up : Bool) (l : List (Nat × Nat)) (ks : List Nat) : List (Nat × Nat) :=
  ks.foldl (fun l k => let n := spGet 0 l k; spPut 0 l k (if up then n + 1 else n - 1)) l

/-- Begins or ends the ownership and the absence that a command has. -/
def State.ownership (s : State) (up : Bool) (owned : List Nat) (absent : List (Nat × Nat)) : State :=
  let s := s.modMem (fun m => { m with owned := countOn up m.owned owned })
  absent.foldl (fun s x => s.modCore x.1 (fun k => { k with absent := countOn up k.absent [x.2] })) s

/-- The die-SRAM lines and scratchpad lines that a destination can reach, so far as their pages are resident. -/
def State.reachOf (s : State) (T : Team) (sh : Share) (m : CopyCmd) : List Nat × List (Nat × Nat) :=
  let d := m.dstOp sh.scratchLen
  let n := elemBytes d.bits
  let pas := (m.reach d).filterMap (fun p => match s.engineFind T sh Need.store n (m.dst.addr d p) with | .place a => some a | _ => none)
  (((pas.filter (·.store == .sram)).flatMap (fun a => [a.line, (a.add (n - 1)).line])).eraseDups,
   ((pas.filter (·.store == .scratch)).flatMap (fun a => [(a.unit, a.off / 128), (a.unit, (a.off + n - 1) / 128)])).eraseDups)

/-- The command with the lines that it owns and whose presence it clears as the pages of its destination lie now, in place of those it had (R221, R239, R252). -/
def State.reown (s : State) (m : CopyCmd) : State × CopyCmd :=
  match (s.team? m.t).bind (fun T => (T.share? m.j).map (fun sh => s.reachOf T sh m)) with
  | none => (s, m)
  | some (owned, absent) =>
    ((s.ownership false m.owned m.absent).ownership true owned absent, { m with owned := owned, absent := absent })

/-- The commands of every core own their destination's lines anew, once a page has become resident or has moved. -/
def State.reownAll (s : State) : State :=
  s.cores.foldl (fun s k =>
    let (s, q) := k.2.cq.foldl (fun (x : State × List CopyCmd) m => let (s, m) := x.1.reown m
      (s, x.2 ++ [m])) (s, [])
    let (s, c) := match k.2.cur with
      | some f => let (s, m) := s.reown f.cmd
        (s, some { f with cmd := m })
      | none => (s, none)
    s.modCore k.1 (fun y => { y with cq := q, cur := c })) s

/-! ### Issue (R246, R468) -/

/-- The operands of the suffixes (R420): step, ring, stage, task, offset. -/
structure Suffixes where
  ver : Option DWord
  stage : Option (Nat × Nat)
  tdec : Option Word
  sts : Option Word

/-- A suffix operand. -/
def Env.sfx (e : Env) : Sfx → Word
  | .s i => e.s i.toNat
  | .imm k => k.setWidth 32

/-- Reads the suffix operands in their order (R420). -/
def suffixesOf (w : EWord) (e : Env) : Suffixes :=
  let ps := [w.p0, w.p1, w.p2, w.p3, w.p4]
  let q1 := if w.ver then ps.drop 1 else ps
  let q2 := if w.stg then q1.drop 2 else q1
  let q3 := if w.tdec then q2.drop 1 else q2
  let hd (l : List Sfx) : Sfx := l.headD (.imm 0)
  { ver := if w.ver then (match w.p0 with | .s i => some (e.s (i.toNat + 1) ++ e.s i.toNat) | .imm _ => some 0) else none,
    stage := if w.stg then some ((e.sfx (hd q1)).toNat, (e.sfx (hd (q1.drop 1))).toNat) else none,
    tdec := if w.tdec then some (e.sfx (hd q2)) else none,
    sts := if w.sts then some (e.sfx (hd q3)) else none }

/-- The checks of the suffix operands (R245). -/
def Suffixes.cause (x : Suffixes) (len : Nat) : Option Byte :=
  if (match x.stage with | some (r, k) => decide (7 < r) || decide (15 < k) | none => false) then some 0x02
  else if (match x.tdec with | some t => decide (65536 ≤ t.toNat) | none => false) then some 0x02
  else match x.sts with
    | some o => if o.toNat % 16 != 0 then some 0x16 else if len < o.toNat + 16 then some 0x14 else none
    | none => none

/-- The fill register of a CPYF (R421). -/
def fillReg (w : EWord) : Nat := 16 * w.sside.num.toNat + w.sside.lay.toNat

/-- The checks of R246 from its step 4 on, with the types of R248, on a command whose sides are open: LST and the first cause. A scatter into a window is held against the marks of every line that it can reach (R325). -/
def State.copyChecks (s : State) (T : Team) (sh : Share) (m : CopyCmd) : Word × Option Byte :=
  let k := copyOpOf m.op
  let d := m.dstOp sh.scratchLen
  let src := m.src.map (fun v => (v, m.srcOp sh.scratchLen v))
  let idx := m.index.map (fun v => (v, CopyCmd.idxOp sh.scratchLen v))
  let row := if k == .sct then d.r else src.bind (·.2.r)
  let a := m.worst sh.scratchLen
  let lst := lstWord a.1 a.2
  if idx.isSome && (match row with | some r => decide (r.rank ≤ m.dim) | none => true) then (lst, some 0x02)
  else
    let sizes := match src, idx with
      | some (_, o), some (_, x) =>
        x.L.esz == 5 && decide (x.L.size ≤ 4096) && (if k == .sct then o.L.size == x.L.size * d.L.size else d.L.size == x.L.size * o.L.size)
      | some (_, o), none => o.L.size == d.L.size
      | _, _ => true
    let bounds (moved : Bool) (v : SideVal) (o : Operand) : Option Byte := v.boundsTest o T (if moved then some m.dim else none)
    let marks := if d.r.any (fun r => decide (r.space ≤ 1)) then
        (m.reach d).filterMap (fun p => match s.engineFind T sh Need.store 1 (m.dst.addr d p) with | .place a => some a | _ => none)
      else []
    let first : Option Byte :=
      if a.1.cls = 2 || !sizes then some 0x20
      else
        (bounds (k == .sct) m.dst d).or ((src.bind (fun x => bounds (k == .gth) x.1 x.2)).or ((idx.bind (fun x => bounds false x.1 x.2)).or
          (if marks.any (fun p => (s.marks p).unmapped) then some 0x58
          else if d.bits != 32 && marks.any s.additive then some 0x20
          else match m.stage with
            | some (r, g) => if (T.stage r g).full || (T.stage r g).pending == 255 then some 0x32
              else none
            | none => none)))
    (lst, first.or (if (match src with | some (_, o) => !typesAgree o d | none => false) then some 0x20 else none))

/-- What opening all the sides of a copy comes to. -/
inductive CopyOpen where
  | ok (s : State) (m : CopyCmd)
  | stall (s : State)
  | cause (s : State) (c : Byte)

/-- Opens the sides of a command: destination, then source (R246, step 3). -/
def copyOpen (w : EWord) (k : CopyOp) (x : Ctx) (s : State) (m : CopyCmd) : CopyOpen :=
  let opn (d : Side) (s : State) : Opened := s.openSide x.T x.sh d (x.layout s d.lay.toNat) (x.handle s d.num.toNat) (.group x.t x.g)
  match opn w.dside s with
  | .stall s => .stall s
  | .cause s c => .cause s c
  | .ok s d =>
    let m := { m with dst := d }
    if k == .cpyf then .ok s m
    else match opn w.sside s with
      | .stall s => .stall s
      | .cause s c => .cause s c
      | .ok s v =>
        if w.ver && (match v.image with | some r => (recOf r).space != 0 | none => true) then .cause s 0x20
        else if k == .gth || k == .sct then
          .ok s { m with src := some v, index := some { sel := 0, num := 0, lay := x.layout s w.xl.toNat, recAddr := 0, image := none, range := none } }
        else .ok s { m with src := some v }

/-- A command with a destination and nothing else. -/
def plainCmd (op : Instr) (t g j asn : Nat) (dst : SideVal) : CopyCmd :=
  { op := op, t := t, g := g, j := j, asn := asn, dst := dst, src := none, index := none, dim := 0, fill := 0, ver := none, stage := none,
    tdec := none, sts := none, binding := false, order := 0, owned := [], absent := [] }

/-- Is the fill register of a CPYF one that cannot name the pair that its 8-byte elements ask for (R466)? The size is that of the destination's layout. -/
def fillOdd (w : EWord) (k : CopyOp) (x : Ctx) (s : State) : Bool :=
  k == .cpyf && eszBits (layoutOf (x.layout s w.dside.lay.toNat)).esz == 64 &&
  (fillReg w % 2 == 1 || decide ((x.T.launch.budget x.G.role).2.1 < fillReg w + 2))

/-- Issues a copy command (R244 to R248, R252, R253, R468). It writes LST in the cycle of its issue, also where it traps, and not while it is held in its slot (R124). Where it traps before its operands are classified, on a field, a suffix operand or a record, LST stays as it is (DESIGN CHOICE, log 94). -/
def copyBody (w : EWord) (k : CopyOp) (x : Ctx) (s : State) : Res :=
  let sf := suffixesOf w x.env
  let fr := fillReg w
  match (if fillOdd w k x s then some 0x02 else sf.cause x.sh.scratchLen) with
  | some c => .trap s { cause := c }
  | none =>
    let side : SideVal := { sel := 0, num := 0, lay := 0, recAddr := 0, image := none, range := none }
    let m : CopyCmd := { plainCmd x.i x.t x.g x.G.core x.T.asn side with
      dim := w.dim.toNat, fill := x.env.s (fr + 1) ++ x.env.s fr, ver := sf.ver, stage := sf.stage, tdec := sf.tdec.map BitVec.toNat, sts := sf.sts.map BitVec.toNat }
    match copyOpen w k x s m with
    | .stall s => .stall s
    | .cause s c => recCause x.t s c
    | .ok s m =>
      let (lst, cause) := s.copyChecks x.T x.sh m
      let wr (s : State) : State := s.modGroup x.t x.g (fun G => G.write (.lst lst))
      match cause with
      | some c => .trap (wr s) { cause := c }
      | none =>
        let kq := s.core x.c
        if 64 ≤ kq.cq.length + (if kq.cur.isSome then 1 else 0) then .stall s
        else
          let s := (wr s).bumpStamp
          let (owned, absent) := s.reachOf x.T x.sh m
          let m := { m with order := s.ctl.stamp, owned := owned, absent := absent }
          let s := s.ownership true owned absent
          let s := s.modCore x.c (fun c => { c with cq := c.cq ++ [m] })
          .done (match m.stage with
            | some (r, g) => s.modTeam x.t (fun T => T.setStage r g { T.stage r g with pending := (T.stage r g).pending + 1 })
            | none => s) {}

/-- CPY (R244). -/
def execCpy (w : EWord) (s : State) : Host.Outcome State Fault Refusal := issueG (.cpy w) s (copyBody w .cpy)
/-- CPYG_GTH (R247). -/
def execCpygGth (w : EWord) (s : State) : Host.Outcome State Fault Refusal := issueG (.cpygGth w) s (copyBody w .gth)
/-- CPYG_SCT (R247). -/
def execCpygSct (w : EWord) (s : State) : Host.Outcome State Fault Refusal := issueG (.cpygSct w) s (copyBody w .sct)
/-- CPYZ (R249). -/
def execCpyz (w : EWord) (s : State) : Host.Outcome State Fault Refusal := issueG (.cpyz w) s (copyBody w .cpyz)
/-- CPYF (R466). -/
def execCpyf (w : EWord) (s : State) : Host.Outcome State Fault Refusal := issueG (.cpyf w) s (copyBody w .cpyf)

/-! ### Ranges that are releasing (R176) -/

/-- Does a side name range `n`? -/
def SideVal.names (v : SideVal) (n : Nat) : Bool := v.sel == 2 && v.num == n

/-- The sides of a copy command, and of a matrix command. -/
def CopyCmd.sides (m : CopyCmd) : List SideVal := m.dst :: (m.src.toList ++ m.index.toList)
def MatCmd.sides (m : MatCmd) : List SideVal := m.a.toList ++ m.b.toList ++ m.z.toList

/-- Has a command that names range `n` of team core `j` not completed, one that a halt has abandoned among them? -/
def State.rangeBusy (s : State) (t j : Nat) (sh : Share) (n : Nat) : Bool :=
  let k := s.core sh.core
  let copies := k.cq ++ k.cur.toList.map (·.cmd)
  copies.any (fun m => m.t == t && m.j == j && m.sides.any (·.names n)) ||
  [sh.mul, sh.drain].any (fun u => (u.waiting.toList ++ u.started.toList.map (·.cmd)).any (fun m => m.sides.any (·.names n))) ||
  (sh.seq.st != .stopped && sh.seq.st != .ended && sh.redo.any (fun m => m.sides.any (·.names n)))

/-- Frees the releasing ranges of a share that no command names any more (R176). -/
def State.freeRanges (s : State) (t j : Nat) : State :=
  match (s.team? t).bind (fun T => T.share? j) with
  | none => s
  | some sh => s.modShare t j (fun y => { y with ranges := y.ranges.filter (fun r => !(r.2.st == .releasing && !s.rangeBusy t j sh r.1)) })

/-! ### Start and completion -/

/-- Ends a command of a core under R233: its cause goes to the COPY group that issued it. -/
def State.engineTrap (s : State) (core : Nat) (m : CopyCmd) (c : Byte) (a : Option DWord) : State :=
  let s := (s.ownership false m.owned m.absent).modCore core (fun k => { k with cq := k.cq.drop 1 })
  (s.deliver m.t m.g { cause := c, src := .engine, rank := rankOf core, eaddr := a }).freeRanges m.t m.j

/-- COPY_START (R253): the command at the head of a core's queue begins once the one before it has ended, its group's earlier accesses are performed, and with them the earlier stores of its core, which its group may have acquired, the engine being a party of the core (R258, R264). -/
def execCopyStart (core : Nat) (s : State) : Host.Outcome State Fault Refusal :=
  event s (
    let k := s.core core
    match k.cq, k.cur with
    | m :: rest, none =>
      (match (s.team? m.t).bind (fun T => (T.share? m.j).map (fun sh => (T, sh))) with
        | none => none
        | some (T, sh) =>
          if T.phase != .running || !s.relDone core m.t m.g m.order then none
          else match s.runCopy T sh m with
            | .wait s => some s
            | .fault s c a => some (s.engineTrap core m c a)
            | .gone s => some s
            | .started s f => some (s.modCore core (fun k => { k with cq := rest, cur := some f })))
    | _, _ => none)

/-- The captures of a command's or drain's bytes in TX granules: one for each line, in index order (R328). -/
def State.captureAll (s : State) (ps : List PAddr) : State :=
  ((ps.map PAddr.line).eraseDups).foldl (fun s l =>
    s.capture ((ps.filter (fun a => a.line == l)).map (fun a => (a, s.mem.byte a)))) s

/-- The status record (R254). -/
def statusBytes (at_ : PAddr) (f : InFlight) : List (PAddr × Byte) :=
  numBytes at_ 8 f.delivered ++ numBytes (at_.add 8) 4 f.clipped ++ numBytes (at_.add 12) 4 (f.degree % 256 + 256 * f.cost)

/-- COPY_COMPLETION (R254): the last beat, its captures, the end of ownership, the status record and BCD, the stage event and the decrement. -/
def execCopyCompletion (core : Nat) (s : State) : Host.Outcome State Fault Refusal :=
  event s (
    match (s.core core).cur with
    | none => none
    | some f =>
      let m := f.cmd
      let s := (s.engineWrite f.last).captureAll f.captures
      let s := (s.ownership false m.owned m.absent).modCore core (fun k => { k with cur := none })
      match (s.team? m.t).bind (fun T => T.share? m.j) with
      | none => some s
      | some sh =>
        let s := match m.sts with
          | some o => s.modMem (fun x => x.store (statusBytes (sh.place o) f))
          | none => s
        let s := s.modGroup m.t m.g (fun G => G.write (.bcd (bcdWord f.degree 2)))
        let s := match m.stage with
          | some (r, g) => s.modTeam m.t (fun T =>
              let n := (T.stage r g).pending - 1
              (T.setStage r g { full := n == 0, pending := n }).stageSettle r g)
          | none => s
        let win := ((s.team? m.t).map (fun T => s.queue T.queue)).getD WorkQueue.off
        let s := match m.tdec with
          | some n => if win.window n then s.sendDec n else (s.modErrs (fun e => { e with sched := e.sched + 1 })).raise 3
          | none => s
        some (s.freeRanges m.t m.j))

/-! ### OBRES and OBREL (R175 to R177, R530, R531) -/

/-- Are the fields of an OBRES lawful (R175)? -/
def rangeOk (sh : Share) (n : Nat) (off : Nat) (r : RangeRec) : Bool :=
  let scale (bit o : Nat) : Bool := if r.form.getLsbD bit then o % 16 == 0 && decide (o < r.len) else o == 0
  let log := fldN r.form 8 3
  (sh.range n).st == .free && off % 512 == 0 && r.len % 512 == 0 && r.len != 0 && decide (off + r.len ≤ sh.obufLen) &&
  sh.ranges.all (fun q => q.2.st == .free || decide (q.2.base + q.2.len ≤ r.base) || decide (r.base + r.len ≤ q.2.base)) &&
  scale 16 r.bsoff && scale 17 r.rsoff && scale 18 r.csoff &&
  (log == 0 || log == 5) && (r.form.getLsbD 16 == (log == 5)) && fldN r.form 5 3 == 0 && fldN r.form 11 5 == 0 && fldN r.form 19 13 == 0

/-- OBRES (R175). -/
def execObres (w : RIWord) (s : State) : Host.Outcome State Fault Refusal :=
  issueG (.obres w) s (fun x s =>
    let a := srcNum w.a
    let n := dstNum w.d
    let v (i : Nat) : Nat := (x.env.s (a + i)).toNat
    let r : RangeRec := { base := x.sh.obufBase + v 0, len := v 1, form := x.env.s (a + 2), bsoff := v 3, rsoff := v 4, csoff := v 5, st := .reserved }
    if !typeListed (fldN r.form 0 5) then .trap s { cause := 0x02 }
    else if !rangeOk x.sh n (v 0) r then .trap s { cause := 0x41 }
    else
      let zero : List (PAddr × Byte) := (upFrom 0 r.len).map (fun i => ({ store := .obuf, unit := x.c, off := r.base + i }, 0))
      .done ((s.modMem (fun m => m.store zero)).modShare x.t x.G.core (fun sh => { sh with ranges := spPut RangeRec.free sh.ranges n r })) {})

/-- OBREL (R176). -/
def execObrel (w : RIWord) (s : State) : Host.Outcome State Fault Refusal :=
  issueG (.obrel w) s (fun x s =>
    let n := srcNum w.a
    if (x.sh.range n).st != .reserved then .trap s { cause := 0x41 }
    else
      .done ((s.modShare x.t x.G.core (fun sh => { sh with ranges := spPut RangeRec.free sh.ranges n { sh.range n with st := .releasing } })).freeRanges x.t x.G.core) {})

/-! ### Transform bindings (R256, R257) -/

/-- Are the check and the fixed fields of a binding block as R256 states? -/
def bindingOk (bs : List Byte) : Bool :=
  let n (lo len : Nat) : Nat := bytesNat ((bs.drop lo).take len)
  n 272 4 == crc32c (bs.take 272) && n 1 3 == 0 && n 6 2 == 0 && n 276 12 == 0 &&
  (match n 0 1 with
    | 0xB0 | 0xB2 => true
    | 0xB3 => n 4 2 == 0 && n 144 128 == 0
    | _ => false)

/-- A word of format E whose fields are all zero. -/
def plainE : EWord :=
  { hdr := { runEnd := false, noWrite := false, guard := 0 }, stg := false, tdec := false, sts := false, ver := false, dside := Side.none, sside := Side.none,
    xl := 0, dim := 0, p0 := .s 0, p1 := .s 0, p2 := .s 0, p3 := .s 0, p4 := .s 0 }

/-- What a binding comes to. -/
inductive BindOut where
  | wait (s : State)
  | failed (s : State) (c : Byte)
  | gone (s : State)
  | done (s : State)

/-- The command of a binding block (R257). -/
def bindingCmd (T : Team) (j : Nat) (bs : List Byte) (recbase : DWord) : CopyCmd × Option DWord :=
  let n (lo len : Nat) : Nat := bytesNat ((bs.drop lo).take len)
  let op : Instr := match n 0 1 with | 0xB0 => .cpy plainE | 0xB2 => .cpyz plainE | _ => .cpyf plainE
  let side (lay : Nat) : SideVal := { sel := 0, num := 0, lay := BitVec.ofNat 1024 lay, recAddr := 0, image := none, range := none }
  ({ plainCmd op T.id 0 j T.asn (side (n 16 128)) with fill := BitVec.ofNat 64 (n 8 8), binding := true },
   if n 0 1 = 0xB3 then none else some (recordAddr recbase (BitVec.ofNat 16 (n 4 2))))

/-- Executes a binding whose command is ready. -/
def State.bindRun (s : State) (T : Team) (sh : Share) (m : CopyCmd) : BindOut :=
  match s.copyChecks T sh m with
  | (_, some c) => .failed s c
  | (_, none) =>
    match s.runCopy T sh m with
    | .wait s => .wait s
    | .fault s c _ => .failed s c
    | .gone s => .gone s
    | .started s f => .done (s.engineWrite f.last)

/-- Executes one transform binding of a share. A block that cannot be read, whose check or fields are broken, or whose layouts are not well formed is a failed binding (R103, R257). -/
def State.bindOne (s : State) (T : Team) (j : Nat) (sh : Share) (at_ : DWord) : BindOut :=
  match s.engineRead T sh false 288 at_ with
  | .inl (.cause c _) => .failed s c
  | .inl (.poisoned sp) => .gone (if sp then s.killSpace T.asn else s.killIntegrity T.id)
  | .inl .cut => .gone (s.killTeam T.id 0x50)
  | .inl (.resid _ a) => .wait (s.engineFault sh.core T.asn false a)
  | .inl _ => .wait s
  | .inr ps =>
    let bs := s.bytesAt ps
    let s := (s.warmRange T sh false at_ 288).scrub ((ps.map PAddr.line).eraseDups)
    if !bindingOk bs then .failed s (if bytesNat ((bs.drop 272).take 4) == crc32c (bs.take 272) then 0x02 else 0x28)
    else
      let (m, a) := bindingCmd T j bs T.recbase
      let lay : LayBits := BitVec.ofNat 1024 (bytesNat ((bs.drop 144).take 128))
      if !layWf m.dst.lay || (a.isSome && !layWf lay) then .failed s 0x02
      else match a with
        | none => s.bindRun T sh m
        | some a =>
          match s.useRecord sh.core T.asn a T.id (.seq T.id j) with
          | .stall s => .wait s
          | .cause s c => if c == 0x50 then .gone (s.killIntegrity T.id) else .failed s c
          | .image s x => s.bindRun T sh { m with src := some { sel := 1, num := 0, lay := lay, recAddr := a, image := some x, range := none } }

end Sys2Proof.Machine
end

