-- ==== Sys2Proof/Machine/Matrix.lean ====
section
/-! DEFINITION. The matrix engine: MMA, MMAB, MMAT, ACLR, ADRN, their starts and ends, AXFR, and the control of the stream (R156 to R161, R178 to R203, R448, R452 to R456, R519 to R523, R556). -/

namespace Sys2Proof.Machine

/-! ### Tiles (R179) -/

/-- The place of element (i, j) of tile `n` of a share. -/
def Share.tileAt (sh : Share) (n i j : Nat) : PAddr := { store := .acc, unit := sh.core, off := 16384 * nth 0 sh.tiles n + 256 * i + 4 * j }

/-- The word of an element. -/
def State.tileWord (s : State) (sh : Share) (n i j : Nat) : Word := BitVec.ofNat 32 (s.mem.num (sh.tileAt n i j) 4)

/-- The rows and columns of a tile. -/
def tileRange : List Nat := upFrom 0 64

/-! ### Arithmetic (R156 to R159) -/

/-- The sum of a block of products (R156). -/
def blockSum (ps : List FVal) : FVal :=
  let infs := ps.filter (fun p => match p with | .inf _ => true | _ => false)
  if ps.contains .nan || (infs.contains (.inf true) && infs.contains (.inf false)) then .nan
  else match infs with
    | x :: _ => x
    | [] =>
      match topExp ps with
      | none => .fin (ps.all isNegZero) 0 0
      | some emax =>
        let u := emax - 40
        let n := ps.foldl (fun (a : Int) p =>
          match p with
          | .fin neg m e =>
            let q : Nat := if u ≤ e then m * 2 ^ (e - u).toNat else m / 2 ^ (u - e).toNat
            if neg then a - q else a + q
          | _ => a) 0
        .fin (decide (n < 0)) n.natAbs u

/-- A value times a power of two. -/
def scaleBy (x : FVal) (k : Int) : FVal :=
  match x with
  | .fin neg m e => .fin neg m (e + k)
  | y => y

/-- The words that a float instruction adds to an element (R157, R158): one for each block of 16, or under `scales` one for each 32. -/
def floatAdds (as bs : List FVal) (scales : Option (Nat → Nat × Nat)) : List Word :=
  let ps := (as.zip bs).map (fun x => fmulExact x.1 x.2)
  let blocks := (chunks 16 ps.length ps).map blockSum
  match scales with
  | none => blocks.map (fun b => BitVec.ofNat 32 (rne32 b))
  | some sc => (chunks 2 blocks.length blocks).zipIdx.map (fun x =>
      let (sa, sb) := sc x.2
      let sum := faddExact .rne (nth (.fin false 0 0) x.1 0) (nth (.fin false 0 0) x.1 1)
      if sa = 0xFF ∨ sb = 0xFF then BitVec.ofNat 32 (canonNan fmt32)
      else BitVec.ofNat 32 (rne32 (scaleBy sum ((sa : Int) - 127 + ((sb : Int) - 127)))))

/-- The exact sum that an integer instruction adds to an element (R159). -/
def intAdd (as bs : List Int) : Word := BitVec.ofInt 32 ((as.zip bs).foldl (fun a x => a + x.1 * x.2) 0)

/-- The integer value of an I8 or TRN code (R143). -/
def intCode (t x : Nat) : Int := if t = 0x18 then (match x % 4 with | 1 => 1 | 3 => -1 | _ => 0) else signedOf 8 x

/-- The float value of an operand's code. -/
def floatCode (t x : Nat) : FVal := fdecode ((fmtOf t).getD fmt32) x

/-- An element updated by what an instruction adds, and whether the add saturated (R157 to R159). -/
def addTo (int : Bool) (old : Word) (adds : List Word) : Word × Bool :=
  if int then
    let x := old.toInt + (nth 0 adds 0).toInt
    let y := clampInt (intRange 32 true) x
    (BitVec.ofInt 32 y, x != y)
  else (adds.foldl (fun a w => BitVec.ofNat 32 (add32 a.toNat w.toNat)) old, false)

/-! ### Issue (R184, R189, R197, R199, R453, R523) -/

/-- A Q word whose fields are all zero. -/
def noQ : QWord :=
  let h : Hdr := { runEnd := false, noWrite := false, guard := 0 }
  ⟨h, false, 0, Side.none, Side.none, Side.none, 0, 0, 0, false, false, 0⟩

/-- The operation and the fields of a matrix instruction. -/
def matWord (i : Instr) : MatOp × QWord :=
  match formOf i with
  | .q k w => (k, w)
  | _ => (.aclr, noQ)

/-- The tile that a word names (R422). -/
def tileOf (w : QWord) (e : Env) : Nat := if w.tq then (e.s w.tile.toNat).toNat else w.tile.toNat

/-- K of a multiplier instruction (R188). -/
def kOf (w : QWord) : Nat := if w.tb == 0x18 then 128 else kOfType w.ta.toNat

/-- Is the type quantised (R161)? -/
def isQuantT (t : Nat) : Bool := t == 0x13 || t == 0x14 || t == 0x15

/-- The share as an instruction at an address sees it that the stream issues again after a halt: a range that its abandoned command names is still reserved to it (R176, R201). -/
def Share.forRedo (sh : Share) (pc : DWord) : Share :=
  if sh.redo == [] then sh
  else { sh with ranges := sh.ranges.map (fun r =>
    if r.2.st == .releasing && sh.redo.any (fun m => m.pc == pc && m.sides.any (·.names r.1)) then (r.1, { r.2 with st := .reserved }) else r) }

/-- Opens a side of a Q word. -/
def SeqCtx.openSide (x : SeqCtx) (s : State) (d : Side) : Opened :=
  s.openSide x.T (x.sh.forRedo x.pc) d (x.layout d.lay.toNat) (spGet 0 x.sh.seq.h d.num.toNat) (.seq x.t x.j)

/-- The operand of a matrix side: its size is that of its type. -/
def matOperand (v : SideVal) (len table t : Nat) : Operand :=
  let o := v.operand len table false
  match o.r, v.range with
  | none, none => { o with V := linearView len (codeBits t), bits := codeBits t }
  | _, _ => o

/-- Does the ESZ of a side differ from its type's size: for team space always, for a range unless it is 0 (R189)? -/
def eszClash (v : SideVal) (o : Operand) (t : Nat) : Bool := eszBits o.L.esz != codeBits t && !(v.range.isSome && o.L.esz == 0)

/-- Does a range hold 32 × 32 block scales (R192, R199)? -/
def RangeRec.scaled (r : RangeRec) : Bool := fldN r.form 8 3 == 5 && r.form.getLsbD 16

/-- The checks on the operands of a multiplier instruction, in their order (R189, R110, R523). -/
def mulCause (x : SeqCtx) (k : MatOp) (w : QWord) (tile : Nat) (a b : SideVal) : Option Byte :=
  let len := x.sh.scratchLen
  let oa := matOperand a len 3 w.ta.toNat
  let ob := matOperand b len 4 w.tb.toNat
  let fmtBad (v : SideVal) (t : Nat) : Bool := match v.range with | some r => r.fmt != t | none => false
  let unscaled (v : SideVal) : Bool := match v.range with | some r => !r.scaled | none => true
  if fmtBad a w.ta.toNat || fmtBad b w.tb.toNat || decide (x.sh.tiles.length ≤ tile) then some 0x41
  else if eszClash a oa w.ta.toNat || eszClash b ob w.tb.toNat then some 0x20
  else if (oa.accept 3 (kOf w)).cls = 2 || (ob.accept 4 (kOf w)).cls = 2 then some 0x20
  else if k == .mmab && (unscaled a || unscaled b) then some 0x41
  else (a.boundsTest oa x.T none).or (b.boundsTest ob x.T none)

/-- Is the unit of a share free to take one more instruction (R184)? -/
def MatUnit.full (u : MatUnit) : Bool := u.waiting.isSome

/-- Passes an instruction to its unit; a command that a halt had abandoned is then issued again (R201). -/
def SeqCtx.pass (x : SeqCtx) (s : State) (drain : Bool) (m : MatCmd) : Res :=
  let s := s.bumpStamp
  let m := { m with order := s.ctl.stamp }
  .done (s.modShare x.t x.j (fun sh =>
    let sh := { sh with redo := sh.redo.eraseP (fun r => r.pc == x.pc) }
    if drain then { sh with drain := { sh.drain with waiting := some m } } else { sh with mul := { sh.mul with waiting := some m } })) {}

/-- The command of a word with nothing opened. -/
def SeqCtx.cmd (x : SeqCtx) (tile count : Nat) : MatCmd := { instr := x.i, pc := x.pc, tile := tile, count := count, a := none, b := none, z := none, order := 0 }

/-- MMA, MMAB and MMAT (R188, R189, R523). -/
def mulBody (k : MatOp) (w : QWord) (x : SeqCtx) (s : State) : Res :=
  if x.sh.mul.full then .stall s
  else match x.openSide s w.x with
    | .stall s => .stall s
    | .cause s c => recCause x.t s c
    | .ok s a =>
      match x.openSide s w.y with
      | .stall s => .stall s
      | .cause s c => recCause x.t s c
      | .ok s b =>
        let n := tileOf w x.env
        match mulCause x k w n a b with
        | some c => .trap s { cause := c }
        | none => x.pass s false { x.cmd n 1 with a := some a, b := some b }

/-- ACLR (R194, R448). -/
def aclrBody (w : QWord) (x : SeqCtx) (s : State) : Res :=
  if x.sh.mul.full then .stall s
  else
    let t := tileOf w x.env
    let n := w.cnt.toNat + 1
    if x.sh.tiles.length < t + n then .trap s { cause := 0x41 } else x.pass s false (x.cmd t n)

/-- The operand of a drain's destination. -/
def drainOperand (v : SideVal) (len t : Nat) : Operand :=
  let o := v.operand len 5 false
  match o.r, v.range with
  | none, none => { o with ok := o.ok && o.bits == codeBits t }
  | _, _ => o

/-- Is a record destination of a quantised output as R199 asks? -/
def quantRecordOk (o : Operand) : Bool :=
  match o.r with
  | some r => r.skind % 2 == 1 && o.L.modes == [{ ext := 64, tag := 0, rev := false, step := 1 }, { ext := 64, tag := 1, rev := false, step := 1 }] &&
      nth 0 o.L.origin 0 % 32 == 0 && nth 0 o.L.origin 1 % 32 == 0
  | none => false

/-- The checks on one destination of a drain that give cause 0x41, then those that give 0x20, then the bounds (R110, R199, R453). -/
def drainCause41 (v : SideVal) (t : Nat) : Bool := match v.range with | some r => r.fmt != t | none => false
def drainCause20 (o : Operand) (t : Nat) : Bool :=
  (match o.r with | some r => r.fmt != t | none => false) || (o.L.esz != 0 && eszBits o.L.esz != codeBits t)
def drainQuant (v : SideVal) (o : Operand) (t : Nat) : Option Byte :=
  if !isQuantT t then none
  else match v.range with
    | some r => if r.scaled then none else some 0x41
    | none => if quantRecordOk o then none else some 0x20

/-- The address of the scale code of block (a, b) of an output (R166, R199); none where it is not written. -/
def scaleAddr (v : SideVal) (o : Operand) (trans : Bool) (a b : Nat) : Option EngAddr :=
  match o.r, v.range with
  | some r, _ =>
    let i := if trans then 32 * a + 64 * (32 * b) else 32 * b + 64 * (32 * a)
    let co := (o.L.index i).1
    if o.V.inb co then
      let nb0 := ceilDiv (nth 0 r.ext 0) 32
      let nb1 := ceilDiv (nth 0 r.ext 1) 32
      let plane := ((co.zip r.ext).drop 2).reverse.foldl (fun (p : Int) x => if x.2 = 0 then p else p * x.2 + x.1) 0
      let off := (plane * nb1 + nth 0 co 1 / 32) * nb0 + nth 0 co 0 / 32
      some (.glb (r.bscale + BitVec.ofInt 64 off) false)
    else none
  | none, some g => some (.range (g.base + g.bsoff + (if trans then 2 * b + a else 2 * a + b)))
  | none, none => none

/-- The places in global space of some addresses, so far as their pages are resident. -/
def State.glbPlaces (s : State) (T : Team) (sh : Share) (as : List EngAddr) : List PAddr :=
  as.filterMap (fun a => match a with
    | .glb _ _ => (match s.engineFind T sh Need.store 1 a with | .place p => some p | _ => none)
    | _ => none)

/-- The windows' checks on a drain's destination of type `t`: its elements, and the scale codes of a quantised output, which are of one byte (R199, R325). -/
def State.drainMarks (s : State) (T : Team) (sh : Share) (v : SideVal) (o : Operand) (t : Nat) (trans : Bool) : Option Byte :=
  let elems := s.glbPlaces T sh ((((upFrom 0 o.L.size).map (o.L.pos o.V)).filter (·.inb)).map (v.addr o))
  let codes := if isQuantT t then s.glbPlaces T sh ([(0, 0), (0, 1), (1, 0), (1, 1)].filterMap (fun ab => scaleAddr v o trans ab.1 ab.2)) else []
  if (elems ++ codes).any (fun a => (s.marks a).unmapped) then some 0x58
  else if (o.bits != 32 && elems.any s.additive) || codes.any s.additive then some 0x20
  else none

/-- The checks of a drain on all its destinations. -/
def State.drainCause (s : State) (x : SeqCtx) (tile : Nat) (ds : List (SideVal × Nat)) : Option Byte :=
  let os := ds.map (fun d => (d.1, drainOperand d.1 x.sh.scratchLen d.2, d.2))
  let firstOf (f : SideVal × Operand × Nat → Option Byte) : Option Byte := os.foldl (fun a o => a.or (f o)) none
  if decide (x.sh.tiles.length ≤ tile) || ds.any (fun d => drainCause41 d.1 d.2) then some 0x41
  else if os.any (fun o => drainCause20 o.2.1 o.2.2) then some 0x20
  else (firstOf (fun o => drainQuant o.1 o.2.1 o.2.2)).or (
    (firstOf (fun o => if (o.2.1.accept 5 0).cls = 2 then some 0x20 else none)).or (
      (firstOf (fun o => o.1.boundsTest o.2.1 x.T none)).or ((os.zipIdx.map (fun o => s.drainMarks x.T x.sh o.1.1 o.1.2.1 o.1.2.2 (o.2 == 1))).foldl (fun a c => a.or c) none)))

/-- Does a range that a drain writes take cause 0x41: one that is not reserved, or of another format than its output (R453)? -/
def Share.drainRangeBad (sh : Share) (d : Side) (t : Nat) : Bool :=
  d.sel.toNat == 2 && (let r := sh.range d.num.toNat
    r.st != .reserved || r.fmt != t)

/-- What stops a drain with cause 0x41 before anything is read: its tile, its ranges (R198, R453). -/
def SeqCtx.drainEarly (x : SeqCtx) (w : QWord) : Bool :=
  let sh := x.sh.forRedo x.pc
  decide (sh.tiles.length ≤ tileOf w x.env) || sh.drainRangeBad w.x w.ta.toNat || (w.tr && sh.drainRangeBad w.y w.tb.toNat) ||
  (w.z != Side.none && (sh.range w.z.num.toNat).st != .reserved)

/-- ADRN (R197, R453). -/
def adrnBody (w : QWord) (x : SeqCtx) (s : State) : Res :=
  if x.sh.drain.full then .stall s
  else if x.drainEarly w then .trap s { cause := 0x41 }
  else match x.openSide s w.x with
    | .stall s => .stall s
    | .cause s c => recCause x.t s c
    | .ok s d =>
      let rest (s : State) (e : Option SideVal) (z : Option SideVal) : Res :=
        let n := tileOf w x.env
        match s.drainCause x n ((d, w.ta.toNat) :: (e.toList.map (fun v => (v, w.tb.toNat)))) with
        | some c => .trap s { cause := c }
        | none => x.pass s true { x.cmd n 1 with a := some d, b := e, z := z }
      let scales (s : State) (e : Option SideVal) : Res :=
        if w.z == Side.none then rest s e none
        else match x.openSide s w.z with
          | .stall s => .stall s
          | .cause s c => recCause x.t s c
          | .ok s z => rest s e (some z)
      if w.tr then
        match x.openSide s w.y with
        | .stall s => .stall s
        | .cause s c => recCause x.t s c
        | .ok s e => scales s (some e)
      else scales s none

/-- MMA (R188). -/
def execMma (w : QWord) (s : State) : Host.Outcome State Fault Refusal := issueS (.mma w) s (mulBody .mma w)
/-- MMAB (R192). -/
def execMmab (w : QWord) (s : State) : Host.Outcome State Fault Refusal := issueS (.mmab w) s (mulBody .mmab w)
/-- MMAT (R193). -/
def execMmat (w : QWord) (s : State) : Host.Outcome State Fault Refusal := issueS (.mmat w) s (mulBody .mmat w)
/-- ACLR (R194). -/
def execAclr (w : QWord) (s : State) : Host.Outcome State Fault Refusal := issueS (.aclr w) s (aclrBody w)
/-- ADRN (R197). -/
def execAdrn (w : QWord) (s : State) : Host.Outcome State Fault Refusal := issueS (.adrn w) s (adrnBody w)

/-! ### Starts (R184, R185, R190) -/

/-- Does an instruction of the multiplier unit write a tile? -/
def MatCmd.writesTile (m : MatCmd) (n : Nat) : Bool := decide (m.tile ≤ n) && decide (n < m.tile + m.count)

/-- Do two instructions concern one tile? -/
def MatCmd.shares (a b : MatCmd) : Bool := decide (a.tile < b.tile + b.count) && decide (b.tile < a.tile + a.count)

/-- May the waiting instruction of a unit start by R185 and R454? A drain that waits for a page has not read its tile. -/
def Share.mayStart (sh : Share) (drain : Bool) (m : MatCmd) : Bool :=
  if drain then
    (sh.mul.waiting.toList ++ sh.mul.started.toList.map (·.cmd)).all (fun o => !(decide (o.order < m.order) && o.shares m))
  else
    sh.drain.waiting.toList.all (fun o => !(decide (o.order < m.order) && o.shares m)) &&
    sh.drain.started.toList.all (fun r => !((r.held || (matWord r.cmd.instr).2.zc) && decide (r.cmd.order < m.order) && r.cmd.shares m))

/-- What a feeder finds of its operand at (k, r): the place and bit of a code, or why it reads none there; none where the layout does not reach it (R126, R522). -/
def State.feedAt (s : State) (T : Team) (sh : Share) (v : SideVal) (o : Operand) (k r : Nat) : Option (ElemRes ⊕ (PAddr × Nat)) :=
  let sizes := o.L.tops.map (fun g => g.foldl (fun a m => a * m.ext) 1)
  let n0 := nth 0 sizes 0
  if k < n0 ∧ r < nth 0 sizes 1 then
    let p := o.L.pos o.V (k + n0 * r)
    if !o.V.aligned p then some (.inl (.cause 0x16 none))
    else match s.readPlace T sh (elemBytes o.bits) (v.addr o p) with
      | .inl x => some (.inl x)
      | .inr a => some (.inr (a, p.bit))
  else none

/-- The rows of an operand over k as a feeder finds them. -/
def State.feedRows (s : State) (T : Team) (sh : Share) (v : SideVal) (o : Operand) (kmax : Nat) : List (List (Option (ElemRes ⊕ (PAddr × Nat)))) :=
  tileRange.map (fun r => (upFrom 0 kmax).map (fun k => s.feedAt T sh v o k r))

/-- The first code that a feeder does not read, and why. -/
def feedStop (rows : List (List (Option (ElemRes ⊕ (PAddr × Nat))))) : Option ElemRes :=
  rows.findSome? (fun row => row.findSome? (fun x => match x with | some (.inl y) => some y | _ => none))

/-- The lines that a feeder reads. -/
def feedLines (rows : List (List (Option (ElemRes ⊕ (PAddr × Nat))))) : List Nat :=
  (rows.flatMap (fun row => row.filterMap (fun x => match x with | some (.inr a) => some a.1.line | _ => none))).eraseDups

/-- The codes of an operand's rows as numbers, unreached positions zero. -/
def State.feedNums (s : State) (o : Operand) (rows : List (List (Option (ElemRes ⊕ (PAddr × Nat))))) : List (List Nat) :=
  rows.map (fun row => row.map (fun x => match x with | some (.inr a) => s.mem.elem a.1 a.2 o.bits | _ => 0))

/-- The place of the scale code of a coordinate of an MMAB operand (R192). -/
def scaleCodeAt (sh : Share) (g : RangeRec) (kmax r b : Nat) : PAddr :=
  { store := .obuf, unit := sh.core, off := g.base + g.bsoff + r / 32 * (kmax / 32) + b }

/-- The scale code of a coordinate of an MMAB operand. -/
def State.scaleCode (s : State) (sh : Share) (v : SideVal) (kmax r b : Nat) : Nat :=
  match v.range with
  | some g => s.mem.num (scaleCodeAt sh g kmax r b) 1
  | none => 0

/-- The lines of an operand's scale codes. -/
def scaleLines (sh : Share) (v : SideVal) (kmax : Nat) : List Nat :=
  match v.range with
  | some g => (tileRange.flatMap (fun r => (upFrom 0 (kmax / 32)).map (fun b => (scaleCodeAt sh g kmax r b).line))).eraseDups
  | none => []

/-- The lines of a tile. -/
def Share.tileLines (sh : Share) (n : Nat) : List Nat := upFrom (sh.tileAt n 0 0).line 256

/-- Replaces the waiting and started instructions of a unit. -/
def Share.setUnit (sh : Share) (drain : Bool) (u : MatUnit) : Share := if drain then { sh with drain := u } else { sh with mul := u }

/-- The start of MMA, MMAB or MMAT: its operands are read, their check words with them, and BCDM is written (R190, R385, R556). -/
def State.startMul (s : State) (T : Team) (j : Nat) (sh : Share) (m : MatCmd) : State :=
  let (k, w) := matWord m.instr
  match m.a, m.b with
  | some a, some b =>
    let oa := matOperand a sh.scratchLen 3 w.ta.toNat
    let ob := matOperand b sh.scratchLen 4 w.tb.toNat
    let kmax := kOf w
    let ra := s.feedRows T sh a oa kmax
    let rb := s.feedRows T sh b ob kmax
    let lines := feedLines (ra ++ rb) ++ (if k == .mmab then scaleLines sh a kmax ++ scaleLines sh b kmax else [])
    match feedStop (ra ++ rb) with
    | some (.cause c _) => ((s.modShare T.id j (fun sh => sh.setUnit false { sh.mul with waiting := none })).freeRanges T.id j).seqTrap T.id j c
    | some (.poisoned sp) => if sp then s.killSpace T.asn else s.killIntegrity T.id
    | some .cut => s.killTeam T.id 0x50
    | some (.resid wr va) => s.engineFault sh.core T.asn wr va
    | some _ => s
    | none =>
      if s.mem.poisoned lines then s.killIntegrity T.id else
      let s := s.scrub lines
      let na := s.feedNums oa ra
      let nb := s.feedNums ob rb
      let int := w.ta == 1
      let adds : List (List Word) :=
        if int then
          let ia := na.map (fun r => r.map (intCode w.ta.toNat))
          let ib := nb.map (fun r => r.map (intCode w.tb.toNat))
          ia.flatMap (fun x => ib.map (fun y => [intAdd x y]))
        else
          let fa := na.map (fun r => r.map (floatCode w.ta.toNat))
          let fb := nb.map (fun r => r.map (floatCode w.tb.toNat))
          fa.zipIdx.flatMap (fun x => fb.zipIdx.map (fun y => floatAdds x.1 y.1
            (if k == .mmab then some (fun c => (s.scaleCode sh a kmax x.2 c, s.scaleCode sh b kmax y.2 c)) else none)))
      let deg (v : SideVal) (o : Operand) : Nat := v.degree o T sh (beatElems o.bits) ((upFrom 0 o.L.size).map (o.L.pos o.V))
      let da := deg a oa
      let db := deg b ob
      let run : MatRun := { cmd := m, held := false, adds := adds, outs := [], captures := [], trnx := w.tb == 0x18 && nb.any (fun r => r.any (fun x => x % 4 == 2)), degree := max da db }
      s.modShare T.id j (fun sh => { sh.setUnit false { started := some run, waiting := none } with watchdog := s.pkg.time.toNat, bcdm := bcdWord (max da db) (if da ≤ db then 4 else 3) })
  | _, _ => s

/-! ### The drain (R160, R161, R197 to R200) -/

/-- The lines of the row and column scales that range Os has. -/
def vecLines (sh : Share) (z : Option SideVal) : List Nat :=
  match z.bind (·.range) with
  | none => []
  | some g =>
    let at_ (off : Nat) : List Nat := (upFrom 0 256).map (fun i => ({ store := .obuf, unit := sh.core, off := g.base + off + i } : PAddr).line)
    ((if g.form.getLsbD 17 then at_ g.rsoff else []) ++ (if g.form.getLsbD 18 then at_ g.csoff else [])).eraseDups

/-- The row or column scales of range Os; all 1.0 where they are absent (R198). -/
def State.vecScale (s : State) (sh : Share) (z : Option SideVal) (row : Bool) (i : Nat) : Option Nat :=
  match z.bind (·.range) with
  | none => none
  | some g =>
    if g.form.getLsbD (if row then 17 else 18) then some (s.mem.num { store := .obuf, unit := sh.core, off := g.base + (if row then g.rsoff else g.csoff) + 4 * i } 4)
    else some 0x3F800000

/-- The FP32 value x of a tile element (R160). -/
def State.drainX (s : State) (sh : Share) (m : MatCmd) (w : QWord) (i j : Nat) : Nat :=
  let t := s.tileWord sh m.tile i j
  let v := if w.tc == 3 then rne32 (.fin (decide (t.toInt < 0)) t.toInt.natAbs 0) else t.toNat
  match s.vecScale sh m.z true i, s.vecScale sh m.z false j with
  | some r, some c => mul32 (mul32 v r) c
  | _, _ => v

/-- The code of an output element of type `t` that is not quantised (R160). -/
def outCode (t : Nat) (raw : Word) (x : Nat) : Nat :=
  if t = 3 then raw.toNat else fencode ((fmtOf t).getD fmt32) .rne false false (fdecode fmt32 x)

/-- The scale codes of a quantised output: block (a, b) is number 2a + b (R161, R198). -/
def outScales (t : Nat) (xs : Nat → Nat → Nat) : List Nat :=
  [(0, 0), (0, 1), (1, 0), (1, 1)].map (fun ab =>
    blockScale t ((upFrom (32 * ab.1) 32).flatMap (fun i => (upFrom (32 * ab.2) 32).map (fun j => fdecode fmt32 (xs i j)))))

/-- The writes that an output makes: its 4096 elements in index order, each with its address, then its scale codes. -/
def outWrites (v : SideVal) (o : Operand) (t : Nat) (trans : Bool) (raw : Nat → Nat → Word) (xs : Nat → Nat → Nat) : List (Option (EngAddr × Nat × Nat × Nat) ⊕ Unit) :=
  let scales := if isQuantT t then outScales t xs else []
  let elems := (upFrom 0 4096).map (fun n =>
    let (i, j) := if trans then (n % 64, n / 64) else (n / 64, n % 64)
    let p := o.L.pos o.V n
    let code := if isQuantT t then quantElem t (nth 0 scales (2 * (i / 32) + j / 32)) (fdecode fmt32 (xs i j)) else outCode t (raw i j) (xs i j)
    if !p.inb then .inl none
    else if !o.V.aligned p then .inr ()
    else .inl (some (v.addr o p, p.bit, o.bits, code)))
  elems ++ (if isQuantT t then [(0, 0), (0, 1), (1, 0), (1, 1)].map (fun ab =>
    .inl ((scaleAddr v o trans ab.1 ab.2).map (fun a => (a, 0, 8, nth 0 scales (2 * ab.1 + ab.2))))) else [])

/-- What one write of a drain comes to. -/
def State.drainRes (s : State) (T : Team) (sh : Share) (x : Option (EngAddr × Nat × Nat × Nat) ⊕ Unit) : ElemRes :=
  match x with
  | .inr _ => .cause 0x16 none
  | .inl none => .ok true none []
  | .inl (some (a, bit, bits, code)) =>
    match s.writePlace T sh (elemBytes bits) a with
    | .inl r => r
    | .inr pa => .ok false (some { pa := pa, bit := bit, bits := bits, val := BitVec.ofNat 64 code }) []

/-- The first element of the beat that holds write `n` of a drain whose outputs have beats of so many elements: 4096 elements of each, then its scale codes (R233). -/
def beatStart : List (Nat × Nat) → Nat → Nat
  | [], n => n
  | (per, len) :: r, n => if n < len then (if n < 4096 then n / per * per else n) else len + beatStart r (n - len)

/-- The reset of the engine takes the contents of the team's ranges away; what a copy in flight has written to them lands after that (R202). -/
def State.landAgain (s : State) (core : Nat) : State :=
  match (s.core core).cur with
  | some f => s.engineWrite (f.first.filter (·.pa.store == .obuf))
  | none => s

/-- The start of an ADRN: it reads its tile and writes all but its last beat. Where the first write that it cannot make waits for a page, the drain is started and held, with nothing read or written yet. A cause stops the stream at its beat (R233, R422). -/
def State.startDrain (s : State) (T : Team) (j : Nat) (sh : Share) (m : MatCmd) : State :=
  let (_, w) := matWord m.instr
  let raw (i k : Nat) : Word := s.tileWord sh m.tile i k
  let xs (i k : Nat) : Nat := s.drainX sh m w i k
  let outs := (m.a.toList.map (fun v => (v, w.ta.toNat, false))) ++ (m.b.toList.map (fun v => (v, w.tb.toNat, true)))
  let ops := outs.map (fun x => (x.1, drainOperand x.1 sh.scratchLen x.2.1))
  let todo := outs.flatMap (fun x => outWrites x.1 (drainOperand x.1 sh.scratchLen x.2.1) x.2.1 x.2.2 raw xs)
  let rs := todo.map (s.drainRes T sh)
  let n := rs.findIdx ElemRes.bad
  let beats := outs.map (fun x => (max 1 (beatElems (codeBits x.2.1)), if isQuantT x.2.1 then 4100 else 4096))
  let drop (s : State) : State := s.modShare T.id j (fun sh => sh.setUnit true { started := none, waiting := if sh.drain.started.isSome then sh.drain.waiting else none })
  let hold (s : State) : State := s.modShare T.id j (fun sh =>
    if sh.drain.started.isSome then sh
    else { sh.setUnit true { started := some { cmd := m, held := true, adds := [], outs := [], captures := [], trnx := false, degree := 0 }, waiting := none } with watchdog := s.pkg.time.toNat })
  let lines := sh.tileLines m.tile ++ vecLines sh m.z
  if s.mem.poisoned lines then s.killIntegrity T.id else
  match rs[n]? with
  | some (.resid wr va) => hold (s.engineFault sh.core T.asn wr va)
  | some .held => hold s
  | r =>
    let warm := (todo.take n).foldl (fun s x => match x with
      | .inl (some (a, _)) => s.engineWarm T sh Need.store a
      | _ => s) (s.scrub lines)
    match r with
    | some (.cause c _) => ((drop (warm.engineWrite (writesOf (rs.take (beatStart beats n))))).freeRanges T.id j).seqTrap T.id j c
    | some (.poisoned sp) => if sp then warm.killSpace T.asn else warm.killIntegrity T.id
    | some .cut => warm.killTeam T.id 0x50
    | some _ => s
    | none =>
      let last := 32
      let ws := writesOf rs
      let deg := ops.foldl (fun d o => max d (o.1.degree o.2 T sh (beatElems o.2.bits) ((upFrom 0 o.2.L.size).map (o.2.L.pos o.2.V)))) 1
      let run : MatRun := { cmd := m, held := false, adds := [], outs := ws.drop (ws.length - last), captures := warm.txBytes ws, trnx := false, degree := deg }
      (warm.engineWrite (ws.take (ws.length - last))).modShare T.id j (fun sh =>
        { sh.setUnit true { started := some run, waiting := if sh.drain.started.isSome then sh.drain.waiting else none } with watchdog := s.pkg.time.toNat })

/-- MATRIX_INSTRUCTION_START (R184, R185). A drain that is held at its first write is tried again. -/
def execMatrixInstructionStart (t j : Nat) (drain : Bool) (s : State) : Host.Outcome State Fault Refusal :=
  event s (
    match (s.team? t).bind (fun T => (T.share? j).map (fun sh => (T, sh))) with
    | none => none
    | some (T, sh) =>
      let u := if drain then sh.drain else sh.mul
      match u.started, u.waiting with
      | none, some m =>
        if T.phase != .running || !sh.mayStart drain m then none
        else if drain then some (s.startDrain T j sh m)
        else if (matWord m.instr).1 == .aclr then
          some (s.modShare t j (fun sh => { sh.setUnit false { started := some { cmd := m, held := false, adds := [], outs := [], captures := [], trnx := false, degree := 0 }, waiting := none } with watchdog := s.pkg.time.toNat }))
        else some (s.startMul T j sh m)
      | some r, _ => if T.phase == .running && r.held then some (s.startDrain T j sh r.cmd) else none
      | none, none => none)

/-! ### Ends (R191, R200, R454) -/

/-- The lines of the tile that a commit adds to: it reads them, as a feeder reads its operands (R157, R396). -/
def MatRun.oldLines (r : MatRun) (sh : Share) : List Nat :=
  let (k, w) := matWord r.cmd.instr
  if k == .aclr || w.zc then [] else sh.tileLines r.cmd.tile

/-- The writes of a commit: the new words of the tiles, and whether an add saturated. -/
def State.commitWords (s : State) (sh : Share) (r : MatRun) : List (PAddr × Byte) × Bool :=
  let (k, w) := matWord r.cmd.instr
  if k == .aclr then
    ((upFrom r.cmd.tile r.cmd.count).flatMap (fun n => tileRange.flatMap (fun i => tileRange.flatMap (fun j => numBytes (sh.tileAt n i j) 4 0))), false)
  else
    let out := r.adds.zipIdx.map (fun x =>
      let i := x.2 / 64
      let j := x.2 % 64
      let old := if w.zc then 0 else s.tileWord sh r.cmd.tile i j
      let (v, sat) := addTo (w.ta == 1) old x.1
      (numBytes (sh.tileAt r.cmd.tile i j) 4 v.toNat, sat))
    (out.flatMap (·.1), out.any (·.2))

/-- MATRIX_COMMIT (R191): all element updates at once, with the flags of R95. -/
def execMatrixCommit (t j : Nat) (s : State) : Host.Outcome State Fault Refusal :=
  event s (
    match (s.team? t).bind (fun T => T.share? j) with
    | none => none
    | some sh =>
      match sh.mul.started with
      | none => none
      | some r =>
        if s.mem.poisoned (r.oldLines sh) then some (s.killIntegrity t) else
        let s := s.scrub (r.oldLines sh)
        let (bs, sat) := s.commitWords sh r
        let s := s.modMem (fun m => m.store bs)
        let s := ((s.setTrnx t j r.trnx).setAsat t j sat).modShare t j (fun sh => { sh.setUnit false { sh.mul with started := none } with watchdog := s.pkg.time.toNat })
        some ((s.freeRanges t j).seqArrive t j))

/-- ADRN_COMPLETION (R200, R328, R454, R556). -/
def execAdrnCompletion (t j : Nat) (s : State) : Host.Outcome State Fault Refusal :=
  event s (
    match (s.team? t).bind (fun T => T.share? j) with
    | none => none
    | some sh =>
      match sh.drain.started with
      | none => none
      | some r =>
        if r.held then none else
        let s := (s.engineWrite r.outs).captureAll r.captures
        let s := if (matWord r.cmd.instr).2.zc then
            s.modMem (fun m => m.store (tileRange.flatMap (fun i => tileRange.flatMap (fun k => numBytes (sh.tileAt r.cmd.tile i k) 4 0))))
          else s
        let s := s.modShare t j (fun sh => { sh.setUnit true { sh.drain with started := none } with watchdog := s.pkg.time.toNat, bcdm := bcdWord r.degree 5 })
        some ((s.freeRanges t j).seqArrive t j))

/-- The 2^20 cycles of the watchdog in whole nanoseconds (R202, R91). -/
def watchdogLimit : Nat := 599187

/-- The reset of the engine that works for share `j` of a team (R202): commands discarded, the sequencer stopped, tiles and ranges zero, cause 0x40 for every group. -/
def State.engineReset (s : State) (T : Team) (j : Nat) (sh : Share) : State :=
  let none_ : MatUnit := { started := none, waiting := none }
  let tiles := (upFrom 0 sh.tiles.length).flatMap (fun n => tileRange.flatMap (fun i => tileRange.flatMap (fun k => numBytes (sh.tileAt n i k) 4 0)))
  let ranges := sh.ranges.flatMap (fun r => (upFrom 0 r.2.len).map (fun i => (({ store := .obuf, unit := sh.core, off := r.2.base + i } : PAddr), (0 : Byte))))
  let s := (s.modMem (fun m => m.store (tiles ++ ranges))).landAgain sh.core
  let s := s.modShare T.id j (fun sh => { sh with mul := none_, drain := none_, redo := [], watchdog := s.pkg.time.toNat, seq := { sh.seq with st := if sh.seq.st == .absent || sh.seq.st == .ended then sh.seq.st else .stopped } })
  let s := T.groups.foldl (fun s G => if G.place == .retired then s else s.deliver T.id G.gid { cause := 0x40, src := .teamWide, rank := 0, eaddr := some 0 }) s
  s.freeRanges T.id j

/-- Has the engine held a started instruction for 2^20 cycles since its last start, commit or completed drain? -/
def Share.hung (sh : Share) (now : Nat) : Bool :=
  (sh.mul.started.isSome || sh.drain.started.isSome) && decide (sh.watchdog + watchdogLimit ≤ now)

/-- MATRIX_ENGINE_RESET (R202). -/
def execMatrixEngineReset (core : Nat) (s : State) : Host.Outcome State Fault Refusal :=
  event s (
    match s.teams.findSome? (fun T => (upFrom 0 T.shares.length).findSome? (fun j => match T.share? j with
        | some sh => if sh.core == core && sh.hung s.pkg.time.toNat then some (T, j, sh) else none
        | none => none)) with
    | none => none
    | some (T, j, sh) => some (s.engineReset T j sh))

/-! ### AXFR (R195, R196, R455, R456) -/

/-- The tile and row of an AXFR, or its cause. -/
def axfrPlace (w : RIWord) (x : Ctx) : Byte ⊕ (Nat × Nat) :=
  let n := (x.env.src w.a 0).toNat
  let r := (x.env.src w.b 0).toNat
  if 63 < r then .inl 0x02 else if x.sh.tiles.length ≤ n then .inl 0x41 else .inr (n, r)

/-- AXFR_RD (R195); the row's check words are tested (R396). -/
def execAxfrRd (w : RIWord) (s : State) : Host.Outcome State Fault Refusal :=
  issueG (.axfrRd w) s (fun x s =>
    match axfrPlace w x with
    | .inl c => .trap s { cause := c }
    | .inr (n, r) =>
      let lines := upFrom (x.sh.tileAt n r 0).line 4
      if s.mem.poisoned lines then .gone (s.killIntegrity x.t)
      else .done (s.scrub lines) { writes := (upFrom 0 4).map (fun m => (8 + m, .v (dstNum w.d + m) x.ex (laneList.map (fun l => s.tileWord x.sh n r (16 * m + l))))) })

/-- AXFR_WR (R195). -/
def execAxfrWr (w : RIWord) (s : State) : Host.Outcome State Fault Refusal :=
  issueG (.axfrWr w) s (fun x s =>
    match axfrPlace w x with
    | .inl c => .trap s { cause := c }
    | .inr (n, r) =>
      let bs := (upFrom 0 4).flatMap (fun m => (lanesOf x.ex).flatMap (fun l => numBytes (x.sh.tileAt n r (16 * m + l)) 4 (x.env.v (srcNum w.c + m) l).toNat))
      .done (s.modMem (fun m => m.store bs)) {})

/-! ### The control of the stream (R186, R519) -/

/-- A jump of the stream. For a target that lies outside the bed and has no TARGET bit the manual states no order of causes; the model tests the bed first, since a core fetches no line outside it (DESIGN CHOICE, log 25). -/
def SeqCtx.jumpTo (x : SeqCtx) (s : State) (a : DWord) (wr : List (Nat × RegWrite)) : Res :=
  if x.T.launch.graft && !x.T.inBed x.sh.pinned a then .trap s { cause := 0x38 }
  else s.withTarget x.sh.core x.T.asn a (.done s { writes := wr, jump := some a })

/-- MLOOP (R186). -/
def execMloop (w : RIWord) (s : State) : Host.Outcome State Fault Refusal :=
  issueS (.mloop w) s (fun x s =>
    let q := dstNum w.d
    let v := x.env.s q - 1
    let wr : List (Nat × RegWrite) := [(0, .s q v)]
    if v == 0 then .done s { writes := wr } else x.jumpTo s (labelTarget w x.pc) wr)

/-- MJMP (R186). -/
def execMjmp (w : RIWord) (s : State) : Host.Outcome State Fault Refusal :=
  issueS (.mjmp w) s (fun x s => x.jumpTo s (labelTarget w x.pc) [])

/-- MEND (R186): it ends the stream once every matrix instruction has completed. -/
def execMend (w : RIWord) (s : State) : Host.Outcome State Fault Refusal :=
  issueS (.mend w) s (fun x s =>
    if !x.sh.matrixIdle then .stall s
    else .gone (s.modSeq x.t x.j (fun q => { q with st := .ended })))

end Sys2Proof.Machine
end

