-- ==== Sys2Proof/Machine/Launches.lean ====
section
/-! DEFINITION. Launch records, bed maps, and what a team needs of its cores (R24, R28 to R32, R174, R179, R206, R212, R300 to R304, R312, R313, R343, R344, R354, R355). -/

namespace Sys2Proof.Machine

/-! ### The launch record (R343) -/

/-- The number in `n` bytes at an offset. -/
def numAt (bs : List Byte) (lo n : Nat) : Nat := bytesNat ((bs.drop lo).take n)

/-- An optional offset: all ones for none. -/
def optOffset (x : Nat) : Option Nat := if x = 0xFFFFFFFF then none else some x

/-- The fields of a launch record (R343). -/
def launchOf (bs : List Byte) : Launch :=
  let n := numAt bs
  let fl := n 2 1
  let bit (k : Nat) : Bool := fl / 2 ^ k % 2 == 1
  { kind := n 0 1, prio := n 1 1, graft := bit 0, migr := bit 1, stepown := bit 2, priv := bit 3, succv := bit 4, cores := n 3 1,
    nv := n 4 2, nc := n 6 2, vbudV := 8 * n 8 1, vbudS := 8 * n 9 1, vbudL := n 10 1, cbudV := 8 * n 11 1, cbudS := 8 * n 12 1, cbudL := n 13 1,
    tiles := n 17 1, privb := n 18 2, scratch := n 20 4, obuf := n 24 4, teams := n 28 4, overflow := n 32 4, task := n 36 2, deps := n 38 2,
    succ := n 40 2, entryV := n 44 4, entryC := n 48 4, entryM := optOffset (n 52 4), traph := optOffset (n 56 4),
    code := BitVec.ofNat 64 (n 64 8), param := BitVec.ofNat 64 (n 72 8), bedmap := BitVec.ofNat 64 (n 80 8), done := BitVec.ofNat 64 (n 88 8),
    binds := [BitVec.ofNat 64 (n 96 8), BitVec.ofNat 64 (n 104 8), BitVec.ofNat 64 (n 112 8), BitVec.ofNat 64 (n 120 8)] }

/-- CHECK of a launch record (R343). -/
def launchCheck (bs : List Byte) : Bool := numAt bs 60 4 == crc32c (bs.take 60 ++ [0, 0, 0, 0] ++ bs.drop 64)

/-- Is a budget lawful: its ranges where the role has groups, all zero otherwise (R24)? -/
def budgetOk (b : Nat × Nat × Nat) (groups : Bool) : Bool :=
  if groups then decide (8 ≤ b.1) && decide (b.1 ≤ 256) && decide (8 ≤ b.2.1) && decide (b.2.1 ≤ 1024) && decide (b.2.2 ≤ 16)
  else b == (0, 0, 0)

/-- Does an offset from CODE name an instruction slot (R343, R409)? -/
def offsetOk (x : Nat) : Bool := isSlot (BitVec.ofNat 64 x)

/-- The checks of fields that both kinds of launch have, and the reserved bytes (R343). -/
def launchCommon (bs : List Byte) (L : Launch) : Bool :=
  decide (L.prio < 8) && numAt bs 2 1 < 32 && numAt bs 14 3 == 0 && numAt bs 42 2 == 0 &&
  L.code.toNat % 64 == 0 && L.done.toNat % 16 == 0 && offsetOk L.entryV &&
  (match L.traph with | some x => offsetOk x | none => true)

/-- The field checks of a team launch (R24, R30, R174, R179, R206, R212, R343), with the alignment that R256 gives the BIND fields. -/
def teamFields (L : Launch) : Bool :=
  decide (1 ≤ L.cores) && decide (L.cores ≤ 16) && decide (1 ≤ L.nv + L.nc) && decide (L.nv + L.nc ≤ 4096) &&
  budgetOk (L.budget .vector) (L.nv != 0) && budgetOk (L.budget .copy) (L.nc != 0) && decide (L.tiles ≤ 64) &&
  L.privb % 16 == 0 && decide (L.privb ≤ 16384) && decide (roundUp 512 L.scratch ≤ 2 ^ 20) && decide (roundUp 512 L.obuf ≤ 768 * 1024) &&
  offsetOk L.entryC && (L.nc != 0 || L.entryC == 0) && (match L.entryM with | some x => offsetOk x | none => true) &&
  (if L.graft then L.bedmap.toNat % 64 == 0 else L.bedmap == 0) && L.binds.all (fun a => a.toNat % 64 == 0)

/-- The field checks of a slice launch (R343, R344). -/
def sliceFields (L : Launch) : Bool :=
  decide (1 ≤ L.nv) && decide (L.nv ≤ 4) && decide (L.teams < 1024) && L.cores == 0 && L.nc == 0 &&
  L.budget .copy == (0, 0, 0) && L.budget .vector == (0, 0, 0) && L.tiles == 0 && L.privb == 0 && L.scratch == 0 && L.obuf == 0 && L.overflow == 0 &&
  L.entryC == 0 && L.bedmap == 0 && L.binds.all (· == 0) && !L.graft && !L.migr && L.entryM.isNone

/-- Check 3 of R347. -/
def launchFields (bs : List Byte) (L : Launch) : Bool :=
  launchCommon bs L && (if L.kind = 0 then teamFields L else L.kind == 1 && sliceFields L)

/-! ### Bed maps (R301, R302) -/

/-- What reading a bed map comes to: it cannot be read or has a bad entry, a mismatching line, a page still to come, or its valid beds. -/
inductive BedsRead where
  | bad
  | poisoned
  | resid (va : DWord)
  | beds (l : List (Nat × Bed))
  deriving DecidableEq, Repr

/-- An entry of a bed map: refused, absent, or a bed (R301, R302). `c` is the launch's number of cores. -/
def bedEntry (bs : List Byte) (c : Nat) : Option (Option Bed) :=
  let valid := numAt bs 10 1
  let ncut := numAt bs 11 1
  let cores := (upFrom 12 8).map (fun i => numAt bs i 1)
  if valid = 0 then (if bs.all (· == 0) then some none else none)
  else
    let b : Bed := { base := BitVec.ofNat 64 (numAt bs 0 8), lines := numAt bs 8 2, cores := cores.take ncut }
    let ok := valid == 1 && numAt bs 28 4 == crc32c (bs.take 28) && decide (1 ≤ b.lines) && decide (b.lines ≤ 1024) && decide (ncut ≤ 8) &&
      b.base.toNat % 64 == 0 && fldN b.base 52 12 == 0 && (cores.drop ncut).all (· == 0) && numAt bs 20 8 == 0 &&
      b.cores.all (fun x => decide (x < c)) && b.cores.eraseDups == b.cores
    if ok then some (some b) else none

/-- Reads the entries of a bed map from number `b` on; a page in main memory is made resident first (R11). -/
def State.bedsFrom (s : State) (asn : Nat) (map : DWord) (c : Nat) : Nat → Nat → BedsRead
  | 0, _ => .beds []
  | n + 1, b =>
    match s.translate asn Need.load false (map + BitVec.ofNat 64 (32 * b)) with
    | .cause _ => .bad
    | .poisoned => .poisoned
    | .resid => .resid (map + BitVec.ofNat 64 (32 * b))
    | .ok pa _ =>
      if s.mem.poisoned [pa.line] then .poisoned
      else match bedEntry (s.mem.bytes pa 32) c with
        | none => .bad
        | some e => match s.bedsFrom asn map c n (b + 1) with
          | .beds l => .beds (match e with | some x => (b, x) :: l | none => l)
          | x => x

/-- Do two beds share a line? -/
def Bed.meets (a b : Bed) : Bool :=
  decide (a.base.toNat < b.base.toNat + 64 * b.lines) && decide (b.base.toNat < a.base.toNat + 64 * a.lines)

/-- Are the beds of a map apart, with no core listed twice (R302)? -/
def bedsApart : List (Nat × Bed) → Bool
  | [] => true
  | x :: r => r.all (fun y => !x.2.meets y.2 && x.2.cores.all (fun c => !y.2.cores.contains c)) && bedsApart r

/-- The bed that holds an address among some beds. -/
def bedOf (bs : List (Nat × Bed)) (a : DWord) : Option (Nat × Bed) :=
  bs.find? (fun b => decide (b.2.base.toNat ≤ a.toNat) && decide (a.toNat < b.2.base.toNat + 64 * b.2.lines))

/-- The address of an entry of a launch. -/
def Launch.entry (L : Launch) (off : Nat) : DWord := L.code + BitVec.ofNat 64 off

/-- The cuttings of the bed that holds an entry PC. -/
def Launch.cuttings (L : Launch) (bs : List (Nat × Bed)) (off : Nat) : List Nat := ((bedOf bs (L.entry off)).map (·.2.cores)).getD []

/-- Do the entry PCs of a graft launch lie in beds with a cutting (R302)? -/
def Launch.entriesIn (L : Launch) (bs : List (Nat × Bed)) : Bool :=
  L.cuttings bs L.entryV != [] && (L.nc == 0 || L.cuttings bs L.entryC != []) &&
  (match L.entryM with | some x => L.cuttings bs x != [] | none => true)

/-- The overflow bytes that a launch must have (R42, R313). -/
def Launch.overflowNeed (L : Launch) : Nat :=
  if L.graft || L.migr then L.nv * L.msgMax else 0

/-! ### Homes (R30, R32, R304) -/

/-- The role of a GRPID (R30). -/
def Launch.roleOf (L : Launch) (g : Nat) : Role := if g < L.nv then .vector else .copy

/-- The team core index of a group's home (R30, R304). -/
def Launch.home (L : Launch) (bs : List (Nat × Bed)) (g : Nat) : Nat :=
  if L.graft then
    if g < L.nv then
      let cs := L.cuttings bs L.entryV
      nth 0 cs (graftHash g % max 1 cs.length)
    else
      let cs := L.cuttings bs L.entryC
      nth 0 cs ((g - L.nv) % max 1 cs.length)
  else (if g < L.nv then g else g - L.nv) % max 1 L.cores

/-- The GRPIDs homed on team core `j`, rising. -/
def Launch.homed (L : Launch) (bs : List (Nat × Bed)) (j : Nat) : List Nat := (upFrom 0 (L.nv + L.nc)).filter (fun g => L.home bs g == j)

/-- Does team core `j` run the matrix stream (R32, R304)? -/
def Launch.streams (L : Launch) (bs : List (Nat × Bed)) (j : Nat) : Bool :=
  match L.entryM with
  | some x => !L.graft || (L.cuttings bs x).contains j
  | none => false

/-- The bed that team core `j` pins (R303). -/
def pinnedBed (bs : List (Nat × Bed)) (j : Nat) : Option Nat := (bs.find? (fun b => b.2.cores.contains j)).map (·.1)

/-- Does a launch pin a bed on team core `j`? -/
def Launch.pins (L : Launch) (bs : List (Nat × Bed)) (j : Nat) : Bool := L.graft && (pinnedBed bs j).isSome

/-! ### What a core has (R27 to R29) -/

/-- What is taken on a core: slots and V registers of each quadrant, S and L registers, tiles, the sequencer, the regions of the scratchpad and the operand buffer, the copy commands queued, and whether a bed is pinned there, of which a core holds one (R303). -/
structure Usage where
  slots : List Nat
  v : List Nat
  s : Nat
  l : Nat
  tiles : List Nat
  seq : Bool
  scratch : List (Nat × Nat)
  obuf : List (Nat × Nat)
  cmds : Nat
  bed : Bool
  deriving DecidableEq, Repr

/-- A core with nothing on it. -/
def Usage.empty : Usage := { slots := [0, 0, 0, 0], v := [0, 0, 0, 0], s := 0, l := 0, tiles := [], seq := false, scratch := [], obuf := [], cmds := 0, bed := false }

/-- Puts a group of a budget into a quadrant. -/
def Usage.addGroup (u : Usage) (b : Nat × Nat × Nat) (q : Nat) : Usage :=
  { u with slots := setNth u.slots q (nth 0 u.slots q + 1), v := setNth u.v q (nth 0 u.v q + b.1), s := u.s + b.2.1, l := u.l + b.2.2 }

/-- Can a quadrant hold a group (R27, R29)? -/
def Usage.quadFits (u : Usage) (b : Nat × Nat × Nat) (q : Nat) : Bool :=
  decide (nth 0 u.slots q < 64) && decide (nth 0 u.v q + b.1 ≤ 2048)

/-- Can a core hold a group's S and L registers? -/
def Usage.poolFits (u : Usage) (b : Nat × Nat × Nat) : Bool := decide (u.s + b.2.1 ≤ 131072) && decide (u.l + b.2.2 ≤ 1024)

/-- The quadrant that a group takes, from `first` on (R31). -/
def Usage.quadFor (u : Usage) (b : Nat × Nat × Nat) (first : Nat) : Option Nat :=
  if u.poolFits b then ((upFrom 0 4).map (fun i => (first + i) % 4)).find? (u.quadFits b) else none

/-- Puts groups into quadrants in order, the n-th from quadrant n mod 4 on (R31). -/
def Usage.addGroups (u : Usage) : Nat → List (Nat × Nat × Nat) → Option (Usage × List Nat)
  | _, [] => some (u, [])
  | n, b :: r =>
    match u.quadFor b (n % 4) with
    | none => none
    | some q => ((u.addGroup b q).addGroups (n + 1) r).map (fun x => (x.1, q :: x.2))

/-- Does a region of `len` bytes at `base` meet one of those taken? -/
def regionFree (used : List (Nat × Nat)) (base len : Nat) : Bool := used.all (fun x => decide (x.1 + x.2 ≤ base) || decide (base + len ≤ x.1) || x.2 == 0)

/-- The lowest base at which a region fits into `size` bytes. On which boundary an allocation of the scratchpad or the operand buffer begins R212 and R174 leave open; the model takes the lowest (DESIGN CHOICE, log 23). -/
def firstFit (used : List (Nat × Nat)) (size len : Nat) : Option Nat :=
  ((0 :: used.map (fun x => x.1 + x.2)).filter (fun b => decide (b + len ≤ size) && regionFree used b len)).foldl
    (fun a b => match a with | some x => some (min x b) | none => some b) none

/-- The bytes of a region that others have. -/
def regionTaken (used : List (Nat × Nat)) (base len : Nat) : Nat := used.foldl (fun a x => a + (min (x.1 + x.2) (base + len) - max x.1 base)) 0

/-- Of the regions of `len` bytes that begin where another ends, or end with the store, the one of which others have the fewest bytes, the lowest first; and how many those are. -/
def regionBest (used : List (Nat × Nat)) (size len : Nat) : Nat × Nat :=
  ((0 :: (size - len) :: used.map (fun x => x.1 + x.2)).filter (fun b => decide (b + len ≤ size))).foldl
    (fun a b =>
      let n := regionTaken used b len
      if n < a.2 || (n == a.2 && b < a.1) then (b, n) else a) (0, regionTaken used 0 len)

/-- Where a share lies on a core: quadrants of its groups, bases of its regions, its tiles. -/
structure Fit where
  quads : List Nat
  scratch : Nat
  obuf : Nat
  tiles : List Nat
  deriving DecidableEq, Repr

/-- What a share needs of its core: the budgets of its groups in rising GRPID, bytes of the scratchpad and the operand buffer, tiles, copy commands to be queued again, the sequencer, and whether it pins a bed (R29, R32, R174, R179, R212, R253, R303). -/
structure ShareNeed where
  groups : List (Nat × Nat × Nat)
  scratch : Nat
  obuf : Nat
  tiles : Nat
  cmds : Nat
  seq : Bool
  bed : Bool
  deriving DecidableEq, Repr

/-- What a share that has retired needs. -/
def ShareNeed.none : ShareNeed := { groups := [], scratch := 0, obuf := 0, tiles := 0, cmds := 0, seq := false, bed := false }

/-- What a share of a launch needs. -/
def Launch.need (L : Launch) (bs : List (Nat × Bed)) (j : Nat) : ShareNeed :=
  { groups := (L.homed bs j).map (fun g => L.budget (L.roleOf g)), scratch := roundUp 512 L.scratch, obuf := roundUp 512 L.obuf, tiles := L.tiles,
    cmds := 0, seq := L.streams bs j, bed := L.pins bs j }

/-- What the shares of a launch need. -/
def Launch.needs (L : Launch) (bs : List (Nat × Bed)) : List ShareNeed := (upFrom 0 L.cores).map (L.need bs)

/-- The tiles that are free. -/
def Usage.freeTiles (u : Usage) : List Nat := (upFrom 0 64).filter (fun x => !u.tiles.contains x)

/-- Fits a share on a core, with what the core then has (R29, R31, R32, R174, R179, R212, R253). -/
def Usage.fit (u : Usage) (n : ShareNeed) : Option (Usage × Fit) :=
  match u.addGroups 0 n.groups, firstFit u.scratch (2 ^ 20) n.scratch, firstFit u.obuf (768 * 1024) n.obuf with
  | some (u', qs), some a, some b =>
    if u.freeTiles.length < n.tiles || 64 < u.cmds + n.cmds || (u.seq && n.seq) || (u.bed && n.bed) then none
    else
      let ts := u.freeTiles.take n.tiles
      some ({ u' with bed := u.bed || n.bed, cmds := u.cmds + n.cmds, tiles := u.tiles ++ ts, seq := u.seq || n.seq, scratch := (a, n.scratch) :: u.scratch, obuf := (b, n.obuf) :: u.obuf },
        { quads := qs, scratch := a, obuf := b, tiles := ts })
  | _, _, _ => none

/-- Does every share of a launch fit an empty cluster (R29, R347)? -/
def Launch.fitsEmpty (L : Launch) (bs : List (Nat × Bed)) : Bool := (L.needs bs).all (fun n => (Usage.empty.fit n).isSome)

/-- The groups of a team in slots of its core `j`, rising. -/
def Team.here (T : Team) (j : Nat) : List Group := T.groups.filter (fun G => G.core == j && (match G.place with | .slot _ => true | _ => false))

/-- What the shares of a saved team need, with the copy commands of each (R255, R384). -/
def Team.needs (T : Team) (cmds : List (Nat × List CopyCmd)) : List ShareNeed :=
  T.shares.zipIdx.map (fun x =>
    if x.1.retired then ShareNeed.none
    else { groups := (T.here x.2).map (fun G => T.launch.budget G.role), scratch := x.1.scratchLen, obuf := x.1.obufLen, tiles := x.1.tiles.length,
           cmds := (spGet [] cmds x.2).length, seq := x.1.seq.st != .absent, bed := x.1.pinned.isSome })

/-- Adds a resident team's share to what a core has. -/
def Usage.addTeam (u : Usage) (T : Team) (j : Nat) (sh : Share) : Usage :=
  let u := (T.groups.filter (fun G => G.core == j)).foldl (fun u G => match G.place with
    | .slot q => u.addGroup (T.launch.budget G.role) q
    | _ => u) u
  { u with tiles := u.tiles ++ sh.tiles, seq := u.seq || sh.seq.st != .absent, bed := u.bed || sh.pinned.isSome,
           scratch := (sh.scratchBase, sh.scratchLen) :: u.scratch, obuf := (sh.obufBase, sh.obufLen) :: u.obuf }

/-- What is taken on a core by the shares that have not retired, and by the commands in its copy queue. -/
def State.usage (s : State) (c : Nat) : Usage :=
  s.teams.foldl (fun u T => T.shares.zipIdx.foldl (fun u x => if x.1.core == c && !x.1.retired then u.addTeam T x.2 x.1 else u) u) { Usage.empty with cmds := (s.core c).cq.length }

/-! ### Reservations of aged gangs (R355) -/

/-- The whole need of a share, as what it takes of an empty core. -/
def ShareNeed.whole (n : ShareNeed) : Usage := ((Usage.empty.fit n).map (·.1)).getD Usage.empty

/-- What a reservation of a share leaves of a core: up to the whole need of the share is taken. Where no stretch of a store is free for a region, the part is reserved that is free of the region of which others have the fewest bytes (log 77). -/
def Usage.reserve (u : Usage) (n : ShareNeed) : Usage :=
  let need := n.whole
  let region (used : List (Nat × Nat)) (size len : Nat) : List (Nat × Nat) := ((regionBest used size len).1, len) :: used
  { slots := (u.slots.zip need.slots).map (fun x => min 64 (x.1 + x.2)), v := (u.v.zip need.v).map (fun x => min 2048 (x.1 + x.2)),
    s := min 131072 (u.s + need.s), l := min 1024 (u.l + need.l), tiles := u.tiles ++ u.freeTiles.take n.tiles, seq := u.seq || n.seq, bed := u.bed, cmds := u.cmds,
    scratch := region u.scratch (2 ^ 20) n.scratch, obuf := region u.obuf (768 * 1024) n.obuf }

/-- What a gang can set aside on a core now, of what arriving groups could take: what is free, up to the need of its share (R355). -/
def Usage.setAside (u : Usage) (n : ShareNeed) : Reserve :=
  let need := n.whole
  { slots := (u.slots.zip need.slots).map (fun x => min x.2 (64 - x.1)), v := (u.v.zip need.v).map (fun x => min x.2 (2048 - x.1)),
    s := min need.s (131072 - u.s), l := min need.l (1024 - u.l) }

/-- The greater of two reservations in each part. -/
def Reserve.grow (a b : Reserve) : Reserve :=
  { slots := (a.slots.zip b.slots).map (fun x => max x.1 x.2), v := (a.v.zip b.v).map (fun x => max x.1 x.2), s := max a.s b.s, l := max a.l b.l }

/-- What an arriving group finds taken where something is set aside. -/
def Usage.beside (u : Usage) (r : Reserve) : Usage :=
  { u with slots := (u.slots.zip r.slots).map (fun x => x.1 + x.2), v := (u.v.zip r.v).map (fun x => x.1 + x.2), s := u.s + r.s, l := u.l + r.l }

/-- How many resources a core lacks for a share (R28, R355): slots, blocks of 8 V and S registers, L registers, tiles, the sequencer and the pinned bed, bytes of the scratchpad and the operand buffer. The manual does not say how resources of different kinds are weighed; the model adds their numbers (DESIGN CHOICE, log 77). -/
def Usage.lack (u : Usage) (n : ShareNeed) : Nat :=
  let need := n.whole
  let excess (cap : Nat) (a b : List Nat) : List Nat := (a.zip b).map (fun x => x.1 + x.2 - cap)
  (excess 64 u.slots need.slots).foldl (· + ·) 0 + ((excess 2048 u.v need.v).map (ceilDiv · 8)).foldl (· + ·) 0 + ceilDiv (u.s + need.s - 131072) 8 + (u.l + need.l - 1024) +
  (u.tiles.length + n.tiles - 64) + (if u.seq && n.seq then 1 else 0) + (if u.bed && n.bed then 1 else 0) +
  (regionBest u.scratch (2 ^ 20) n.scratch).2 + (regionBest u.obuf (768 * 1024) n.obuf).2

/-- A task-table entry that is free (R346). -/
def Task.free : Task :=
  { st := .free, counter := 0, launch := none, queue := 0, readyAt := 0, readyTime := 0, nextTeam := 0, doneTeams := 0, failed := none,
    killed := false, aborted := false, step := 0, threads := 0, aged := none }

/-- An entry of the task table. -/
def State.task (s : State) (n : Nat) : Task := spGet Task.free s.sched.tasks n

/-- Changes an entry of the task table. -/
def State.modTask (s : State) (n : Nat) (f : Task → Task) : State := s.modSched (fun q => { q with tasks := spPut Task.free q.tasks n (f (s.task n)) })

/-- Changes a work queue. -/
def State.modQueue (s : State) (q : Nat) (f : WorkQueue → WorkQueue) : State :=
  s.modSched (fun x => { x with queues := spPut WorkQueue.off x.queues q (f (s.queue q)) })

/-- The beds of a launch as its map reads now; none where it has no map or the map is bad. -/
def State.bedsOf (s : State) (asn : Nat) (L : Launch) : List (Nat × Bed) :=
  if L.graft then (match s.bedsFrom asn L.bedmap L.cores 4096 0 with | .beds l => l | _ => []) else []

/-- A launch's frames for private space, and those for messages (R206, R312). -/
def Launch.homeFrames (L : Launch) : Nat := ceilDiv ((L.nv + L.nc) * (16 * L.privb)) 65536
def Launch.areaFrames (L : Launch) : Nat := if L.graft || L.migr then 3 * L.cores + ceilDiv L.overflow 65536 else 0

/-! ### What waits for its cores (R346, R354, R356) -/

/-- Something that waits to be placed: the next team of a task, a saved team, or the threads of a slice launch. Its key is the task, or 65536 and the name of a saved team; `age` orders those of a class; `since` is the time from which it has waited, `aged` its place among the aged gangs (R355); `frames` are the frames of die SRAM that it has to take. -/
structure Ready where
  key : Nat
  prio : Nat
  age : Nat
  since : Nat
  aged : Option Nat
  needs : List ShareNeed
  frames : Nat
  slices : Option Launch
  deriving DecidableEq, Repr

/-- The key of a saved team. -/
def savedKey (id : Nat) : Nat := 65536 + id

/-- Has a task a team, or its threads, still to be placed? -/
def Task.toPlace (e : Task) : Option Launch :=
  match e.st, e.launch with
  | .ready, some L => if e.failed.isSome || e.killed then none else if e.nextTeam < (if L.kind = 1 then 1 else L.teams + 1) then some L else none
  | _, _ => none

/-- What a task has to be placed next; it comes behind the saved teams of its class, and among tasks in the order in which they became READY (R354). -/
def State.readyOf (s : State) (n : Nat) (e : Task) : Option Ready :=
  e.toPlace.map (fun L =>
    { key := n, prio := L.prio, age := 2 ^ 64 + e.readyAt, since := e.readyTime, aged := e.aged,
      needs := if L.kind = 1 then [] else L.needs (s.bedsOf (s.queue e.queue).asn L), frames := L.homeFrames + L.areaFrames, slices := if L.kind = 1 then some L else none })

/-- A saved team as what waits: at the head of its class, in the order of the saves (R356); its private space is pinned still. -/
def Saved.ready (x : Saved) (idx : Nat) : Ready :=
  { key := savedKey x.team.id, prio := x.team.launch.prio, age := idx, since := x.readyTime, aged := x.aged, needs := x.team.needs x.cmds,
    frames := x.team.launch.areaFrames, slices := none }

/-- All that waits to be placed. -/
def State.readies (s : State) : List Ready := s.sched.saved.zipIdx.map (fun x => x.1.ready x.2) ++ s.sched.tasks.filterMap (fun x => s.readyOf x.1 x.2)

/-- Is one considered before another: by class, then by age within the class (R354, R356)? -/
def Ready.before (a b : Ready) : Bool := if a.prio = b.prio then decide (a.age < b.age) else decide (b.prio < a.prio)

/-- What a launch of `n` cores finds taken on a core: what is taken, and what a gang of more cores has reserved there (R355). -/
def State.usageFor (s : State) (n key c : Nat) : Usage :=
  (s.sched.gangs.filter (fun g => g.1 != key && g.2.1 == c / 16)).foldl (fun u g =>
    match s.readies.find? (fun r => r.key == g.1) with
    | some r => if n < r.needs.length then (match r.needs[rankOf c]? with | some x => u.reserve x | none => u) else u
    | none => u) (s.usage c)

/-- What an arriving group finds taken on a core: what is taken, and what is set aside there for an aged gang (R355). -/
def State.usageArriving (s : State) (c : Nat) : Usage :=
  if s.sched.gangs.any (fun g => g.2.1 == c / 16) then (match spFind s.sched.reserved c with | some r => (s.usage c).beside r | none => s.usage c) else s.usage c

/-- A gang has its cluster no more: it has been placed, or its task is over. -/
def State.dropGang (s : State) (key : Nat) : State :=
  let cls := (s.sched.gangs.filter (fun g => g.1 == key)).map (·.2.1)
  s.modSched (fun q => { q with gangs := q.gangs.filter (fun g => g.1 != key), reserved := q.reserved.filter (fun r => !cls.contains (r.1 / 16)) })

/-! ### Pinned frames (R206, R237, R312) -/

/-- The frames of the undo areas of a die, as runs of frames (R366). -/
def State.undoFrames (s : State) (die : Nat) : List (Nat × Nat) :=
  (upFrom (128 * die) 128).map (fun k => ((s.undoOf k).base / 65536, (s.undoOf k).size / 65536))

/-- The frames of a die's SRAM that are pinned. -/
def State.pinnedFrames (s : State) (die : Nat) : Nat :=
  (s.mmp.frames.filter (fun f => f.die == die && f.sram && f.pinned)).length + ((s.undoFrames die).foldl (fun a x => a + x.2) 0)

/-- Would `n` more pinned frames leave 64 MiB of a die's SRAM unpinned (R237)? -/
def State.pinRoom (s : State) (die n : Nat) : Bool := decide ((s.pinnedFrames die + n + 1024) * 65536 ≤ Store.sram.size)

/-- The frames of a die's SRAM in use. -/
def State.usedFrames (s : State) (die : Nat) : List (Nat × Nat) := s.undoFrames die ++ (s.mmp.frames.filter (fun f => f.die == die && f.sram)).map (fun f => (f.num, 1))

/-- The first of `n` free frames in a row of a die's SRAM. -/
def State.freeFrames (s : State) (die n : Nat) : Option Nat := firstFit (s.usedFrames die) 16384 n

/-- An entry of the frame table for a frame that the system itself uses. -/
def Frame64.system (die num : Nat) (sram : Bool) : Frame64 :=
  { die := die, sram := sram, num := num, pinned := true, backing := none, asn := 65536, page := 0, marks := 0, fresh := false }

/-- Takes frames of a die's SRAM for the system itself, pinned. -/
def State.pinFrames (s : State) (die first n : Nat) : State :=
  s.modMmp (fun m => { m with frames := m.frames ++ (upFrom first n).map (fun k => Frame64.system die k true) })

/-- Gives frames of a die's SRAM back. -/
def State.unpinFrames (s : State) (die : Nat) (fs : List Nat) : State :=
  s.modMmp (fun m => { m with frames := m.frames.filter (fun f => !(f.die == die && f.sram && fs.contains f.num)) })

/-! ### Clusters -/

/-- The places of shares in a cluster of the package: the lowest ranks on which they fit, in turn (R354); none if they do not. -/
def fitRanks (use : Nat → Usage) (cl : Nat) : Nat → List ShareNeed → Option (List (Nat × Fit))
  | _, [] => some []
  | 0, _ => none
  | n + 1, x :: r =>
    let c := 16 * cl + (16 - (n + 1))
    match (use c).fit x with
    | some (_, f) => (fitRanks use cl n r).map (fun l => (c, f) :: l)
    | none => fitRanks use cl n (x :: r)

/-- The places in a cluster of what waits; none if it does not fit. -/
def State.clusterFit (s : State) (r : Ready) (use : Nat → Usage) (cl : Nat) : Option (List (Nat × Fit)) :=
  if s.pinRoom (cl / 4) r.frames then fitRanks use cl 16 r.needs else none

/-- Its places: the lowest-numbered cluster of the lowest-numbered die that it fits (R354). -/
def State.anyFit (s : State) (r : Ready) (use : Nat → Usage) : Option (List (Nat × Fit)) := (upFrom 0 32).findSome? (s.clusterFit r use)

end Sys2Proof.Machine
end

