-- ==== Sys2Proof/Machine/Frames.lean ====
section
/-! DEFINITION. Frames of die SRAM and LPDDR: what is under way to them, the copying of pages, eviction, and the taking of frames (R206, R237, R239, R240, R269, R312, R366, R399). -/

namespace Sys2Proof.Machine

/-! ### What is under way (R221, R240) -/

/-- Is the key in a range of `n` frames at a place? -/
def inFrames (a : PAddr) (n k : Nat) : Bool := decide (a.key ≤ k) && decide (k < a.key + 65536 * n)

/-- Does an engine own a line of some frames, or has it writes to them still to come (R221, R239)? -/
def State.engineUse (s : State) (a : PAddr) (n : Nat) : Bool :=
  s.mem.owned.any (fun x => inFrames a n (64 * x.1)) ||
  s.cores.any (fun (c : Nat × Core) => c.2.cur.toList.any (fun f => f.last.any (fun w => inFrames a n w.pa.key))) ||
  s.teams.any (fun T => T.shares.any (fun sh => sh.drain.started.toList.any (fun m => m.outs.any (fun w => inFrames a n w.pa.key))))

/-- Is a request on its way to some frames, or at a service group (R240)? -/
def State.requestsTo (s : State) (a : PAddr) (n : Nat) : Bool := s.requests.any (fun r => inFrames a n r.pa.key)

/-- Does an entry of a store queue write to some frames? -/
def State.queuedTo (s : State) (a : PAddr) (n : Nat) : Bool :=
  s.cores.any (fun (c : Nat × Core) => c.2.sq.any (fun e => e.bytes.any (fun b => inFrames a n b.1.key) || e.red.toList.any (fun r => inFrames a n r.pa.key)))

/-- Is anything under way to some frames? -/
def State.inUse (s : State) (a : PAddr) (n : Nat) : Bool := s.engineUse a n || s.queuedTo a n || s.requestsTo a n

/-! ### Pages that move (R239) -/

/-- Copies `n` frames; a mismatching line stays one, and a line keeps its release-owner field (R269). -/
def Mem.copyFrames (m : Mem) (a b : PAddr) (n : Nat) : Mem :=
  let moved := (m.cells.filter (fun c => inFrames a n c.1)).map (fun c => (b.key + (c.1 - a.key), c.2))
  let bad := (m.poison.filter (fun l => inFrames a n (64 * l))).map (fun l => b.line + (l - a.line))
  let rel := (m.relOwner.filter (fun x => inFrames a n (64 * x.1))).map (fun x => (b.line + (x.1 - a.line), x.2))
  let m := m.zeroRange b (65536 * n)
  { m with cells := moved.foldl (fun l c => spPut memDefault l c.1 c.2) m.cells, poison := m.poison ++ bad,
           relOwner := rel.foldl (fun l x => spIns x.1 x.2 l) (m.relOwner.filter (fun x => !inFrames b n (64 * x.1))) }

/-- Copies `n` frames, with the single-bit errors corrected that the reading finds (R399). -/
def State.copyPage (s : State) (a b : PAddr) (n : Nat) : State :=
  (s.scrub (s.mem.upsets.filter (fun l => inFrames a n (64 * l)))).modMem (fun m => m.copyFrames a b n)

/-- A place of `n` frames that have moved. -/
def PAddr.moved (x a b : PAddr) (n : Nat) : PAddr := if inFrames a n x.key then { b with off := b.off + (x.off - a.off) } else x

/-- An entry of a store queue whose frames have moved: it completes through the new translation (R239). -/
def SqEntry.moved (e : SqEntry) (a b : PAddr) (n : Nat) : SqEntry :=
  { e with bytes := e.bytes.map (fun x => (x.1.moved a b n, x.2)), red := e.red.map (fun r => { r with pa := r.pa.moved a b n }) }

/-- The entries of every store queue, after a move. -/
def State.remap (s : State) (a b : PAddr) (n : Nat) : State :=
  { s with cores := s.cores.map (fun (c : Nat × Core) => (c.1, { c.2 with sq := c.2.sq.map (fun e => e.moved a b n) })) }

/-- The place of a frame. -/
def framePlace (die num : Nat) (sram : Bool) : PAddr := { store := if sram then .sram else .lpddr, unit := die, off := 65536 * num }

/-- The place of a frame of the frame table. -/
def Frame64.place (f : Frame64) : PAddr := framePlace f.die f.num f.sram

/-- Is the entry one of `n` frames at a place? -/
def Frame64.within (f : Frame64) (a : PAddr) (n : Nat) : Bool :=
  f.die == a.unit && f.sram == (a.store == .sram) && decide (a.off / 65536 ≤ f.num) && decide (f.num < a.off / 65536 + n)

/-- A leaf that says where a page now is. -/
def leafAt (w : DWord) (a : PAddr) (keep : DWord) : DWord :=
  (w &&& keep &&& ~~~0x0000FFFFFFFF7040#64) ||| 1#64 ||| (if a.store == .sram then 64#64 else 0) ||| (BitVec.ofNat 64 a.unit <<< 12) ||| (BitVec.ofNat 64 (a.off / 65536) <<< 16)

/-- A leaf without its A and D bits; and one with all its bits. -/
def clearAD : DWord := ~~~0x300#64
def keepAll : DWord := ~~~0#64

/-- Writes a leaf. -/
def State.writeLeaf (s : State) (at_ : PAddr) (w : DWord) : State := s.modMem (fun m => m.store (numBytes at_ 8 w.toNat))

/-! ### Eviction (R237) -/

/-- Does an entry of an operand log wait on a page: one that it was logged for, or one of its addresses? -/
def LogEntry.needs (e : LogEntry) (page : Nat) : Bool := e.pages.contains page || (e.acc.space == .glb && e.acc.elems.any (fun x => vpage x.addr == page))

/-- Does a logged access of a team, resident or saved, wait on a page? -/
def State.logWaits (s : State) (asn page : Nat) : Bool :=
  (s.teams ++ s.sched.saved.map (·.team)).any (fun T => T.asn == asn && T.groups.any (fun G => G.log.any (fun e => e.needs page)))

/-- Is the page of a frame marked as accessed? -/
def State.accessed (s : State) (f : Frame64) : Bool := match s.walk f.asn (f.va 0) with | .leaf _ w _ => w.getLsbD 8 | _ => false

/-- Has an address space a team, resident or saved, a slice thread, or a work queue? -/
def State.spaceLives (s : State) (asn : Nat) : Bool :=
  s.teams.any (·.asn == asn) || s.sched.saved.any (fun x => x.team.asn == asn) || s.threads.any (·.asn == asn) || s.sched.queues.any (fun q => q.2.asn == asn && q.2.en)

/-- Is a frame's page awaited still by what faulted on it (R237): an access in an operand log, or, of a page that came for a fault, one that has not been made yet, since nothing has marked the page as accessed? -/
def State.awaited (s : State) (f : Frame64) : Bool := s.logWaits f.asn f.page || (f.fresh && !s.accessed f && s.spaceLives f.asn)

/-- May a frame be evicted now (R237)? Its backing lies in LPDDR, nothing pins it, no replay needs it, nothing is under way to it. -/
def State.evictable (s : State) (die : Nat) (f : Frame64) : Bool :=
  f.die == die && f.sram && !f.pinned && f.backing.isSome && !s.awaited f && !s.inUse f.place 1 && !s.heldAt f.place &&
  (match s.walk f.asn (f.va 0) with | .leaf _ w big => !big && placeOf w false (f.va 0) == f.place | _ => false)

/-- Evicts the page of a frame (R237): written back if D is set, its leaf with HOME = 0, the frame free. -/
def State.evict (s : State) (f : Frame64) : State :=
  match f.backing, s.walk f.asn (f.va 0) with
  | some (d, n), .leaf at_ w _ =>
    let b := framePlace d n false
    let s := if w.getLsbD 9 then s.copyPage f.place b 1 else s
    let s := s.writeLeaf at_ (leafAt w b clearAD)
    let s := s.shootdown f.asn f.page 1 f.place
    s.modMmp (fun m => { m with frames := (m.frames.filter (fun x => x != f)).map (fun x => if x.within b 1 then { x with marks := f.marks } else x) })
  | _, _ => s

/-! ### Taking frames -/

/-- A free frame of a die, evicting a page if none is free (R237). -/
def State.takeFrame (s : State) (die : Nat) : Option (State × Nat) :=
  match s.freeFrames die 1 with
  | some n => some (s, n)
  | none =>
    let fs := s.mmp.frames.filter (s.evictable die)
    match (fs.find? (fun f => !s.accessed f)).or fs.head? with
    | some f => some (s.evict f, f.num)
    | none => none

/-- Takes `n` frames of a die for the system itself, pinned; none where so many cannot be had now. -/
def State.takeFrames (s : State) (die : Nat) : Nat → Option (State × List Nat)
  | 0 => some (s, [])
  | n + 1 =>
    match s.takeFrame die with
    | none => none
    | some (s, k) => ((s.pinFrames die k 1).takeFrames die n).map (fun x => (x.1, k :: x.2))

/-- The first of `n` frames in a row that are free or can be freed, with the pages in them evicted. -/
def State.takeRun (s : State) (die n : Nat) : Option (State × Nat) :=
  match s.freeFrames die n with
  | some f => some (s, f)
  | none =>
    let fs := s.mmp.frames.filter (s.evictable die)
    (firstFit (s.undoFrames die ++ (s.mmp.frames.filter (fun f => f.die == die && f.sram && !fs.contains f)).map (fun f => (f.num, 1))) 16384 n).map (fun k =>
      ((fs.filter (fun f => decide (k ≤ f.num) && decide (f.num < k + n))).foldl State.evict s, k))

end Sys2Proof.Machine
end

