-- ==== Sys2Proof/Machine/Tasks.lean ====
section
/-! DEFINITION. Work queues, admission, the task table, decrements, done records, TDEC and TLAUNCH (R341 to R353, R552). -/

namespace Sys2Proof.Machine

/-! ### Reading and writing for the scheduler -/

/-- The walks of the scheduler that touch some bytes of an address space (R230). -/
def State.touchRange (s : State) (asn : Nat) (va : DWord) (n : Nat) (write : Bool) : State :=
  (touched 65536 [(va.toNat, n)]).foldl (fun s p => s.touch asn (BitVec.ofNat 64 (65536 * p)) write) s

/-- Posts a residency fault of the scheduler at the owner die of the address space. -/
def State.schedFault (s : State) (asn : Nat) (write : Bool) (va : DWord) : State :=
  match s.mmp.spaces.find? (·.asn == asn) with
  | some a => s.engineFault (64 * a.owner) asn write va
  | none => s

/-- Where some bytes of an address space lie: not all are mapped for the access, a page is awaited, or their places. -/
inductive Span where
  | lost
  | wait (va : DWord)
  | places (l : List PAddr)
  deriving DecidableEq, Repr

/-- The places of `n` bytes from an address on, which may lie in two pages. -/
def State.span (s : State) (asn : Nat) (need : Need) (va : DWord) : Nat → Span
  | 0 => .places []
  | n + 1 =>
    match s.span asn need va n with
    | .places l =>
      (match s.translate asn need false (va + BitVec.ofNat 64 n) with
        | .ok pa _ => .places (l ++ [pa])
        | .resid => .wait (va + BitVec.ofNat 64 n)
        | _ => .lost)
    | .wait a => (match s.translate asn need false (va + BitVec.ofNat 64 n) with
        | .cause _ => .lost
        | .poisoned => .lost
        | _ => .wait a)
    | .lost => .lost

/-- The bytes of a done record for a completion (R350): STATUS, CAUSE, TEAMID, and COUNT raised by 1; the record's places are given. -/
def doneBytes (m : Mem) (ps : List PAddr) (status cause team : Nat) : List (PAddr × Byte) :=
  ((ps.drop 8).zip (natBytes 8 (status + 256 * cause + 2 ^ 32 * team))) ++ ((ps.take 8).zip (natBytes 8 ((bytesNat ((ps.take 8).map m.byte) + 1) % 2 ^ 64)))

/-- Writes a done record; the flag says that it is written, and not held up by a page that is to be made resident (R11). A record that has lost its mapping is not written. -/
def State.writeDone (s : State) (asn : Nat) (done : DWord) (status cause team : Nat) : State × Bool :=
  match s.span asn Need.store done 16 with
  | .places ps => ((s.touchRange asn done 16 true).modMem (fun m => m.store (doneBytes m ps status cause team)), true)
  | .wait va => (s.schedFault asn true va, false)
  | .lost => (s, true)

/-! ### Admission (R347) -/

/-- What admission comes to: check 1 fails, a page is awaited, the record is refused for a reason, its entry is not free, or it is admitted. -/
inductive Admit where
  | unreadable
  | wait (va : DWord)
  | refused (L : Launch) (reason : Nat)
  | busy (L : Launch)
  | ok (L : Launch)
  deriving DecidableEq, Repr

/-- Is DONE mapped for writing, the whole record (R347, check 1)? -/
def State.doneMapped (s : State) (asn : Nat) (L : Launch) : Bool := s.span asn Need.store L.done 16 != .lost

/-- Check 6 of R347: whether the launch fits an empty cluster, with its bed map; or the page that is awaited. -/
def State.launchFits (s : State) (asn : Nat) (L : Launch) : DWord ⊕ Bool :=
  if L.kind = 1 then .inr true
  else
    let rest (bs : List (Nat × Bed)) : Bool := L.fitsEmpty bs && decide (L.overflowNeed ≤ L.overflow) && (upFrom 0 8).any (fun d => s.pinRoom d (L.homeFrames + L.areaFrames))
    if L.graft then
      match s.bedsFrom asn L.bedmap L.cores 4096 0 with
      | .beds bs => .inr (bedsApart bs && L.entriesIn bs && rest bs)
      | .resid va => .inl va
      | _ => .inr false
    else .inr (rest [])

/-- Checks the bytes of a record in the order of R347, for queue `q`. -/
def State.checkLaunch (s : State) (q : WorkQueue) (bs : List Byte) : Admit :=
  let L := launchOf bs
  if !s.doneMapped q.asn L then .unreadable
  else if !launchCheck bs then .refused L 1
  else if !launchFields bs L then .refused L 2
  else if !q.window L.task || (L.succv && !q.window L.succ) then .refused L 3
  else if q.priomax < L.prio || (L.priv && !q.priv) then .refused L 4
  else match s.launchFits q.asn L with
    | .inl va => .wait va
    | .inr false => .refused L 5
    | .inr true => if (s.task L.task).st != .free then .busy L else .ok L

/-- Reads and checks the record at an address (R347). -/
def State.admission (s : State) (q : WorkQueue) (addr : DWord) : Admit :=
  if addr.toNat % 128 != 0 then .unreadable
  else match s.translate q.asn Need.load false addr with
    | .ok pa _ => if s.mem.poisoned [pa.line, pa.line + 1] then .unreadable else s.checkLaunch q (s.mem.bytes pa 128)
    | .resid => .wait addr
    | _ => .unreadable

/-- An entry becomes READY, behind those that are (R346, R354). -/
def State.readyTask (s : State) (n : Nat) : State :=
  let s := s.bumpStamp
  s.modTask n (fun e => { e with st := .ready, readyAt := s.ctl.stamp, readyTime := s.pkg.time.toNat })

/-- Enters an admitted record in its entry (R346). -/
def State.enterTask (s : State) (q : Nat) (L : Launch) : State :=
  let c : Half := (s.task L.task).counter + BitVec.ofNat 16 L.deps
  let s := s.modTask L.task (fun _ => { Task.free with st := .waiting, counter := c, launch := some L, queue := q })
  if c == 0 then s.readyTask L.task else s

/-- Records of a queue not yet consumed (R342). -/
def WorkQueue.pending (q : WorkQueue) : Nat := (q.bell - q.head).toNat

/-- Has a queue a record to fetch? -/
def WorkQueue.waiting (q : WorkQueue) : Bool := q.en && q.pending != 0

/-- The address of the record at HEAD (R342). -/
def WorkQueue.slot (q : WorkQueue) : DWord := q.ring + BitVec.ofNat 64 (128 * (q.head.toNat % 2 ^ q.log2n))

/-- Stops a queue: ERR is set, EN cleared, vector 0 raised (R342). -/
def State.stopQueue (s : State) (q : Nat) : State := (s.modQueue q (fun x => { x with err := true, en := false })).raise 0

/-- What admission reads of a launch, as walks that mark its pages (R230): the record, and its bed map. -/
def State.touchLaunch (s : State) (asn : Nat) (addr : DWord) (L : Launch) : State :=
  let s := s.touchRange asn addr 128 false
  if L.graft then s.touchRange asn L.bedmap 131072 false else s

/-- The first record of a queue has been decided. -/
def State.consume (s : State) (q : Nat) : State := (s.modQueue q (fun x => { x with head := x.head + 1 })).modSched (fun x => { x with turn := q })

/-- Does queue `a` come before queue `b` in the rotation after queue `turn` (R342)? -/
def turnBefore (turn a b : Nat) : Bool := decide ((a + 2 ^ 17 - turn - 1) % 2 ^ 17 < (b + 2 ^ 17 - turn - 1) % 2 ^ 17)

/-- Is the record at the head of a queue held up: its entry is not free, or a page is awaited? -/
def State.queueHeld (s : State) (q : WorkQueue) : Bool :=
  match s.admission q q.slot with
  | .busy _ => true
  | .wait _ => true
  | _ => false

/-- ADMISSION (R342, R347): one record of the queue whose turn it is. -/
def execAdmission (q : Nat) (s : State) : Host.Outcome State Fault Refusal :=
  event s (
    let x := s.queue q
    if !x.waiting || s.sched.queues.any (fun y => y.2.waiting && turnBefore s.sched.turn y.1 q && !s.queueHeld y.2) then none
    else match s.admission x x.slot with
      | .unreadable => some (s.stopQueue q)
      | .wait va => some (s.schedFault x.asn false va)
      | .refused L r =>
        let (s, done) := (s.touchLaunch x.asn x.slot L).writeDone x.asn L.done 1 r 0
        some (if done then s.consume q else s)
      | .busy _ => none
      | .ok L => some (((s.touchLaunch x.asn x.slot L).enterTask q L).consume q))

/-- DOORBELL (R342). -/
def execDoorbell (port q : Nat) (count : Word) (s : State) : Host.Outcome State Fault Refusal :=
  event s (
    if !s.pkg.bars || 2 ≤ port || 2 ^ 17 ≤ q then none
    else
      let x := s.queue q
      if !x.en then some s
      else if 2 ^ x.log2n < (count - x.head).toNat then some (s.stopQueue q)
      else some (s.modQueue q (fun x => { x with bell := count })))

/-- QUEUE_DESCRIPTOR_WRITE (R341). -/
def execQueueDescriptorWrite (q : Nat) (desc : BitVec 512) (s : State) : Host.Outcome State Fault Refusal :=
  event s (
    let n (lo len : Nat) : Nat := fldN desc (8 * lo) (8 * len)
    if 2 ^ 17 ≤ q then none
    else some (s.modQueue q (fun _ =>
      { ring := BitVec.ofNat 64 (n 0 8), log2n := n 8 1, en := desc.getLsbD 72, priv := desc.getLsbD 73, err := desc.getLsbD 74, priomax := n 10 1 % 8,
        asn := n 12 2, tidBase := n 14 2, tidCount := n 16 4, head := BitVec.ofNat 32 (n 20 4), recbase := BitVec.ofNat 64 (n 24 8), bell := BitVec.ofNat 32 (n 20 4) })))

/-! ### The task table (R346, R348) -/

/-- One decrement of an entry (R346). -/
def State.decrement (s : State) (n : Nat) : State :=
  let e := s.task n
  let s := s.modTask n (fun e => { e with counter := e.counter - 1 })
  if e.st == .waiting && !e.killed && e.counter == 1 then s.readyTask n else s

/-- TASK_DECREMENT (R346, R348): the next decrement that has reached the scheduler. -/
def execTaskDecrement (s : State) : Host.Outcome State Fault Refusal :=
  event s (
    match s.sched.decs with
    | [] => none
    | d :: r => some ((s.modSched (fun q => { q with decs := r })).decrement d.task))

/-- The frames that a team pins are free again. -/
def State.releaseFrames (s : State) (T : Team) : State :=
  (s.unpinFrames T.die T.homes).unpinFrames T.areaDie T.area

/-- Removes the saved teams of a task, and frees their areas' frames. -/
def State.dropSaved (s : State) (n : Nat) : State :=
  let gone := s.sched.saved.filter (fun x => x.team.task == n)
  let s := gone.foldl (fun s x => s.modMmp (fun m => { m with frames := m.frames.filter (fun f =>
    !(f.die == x.area.unit && !f.sram && decide (x.area.off / 65536 ≤ f.num) && decide (f.num < (x.area.off + x.areaLen + 65535) / 65536))) })) s
  let s := gone.foldl (fun s x => (s.releaseFrames x.team).dropGang (savedKey x.team.id)) s
  s.modSched (fun q => { q with saved := q.saved.filter (fun x => x.team.task != n) })

/-- Marks the resident teams of a task as killed, and ends its slice threads (R351, R361, R380). -/
def State.killTeams (s : State) (n : Nat) (cause : Byte) (bySystem : Bool) : State :=
  let s := s.dropSaved n
  { s with
    teams := s.teams.map (fun T => if T.task != n then T else match T.phase with
      | .killed _ _ => T
      | _ => { T with phase := .killed cause bySystem }),
    threads := s.threads.filter (fun th => th.task != n) }

/-- A task fails (R351): the first failure is what it reports. -/
def State.failTask (s : State) (n : Nat) (cause : Byte) (team : Nat) : State :=
  let e := s.task n
  if e.st != .ready || e.failed.isSome || e.killed then s
  else (s.modTask n (fun e => { e with failed := some (cause, team), threads := 0 })).killTeams n cause false

/-- TASK_KILL (R346, R350). A WAITING entry completes with STATUS 3 and is FREE; where the page of its done record is still to come, the request stays with the entry until it has been written. -/
def execTaskKill (task : Nat) (s : State) : Host.Outcome State Fault Refusal :=
  event s (
    let e := s.task task
    match e.st, e.launch with
    | .waiting, some L =>
      let (s, done) := s.writeDone (s.queue e.queue).asn L.done 3 0 0
      some (s.modTask task (fun e => if done then { Task.free with counter := e.counter } else { e with killed := true }))
    | .ready, some _ => if e.killed || e.failed.isSome then none else some ((s.modTask task (fun e => { e with killed := true, threads := 0 })).killTeams task 0 true)
    | _, _ => none)

/-! ### TDEC and TLAUNCH (R352, R353) -/

/-- TDEC (R348, R352). -/
def execTdec (w : RIWord) (s : State) : Host.Outcome State Fault Refusal :=
  issueG (.tdec w) s (fun x s =>
    let n := (x.env.src w.a 0).toNat
    if 65536 ≤ n then .trap s { cause := 0x02 }
    else if !(s.queue x.T.queue).window n then .trap s { cause := 0x11 }
    else if !s.relDone x.c x.t x.g (s.ctl.stamp + 1) then .stall s
    else s.askIo x (.done (s.sendDec n) {}))

/-- TLAUNCH once its record can be read and its release work is done (R353). -/
def tlaunchBody (w : RIWord) (q : WorkQueue) (addr : DWord) (x : Ctx) (s : State) : Res :=
  let answer (s : State) (v : Nat) : Res := .done s { writes := destWrites w.d false 4 x.ex (laneList.map (fun _ => BitVec.ofNat 64 v)) }
  match s.admission q addr with
  | .unreadable => answer s 1
  | .wait va => .stall (s.schedFault q.asn false va)
  | .refused L r =>
    let (s, done) := (s.touchLaunch q.asn addr L).writeDone q.asn L.done 1 r 0
    if done then answer s 1 else .stall s
  | .busy L => answer (s.touchLaunch q.asn addr L) 2
  | .ok L => answer ((s.touchLaunch q.asn addr L).enterTask x.T.queue L) 0

/-- TLAUNCH (R353). -/
def execTlaunch (w : RIWord) (s : State) : Host.Outcome State Fault Refusal :=
  issueG (.tlaunch w) s (fun x s =>
    let addr := x.env.src64 w.a 0
    let q := s.queue x.T.queue
    if addr.toNat % 128 != 0 then .trap s { cause := 0x16 }
    else match s.translate x.T.asn Need.load false addr with
      | .cause c => .trap s { cause := c }
      | .poisoned => .gone (s.killSpace x.T.asn)
      | .resid => .stall (s.engineFault x.c x.T.asn false addr)
      | .ok pa _ =>
        if s.mem.poisoned [pa.line, pa.line + 1] then .gone (s.killIntegrity x.t)
        else if !s.relDone x.c x.t x.g (s.ctl.stamp + 1) then .stall s
        else s.askIo x (tlaunchBody w q addr x s))

end Sys2Proof.Machine
end

