-- ==== Sys2Proof/Machine/NearMem.lean ====
section
/-! DEFINITION. The near-memory instructions of slice threads, and the abort of a step (R362 to R371, R526 to R528). -/

namespace Sys2Proof.Machine

/-! ### Rows (R362, R526, R527) -/

/-- The places of a row's bytes. -/
def rowPlaces (pa : PAddr) : List PAddr := (upFrom 0 rowBytes).map pa.add

/-- What the address of a row instruction comes to: a cause, or the place of the row. -/
def ThCtx.row (x : ThCtx) (w : MWord) (n : Need) (s : State) : Byte ⊕ PAddr :=
  let a := x.env.addr w 0
  if a.toNat % rowBytes != 0 then .inl 0x16 else s.threadPlace x.th n a

/-- Does a row mismatch its check words? -/
def State.rowPoisoned (s : State) (pa : PAddr) : Bool := s.mem.poisoned (upFrom pa.line 4)

/-- Is a row held back: a line of it is owned by a copy engine, or its frame is held (R221, R239)? -/
def State.rowHeld (s : State) (pa : PAddr) : Bool := s.heldAt pa || (upFrom 0 4).any (fun i => s.ownedAt (pa.add (64 * i)))

/-- NMLD (R362). -/
def execNmld (w : MWord) (s : State) : Host.Outcome State Fault Refusal :=
  issueT (.nmld w) s (fun x s =>
    match x.row w Need.load s with
    | .inl c => .trap s { cause := c }
    | .inr pa =>
      if s.rowHeld pa then .stall s
      else if s.rowPoisoned pa then .trap s { cause := 0x50 }
      else
        let s := (s.touch x.th.asn (x.env.addr w 0) false).scrub (upFrom pa.line 4)
        .done s { writes := (upFrom 0 4).map (fun m => (0, .v (dstNum w.d + m) 0xFFFF (laneList.map (fun l => BitVec.ofNat 32 (s.mem.num (pa.add (4 * (16 * m + l))) 4))))) })

/-- The bytes of four registers as a row. -/
def rowStore (pa : PAddr) (v : Nat → Nat → Word) (d : Nat) : List (PAddr × Byte) :=
  (upFrom 0 4).flatMap (fun m => laneList.flatMap (fun l => numBytes (pa.add (4 * (16 * m + l))) 4 (v (d + m) l).toNat))

/-- NMST (R362, R364, R368). -/
def execNmst (w : MWord) (s : State) : Host.Outcome State Fault Refusal :=
  issueT (.nmst w) s (fun x s =>
    match x.row w Need.store s with
    | .inl c => .trap s { cause := c }
    | .inr pa =>
      if (s.marks pa).unmapped then .trap s { cause := 0x58 }
      else if s.rowHeld pa then .stall s
      else if s.tagPoisoned pa then .trap s { cause := 0x50 }
      else if s.rowUnlogged x.th pa then .trap s { cause := 0x4A }
      else .done ((s.touch x.th.asn (x.env.addr w 0) true).sliceWrite (rowStore pa x.env.v (srcNum w.b))) {})

/-- The slot that the next entry of an undo area takes: the first free one from `next` on (R366). -/
def Undo.freeSlot (u : Undo) : Option Nat :=
  ((upFrom 0 u.slots).map (fun i => (u.next + i) % u.slots)).find? (fun k => !u.used.contains k)

/-- Appends an undo entry of a row to a slice's area, and sets the row's tag (R367). -/
def State.logRow (s : State) (slice k : Nat) (u : Undo) (tag row : PAddr) (va step : DWord) : State :=
  let e := entryAt (slice / 128) (u.slot k)
  let data : List (PAddr × Byte) := (upFrom 0 rowBytes).map (fun i => ((entryData e).add i, s.mem.byte (row.add i)))
  let prev := s.tagPtr tag
  let s := s.modMem (fun m => m.store (numBytes e 8 va.toNat ++ numBytes (e.add 8) 8 step.toNat ++ numBytes (e.add 16) 8 prev ++
    numBytes (e.add 24) 40 0 ++ data ++ numBytes tag 8 (step.toNat + 1) ++ numBytes (tag.add 8) 8 (u.slot k)))
  s.modMmp (fun m => { m with undo := spIns slice { u with used := u.used ++ [k], next := (k + 1) % u.slots } m.undo })

/-- NMLOG (R367). -/
def execNmlog (w : MWord) (s : State) : Host.Outcome State Fault Refusal :=
  issueT (.nmlog w) s (fun x s =>
    match x.row w Need.load s with
    | .inl c => .trap s { cause := c }
    | .inr pa =>
      let va := x.env.addr w 0
      match s.loggedRegion pa with
      | none => .trap s { cause := 0x4A }
      | some (r, rva) =>
        let tag := r.tagAt pa.unit rva
        if s.rowHeld pa then .stall s
        else if s.tagPoisoned pa || s.rowPoisoned pa then .trap s { cause := 0x50 }
        else if s.tagStep tag = x.th.step.toNat + 1 then .done s {}
        else
          let u := s.undoOf x.th.slice
          match u.freeSlot with
          | none => .trap s { cause := 0x4A }
          | some k => .done ((s.touch x.th.asn va false).logRow x.th.slice k u tag pa va x.th.step) {})

/-! ### Commit and abort (R369, R370, R528) -/

/-- Drops the entries for which a test on STEP holds from every undo area, and clears each PREV that names one of them (R369, R528). -/
def State.dropEntries (s : State) (gone : Nat → Bool) : State :=
  let dead (slice : Nat) (u : Undo) (k : Nat) : Bool := gone (s.entryStep (entryAt (slice / 128) (u.slot k)))
  let ptrs := s.mmp.undo.flatMap (fun x => (x.2.used.filter (dead x.1 x.2)).map (fun k => (x.1 / 128, x.2.slot k)))
  let live := s.mmp.undo.flatMap (fun x => (x.2.used.filter (fun k => !dead x.1 x.2 k)).map (fun k => (x.1 / 128, x.2.slot k)))
  let fix := live.filter (fun x => ptrs.contains (x.1, s.entryPrev (entryAt x.1 x.2)))
  let s := s.modMem (fun m => m.store (fix.flatMap (fun x => numBytes ((entryAt x.1 x.2).add 16) 8 0)))
  s.modMmp (fun m => { m with undo := m.undo.map (fun x => (x.1, { x.2 with used := x.2.used.filter (fun k => !dead x.1 x.2 k) })) })

/-- The rows of every logged region: die, region, virtual address. -/
def State.loggedRows (s : State) : List (Nat × Region × DWord) :=
  s.mmp.logged.flatMap (fun d => d.2.flatMap (fun r => (upFrom 0 (r.len / rowBytes)).map (fun k => (d.1, r, r.base + BitVec.ofNat 64 (rowBytes * k)))))

/-- Commits every step up to `step` (R369). -/
def State.commitSteps (s : State) (step : Nat) : State :=
  let tags := (s.loggedRows.map (fun x => x.2.1.tagAt x.1 x.2.2)).filter (fun t => s.tagStep t != 0 && decide (s.tagStep t ≤ step + 1))
  (s.modMem (fun m => m.store (tags.flatMap (fun t => numBytes t 16 0)))).dropEntries (fun n => decide (n ≤ step))

/-- Writes an undo entry's DATA back to its row. A line of DATA whose check word mismatches leaves the row's line mismatching: of a restore as a consumer the manual says nothing (DESIGN CHOICE, log 89). -/
def State.writeEntry (s : State) (die : Nat) (row : PAddr) (p : Nat) : State :=
  let data := entryData (entryAt die p)
  let bad := (upFrom 0 4).filter (fun i => s.mem.poison.contains (data.line + i))
  (s.sliceWrite ((upFrom 0 rowBytes).map (fun i => (row.add i, s.mem.byte (data.add i))))).modMem (fun m => m.spoil (bad.map (fun i => row.line + i)))

/-- Makes a list of entries a chain: the PREV of each names the next, that of the last none. -/
def State.relink (s : State) (die : Nat) (ps : List Nat) : State :=
  s.modMem (fun m => m.store ((ps.zip (ps.drop 1 ++ [0])).flatMap (fun x => numBytes ((entryAt die x.1).add 16) 8 x.2)))

/-- Restores one row and its tag (R370, steps 2 and 3): its entries of steps ≥ `step` are written back newest first along PREV, and the others remain a chain, which they may not be in the order of their steps (R367; log 89). -/
def State.restoreRow (s : State) (step : Nat) (x : Nat × Region × DWord) : State :=
  let tag := x.2.1.tagAt x.1 x.2.2
  let old := s.rowChain x.1 tag
  let back := old.filter (fun p => decide (step ≤ s.entryStep (entryAt x.1 p)))
  let rest := old.filter (fun p => decide (s.entryStep (entryAt x.1 p) < step))
  if back == [] then s
  else match s.translate x.2.1.asn {} false x.2.2 with
    | .ok pa _ =>
      let s := (back.foldl (fun s p => s.writeEntry x.1 pa p) s).relink x.1 rest
      let p := rest.headD 0
      s.modMem (fun m => m.store (numBytes tag 8 (if p = 0 then 0 else s.entryStep (entryAt x.1 p) + 1) ++ numBytes (tag.add 8) 8 p))
    | _ => s

/-- Aborts step `step` for task `own` (R370): every other running slice task of that step or a later one fails with 0x4A, the rows are restored, the entries are dropped. -/
def State.abortStep (s : State) (own step : Nat) : State :=
  let hit := s.sched.tasks.filter (fun e => e.1 != own && e.2.st == .ready && e.2.nextTeam != 0 && decide (step ≤ e.2.step.toNat) &&
    e.2.failed.isNone && !e.2.killed && (match e.2.launch with | some L => L.kind == 1 | none => false))
  let s := hit.foldl (fun s e => (s.modTask e.1 (fun t => { t with failed := some (0x4A, 0), aborted := true, threads := 0 })).killTeams e.1 0x4A false) s
  let s := s.loggedRows.foldl (fun s x => s.restoreRow step x) s
  s.dropEntries (fun n => decide (step ≤ n))

/-- The step that NMCOMMIT and NMABORT take: from lane 0 of Va and Va + 1 (R528). -/
def ThCtx.stepArg (x : ThCtx) (w : RIWord) : DWord := x.env.src64 w.a 0

/-- NMCOMMIT (R369). -/
def execNmcommit (w : RIWord) (s : State) : Host.Outcome State Fault Refusal :=
  issueT (.nmcommit w) s (fun x s => .done (s.commitSteps (x.stepArg w).toNat) {})

/-- NMABORT (R369, R370). -/
def execNmabort (w : RIWord) (s : State) : Host.Outcome State Fault Refusal :=
  issueT (.nmabort w) s (fun x s =>
    let n := x.stepArg w
    if n.toNat ≤ x.th.step.toNat then .trap s { cause := 0x02 }
    else .done (s.abortStep x.th.task n.toNat) {})

/-! ### The end of a task (R350, R351, R370) -/

/-- Is anything of a task still in the package: a team, a saved team, a slice thread? -/
def State.taskLives (s : State) (n : Nat) : Bool :=
  s.teams.any (·.task == n) || s.sched.saved.any (fun x => x.team.task == n) || s.threads.any (·.task == n)

/-- The abort that a failed or killed slice task makes before it completes (R370). -/
def State.abortOwn (s : State) (n : Nat) (e : Task) (L : Launch) : State :=
  if L.kind = 1 && (e.failed.isSome || e.killed) && !e.aborted && e.nextTeam != 0 then
    (s.modTask n (fun e => { e with aborted := true })).abortStep n e.step.toNat
  else s

/-- TASK_COMPLETION (R350, R351): the done record, then the decrement of SUCC, then the entry is free; its counter is kept. A WAITING entry that was killed before its done record could be written completes here (R346). -/
def execTaskCompletion (task : Nat) (s : State) : Host.Outcome State Fault Refusal :=
  event s (
    let e := s.task task
    match e.st, e.launch with
    | .ready, some L =>
      let ended := e.failed.isSome || e.killed
      let all := if L.kind = 1 then decide (e.nextTeam = 1) else decide (e.nextTeam = L.teams + 1)
      if s.taskLives task || !(ended || all) then none
      else
        let s := s.abortOwn task e L
        let (status, cause, team) := if e.killed then (3, 0, 0) else match e.failed with
          | some (c, t) => (2, c.toNat, t)
          | none => (0, 0, 0)
        let (s, done) := s.writeDone (s.queue e.queue).asn L.done status cause team
        if !done then some s
        else
          let s := if status = 0 && L.succv then s.decrement L.succ else s
          some ((s.modTask task (fun e => { Task.free with counter := e.counter })).dropGang task)
    | .waiting, some L =>
      if !e.killed then none
      else
        let (s, done) := s.writeDone (s.queue e.queue).asn L.done 3 0 0
        some (if done then s.modTask task (fun e => { Task.free with counter := e.counter }) else s)
    | _, _ => none)

end Sys2Proof.Machine
end

