-- ==== Sys2Proof/Machine/Steps.lean ====
section
/-! DEFINITION. GSTEP, prune sweeps, registered regions, and the system registers (R4, R92 to R99, R284, R285, R295 to R299, R316, R365, R366, R379, R546, R550, R551, R563). -/

namespace Sys2Proof.Machine

/-! ### Sweeps (R296, R297, R299) -/

/-- The lines of a stamped region that lie on a die, each with its package slice (R295, R296). -/
def State.regionLines (s : State) (die : Nat) (r : Region) : List (Nat × Nat) :=
  (upFrom 0 (r.len / 65536)).flatMap (fun p =>
    match s.translate r.asn {} false (r.base + BitVec.ofNat 64 (65536 * p)) with
    | .ok pa _ => if pa.unit = die then (upFrom 0 1024).map (fun i => (128 * die + sliceOf (pa.off + 64 * i), (pa.add (64 * i)).line)) else []
    | _ => [])

/-- A sweep begins (R296). -/
def State.startSweep (s : State) (T : DWord) : State :=
  let todo := s.mmp.stamped.flatMap (fun d => d.2.flatMap (s.regionLines d.1))
  s.modPkg (fun p => { p with sweeps := p.sweeps ++ [(T, todo)] })

/-- The place of a line of die SRAM with a given number. -/
def sramLine (n : Nat) : PAddr := { store := .sram, unit := 64 * n / 2 ^ 36, off := 64 * n % 2 ^ 36 }

/-- A word of a sweep at T: folded where its elapsed count is from 8192 to 32767 (R296). -/
def sweepWord (F : Nat → Nat → Nat) (T w : DWord) : Option DWord :=
  let x := stampedOf w
  if x.sv && decide (8192 ≤ x.elapsed T) && decide (x.elapsed T ≤ 32767) then some (foldWord F T w) else none

/-- The words of a line that a sweep folds, with their places. -/
def State.sweepLine (s : State) (ex : Nat) (T : DWord) (a : PAddr) : List (PAddr × Byte) :=
  (upFrom 0 8).flatMap (fun i =>
    let b := a.add (8 * i)
    match sweepWord (s.factor ex) T (BitVec.ofNat 64 (s.mem.num b 8)) with
    | some w => numBytes b 8 w.toNat
    | none => [])

/-- Removes the first line of a slice from a list. -/
def dropLine (slice line : Nat) (l : List (Nat × Nat)) : List (Nat × Nat) := l.filter (fun x => !(x.1 == slice && x.2 == line))

/-- PRUNE_SWEEP (R296): a slice unit visits its next line of the oldest sweep that has one for it. A line that mismatches, or whose factors lie in one that does, is left as it is (log 98). -/
def execPruneSweep (slice : Nat) (s : State) : Host.Outcome State Fault Refusal :=
  event s (
    match s.pkg.sweeps.findIdx? (fun x => x.2.any (·.1 == slice)) with
    | none => none
    | some k =>
      match (s.pkg.sweeps[k]?).bind (fun x => (x.2.find? (·.1 == slice)).map (fun y => (x.1, y.2))) with
      | none => none
      | some (T, line) =>
        let a := sramLine line
        if s.heldAt a || s.ownedAt a then none
        else
          let s := s.modPkg (fun p => { p with sweeps := p.sweeps.zipIdx.map (fun x => if x.2 = k then (x.1.1, dropLine slice line x.1.2) else x.1) })
          let words := (upFrom 0 8).map (fun i => BitVec.ofNat 64 (s.mem.num (a.add (8 * i)) 8))
          let fs := factorsOf (words.filter (fun w => (sweepWord (fun _ _ => 0) T w).isSome))
          if s.mem.poisoned [line] || s.factorBad (sliceExec slice) fs then some s
          else
            let s := (s.scrub [line]).keepFactors (sliceExec slice) fs
            let w := s.sweepLine (sliceExec slice) T a
            some (if w == [] then s else s.writeLine w))

/-- SWEEP_COMPLETION (R296, R297). -/
def execSweepCompletion (s : State) : Host.Outcome State Fault Refusal :=
  event s (
    match s.pkg.sweeps.findIdx? (fun x => x.2 == []) with
    | none => none
    | some k => some (s.modPkg (fun p => { p with sweeps := p.sweeps.eraseIdx k })))

/-- Would an advance to `n` be refused: `n` is a multiple of 8192, and the sweep begun at the one before is not complete (R297)? -/
def State.stepRefused (s : State) (n : DWord) : Bool := n.toNat % 8192 == 0 && s.pkg.sweeps.any (fun x => x.1 == n - 8192)

/-- GSTEP takes a value by an advance; a sweep begins at a multiple of 8192 from 8192 on (R285, R296). -/
def State.advance (s : State) (n : DWord) : State :=
  let s := s.setStep n
  if n.toNat % 8192 = 0 && n != 0 then s.startSweep n else s

/-- STEPADV (R285, R563). -/
def execStepadv (w : RIWord) (s : State) : Host.Outcome State Fault Refusal :=
  issueG (.stepadv w) s (fun x s =>
    if !(x.T.launch.stepown || x.G.priv) then .trap s { cause := 0x06 }
    else if !s.relDone x.c x.t x.g (s.ctl.stamp + 1) then .stall s
    else
      let n := s.pkg.gstep + 1
      let answer (v : DWord) : Eff := { writes := destWrites w.d false 4 x.ex (laneList.map (fun _ => v)) }
      s.askIo x (if s.stepRefused n then .done s (answer 1) else .done (s.advance n) (answer 0)))

/-! ### Regions (R295, R365, R366) -/

/-- Changes the frame table's entry for the frame of a byte, which is made if there is none. -/
def State.modFrame (s : State) (pa : PAddr) (asn page : Nat) (f : Frame64 → Frame64) : State :=
  let isIt (x : Frame64) : Bool := x.die == pa.unit && x.num == pa.off / 65536 && x.sram == (pa.store == .sram)
  let new : Frame64 := { die := pa.unit, sram := pa.store == .sram, num := pa.off / 65536, pinned := false, backing := none, asn := asn, page := page, marks := 0, fresh := false }
  s.modMmp (fun m =>
    if m.frames.any isIt then { m with frames := m.frames.map (fun x => if isIt x then f x else x) }
    else { m with frames := m.frames ++ [f new] })

/-- The pages of a region, with the places of their first bytes; none where a page is not resident with HOME = 1. -/
def State.regionPages (s : State) (asn : Nat) (base : DWord) (len : Nat) : Option (List (DWord × PAddr)) :=
  (upFrom 0 (len / 65536)).mapM (fun p =>
    let va := base + BitVec.ofNat 64 (65536 * p)
    match s.translate asn {} false va with
    | .ok pa _ => some (va, pa)
    | _ => none)

/-- Do two ranges of addresses meet? -/
def rangesMeet (a : DWord) (n : Nat) (b : DWord) (k : Nat) : Bool := decide (a.toNat < b.toNat + k) && decide (b.toNat < a.toNat + n)

/-- Pins the frames of some pages, and marks them. -/
def State.pinPages (s : State) (asn : Nat) (ps : List (DWord × PAddr)) (marks : BitVec 49) : State :=
  ps.foldl (fun s x => s.modFrame x.2 asn (vpage x.1) (fun f => { f with pinned := true, marks := f.marks ||| marks })) s

/-- Does a region overlap a window (R325, R365)? -/
def State.overWindow (s : State) (asn : Nat) (base : DWord) (len : Nat) : Bool :=
  s.refl.windows.any (fun w => w.asn == asn && rangesMeet base len w.base w.size)

/-- REGISTER_STAMPED_REGION (R295, R325): registered together on every die that holds a page of it, or refused. -/
def execRegisterStampedRegion (asn : Nat) (base : DWord) (len : Nat) (s : State) : Host.Outcome State Fault Refusal :=
  event s (
    if base.toNat % 65536 != 0 || len % 65536 != 0 || len = 0 || s.overWindow asn base len then none
    else match s.regionPages asn base len with
      | none => none
      | some ps =>
        let dies := (ps.map (fun x => x.2.unit)).eraseDups
        let table (d : Nat) : List Region := (spFind s.mmp.stamped d).getD []
        if dies.any (fun d => decide (256 ≤ (table d).length)) then none
        else
          let s := s.pinPages asn ps 0
          some (s.modMmp (fun m => { m with stamped := dies.foldl (fun l d => spIns d (table d ++ [{ asn := asn, base := base, len := len, tags := 0 }]) l) m.stamped })))

/-- Does a region overlap a stamped region or a window (R365)? -/
def State.regionClash (s : State) (asn : Nat) (base : DWord) (len : Nat) : Bool :=
  s.mmp.stamped.any (fun d => d.2.any (fun r => r.asn == asn && rangesMeet base len r.base r.len)) || s.overWindow asn base len

/-- REGISTER_LOGGED_REGION (R365): pages pinned and marked, with the shootdown that a change of marks is (R324), tags zero; or refused. -/
def execRegisterLoggedRegion (die asn : Nat) (base : DWord) (len : Nat) (s : State) : Host.Outcome State Fault Refusal :=
  event s (
    let table : List Region := (spFind s.mmp.logged die).getD []
    let n := ceilDiv (len / 16) 65536
    if base.toNat % 65536 != 0 || len % 65536 != 0 || len = 0 || 64 ≤ table.length || s.regionClash asn base len then none
    else match s.regionPages asn base len with
      | none => none
      | some ps =>
        if ps.any (fun x => x.2.unit != die || s.inUse x.2 1) then none
        else ((s.pinPages asn ps (1#49 <<< 48)).takeRun die n).map (fun (s, f) =>
          let s := (s.pinFrames die f n).shootPages asn ps
          let zero : List (PAddr × Byte) := (upFrom 0 (len / 16)).map (fun i => ({ store := .sram, unit := die, off := 65536 * f + i }, 0))
          (s.modMem (fun m => m.store zero)).modMmp (fun m => { m with logged := spIns die (table ++ [{ asn := asn, base := base, len := len, tags := 65536 * f }]) m.logged })))

/-- UNDO_AREA_SIZE (R366): an area with no entry in use takes a new size. -/
def execUndoAreaSize (slice size : Nat) (s : State) : Host.Outcome State Fault Refusal :=
  event s (
    let u := s.undoOf slice
    if 1024 ≤ slice || size % 65536 != 0 || size < 65536 || 2 ^ 24 < size || u.used != [] then none
    else
      let put (s : State) (base : Nat) : State := s.modMmp (fun m => { m with undo := spIns slice { base := base, size := size, used := [], next := 0 } m.undo })
      if size ≤ u.size then some (put s u.base)
      else (s.takeRun (slice / 128) (size / 65536)).map (fun (s, f) => put s (65536 * f)))

/-! ### System registers (R97, R98) -/

/-- The handler registers, those that cannot be written, and those for privileged groups. -/
def sysHandler : List Nat := [0x030, 0x031, 0x032, 0x033]
def sysReadOnly : List Nat := [0x011, 0x030, 0x032, 0x033]
def sysPrivileged : List Nat := [0x010, 0x020, 0x021, 0x040]

/-- Does an S register suit a system register: even, and its partner within the budget, for one of 64 bits (R550)? -/
def sysPairOk (n r budget : Nat) : Bool := !sysWide.contains n || (r % 2 == 0 && decide (r + 1 < budget))

/-- The number of S registers of the group. -/
def Ctx.sBudget (x : Ctx) : Nat := (x.T.launch.budget x.G.role).2.1

/-- The reserved bits of LST and of BCD and BCDM read as zero (R4, R92, R93). -/
def lstMask (v : Word) : Word := v &&& 0xFF1F
def bcdMask (v : Word) : Word := v &&& 0x73F

/-- The cause with which a SYSRD fails (R98, R550). -/
def sysrdCause (n r : Nat) (x : Ctx) : Option Byte :=
  if !(sysNarrow ++ sysWide).contains n || !sysPairOk n r x.sBudget || (sysHandler.contains n && !x.G.inHandler) then some 0x02 else none

/-- The cause with which a SYSWR fails (R98, R550). -/
def syswrCause (n r : Nat) (x : Ctx) : Option Byte :=
  if !(sysNarrow ++ sysWide).contains n || !sysPairOk n r x.sBudget || sysReadOnly.contains n || (sysHandler.contains n && !x.G.inHandler) then some 0x02
  else if sysPrivileged.contains n && !x.G.priv then some 0x06
  else none

/-- ARR as a core reads it: the count of its pinned bed, or 0 (R97, R316). -/
def Ctx.arr (x : Ctx) : DWord := match x.sh.pinned with | some b => spGet 0 x.T.arr b | none => 0

/-- A flag in bit 0. -/
def flagWord (b : Bool) : DWord := if b then 1 else 0

/-- What a system register reads as (R97). -/
def sysValue (s : State) (x : Ctx) (n : Nat) : DWord :=
  match n with
  | 0x000 => x.G.lst.setWidth 64
  | 0x001 => x.G.bcd.setWidth 64
  | 0x002 => x.sh.bcdm.setWidth 64
  | 0x004 => flagWord (early s.ctl.draws 55000 x.sh.trnx (x.run.pend.filterMap (fun p => if p.w == .trnx then some true else none) ++ x.sh.trnxLate.map (fun _ => true)))
  | 0x005 => flagWord x.sh.asat
  | 0x010 => s.stepOf x.c
  | 0x011 => s.issueTime x.G
  | 0x020 => x.T.recbase
  | 0x021 => s.pkg.factBase
  | 0x022 => x.T.trapvec
  | 0x030 => x.G.cause.setWidth 64
  | 0x031 => x.G.epc
  | 0x032 => x.G.eaddr
  | 0x033 => x.G.elanes.setWidth 64
  | _ => x.arr

/-- SYSRD (R551). -/
def execSysrd (w : RIWord) (s : State) : Host.Outcome State Fault Refusal :=
  issueG (.sysrd w) s (fun x s =>
    let n := sysNum w
    match sysrdCause n (dstNum w.d) x with
    | some c => .trap s { cause := c }
    | none =>
      let v := sysValue s x n
      let wide := sysWide.contains n
      .done s { writes := destWrites w.d wide 2 x.ex (laneList.map (fun _ => v)),
                latch := if wide then none else some (2, true, laneList.map (fun _ => v.setWidth 32)) })

/-- A SYSWR of register numbers that `f` handles, once its checks have passed. -/
def sysWrite (w : RIWord) (f : Ctx → State → Nat → DWord → Res) (x : Ctx) (s : State) : Res :=
  let n := sysNum w
  let r := srcNum w.a
  match syswrCause n r x with
  | some c => .trap s { cause := c }
  | none => f x s n (if sysWide.contains n then x.env.s (r + 1) ++ x.env.s r else (x.env.s r).setWidth 64)

/-- SYSWR of LST, BCD, BCDM and EPC (R97, R551). -/
def execSyswr (w : RIWord) (s : State) : Host.Outcome State Fault Refusal :=
  issueG (.syswr w) s (sysWrite w (fun x s n v =>
    match n with
    | 0x000 => .done (s.modGroup x.t x.g (fun G => { G with lst := lstMask (v.setWidth 32) })) {}
    | 0x001 => .done (s.modGroup x.t x.g (fun G => { G with bcd := bcdMask (v.setWidth 32) })) {}
    | 0x002 => .done (s.modShare x.t x.G.core (fun sh => { sh with bcdm := bcdMask (v.setWidth 32) })) {}
    | _ => .done (s.modGroup x.t x.g (fun G => { G with epc := v })) {}))

/-- SYSWR_GSTEP (R97, R299, R563): a release at PKG scope, then GSTEP and a sweep. -/
def execSyswrGstep (w : RIWord) (s : State) : Host.Outcome State Fault Refusal :=
  issueG (.syswrGstep w) s (sysWrite w (fun x s _ v =>
    if !s.relDone x.c x.t x.g (s.ctl.stamp + 1) then .stall s
    else s.askIo x (.done ((s.setStep v).startSweep (v &&& ~~~8191#64)) {})))

/-- SYSWR_FACTBASE (R99, R288). R99 lets a party see the old or the new value until a PKG-scope acquire; in the model every party sees the new one from this step on (DESIGN CHOICE, log 61). -/
def execSyswrFactbase (w : RIWord) (s : State) : Host.Outcome State Fault Refusal :=
  issueG (.syswrFactbase w) s (sysWrite w (fun x s _ v =>
    .done (s.modPkg (fun p => { p with factBase := v, factAsn := x.T.asn, factCopy := [] })) {}))

/-- SYSWR_RECBASE (R99). -/
def execSyswrRecbase (w : RIWord) (s : State) : Host.Outcome State Fault Refusal :=
  issueG (.syswrRecbase w) s (sysWrite w (fun x s _ v => .done (s.modTeam x.t (fun T => { T with recbase := v })) {}))

/-- SYSWR_TRAPVEC (R99). -/
def execSyswrTrapvec (w : RIWord) (s : State) : Host.Outcome State Fault Refusal :=
  issueG (.syswrTrapvec w) s (sysWrite w (fun x s _ v => .done (s.modTeam x.t (fun T => { T with trapvec := v })) {}))

/-- Does a set of TRNX that is on its way take effect in the cycle of a clear or later (R96)? Of the run before it in its quadrant, which it follows without a gap, a group knows it by its own cycle; else the manual leaves open how the cycles of two runs lie, and so does the model (DESIGN CHOICE, log 88). -/
def Ctx.late (x : Ctx) (s : State) (y : LateSet) : Bool :=
  if x.G.place == .slot y.quad && decide (y.left < x.run.clk) then false
  else if x.G.place == .slot y.quad && y.tight && y.runs == 1 then true
  else (Config.freeWord (4096 * s.ctl.draws + 4091)).getLsbD (y.gid % 32)

/-- A share whose TRNX is cleared: the sets that take effect later stay on their way (R95, R96). -/
def Share.clearTrnx (sh : Share) (late : LateSet → Bool) : Share := { sh with trnx := false, trnxLate := sh.trnxLate.filter late }

/-- SYSWR_TRNX_ASAT (R95): a 0 in bit 0 clears the flag. -/
def execSyswrTrnxAsat (w : RIWord) (s : State) : Host.Outcome State Fault Refusal :=
  issueG (.syswrTrnxAsat w) s (sysWrite w (fun x s n v =>
    if v.getLsbD 0 then .done s {}
    else .done (s.modShare x.t x.G.core (fun sh => if n = 4 then sh.clearTrnx (x.late s) else { sh with asat := false })) {}))

/-- SYSWR_ARR (R316). -/
def execSyswrArr (w : RIWord) (s : State) : Host.Outcome State Fault Refusal :=
  issueG (.syswrArr w) s (sysWrite w (fun x s _ v =>
    match x.sh.pinned with
    | some b => .done (s.modTeam x.t (fun T => { T with arr := spPut 0 T.arr b v })) {}
    | none => .done s {}))

/-- TRET (R379): it waits for the group's outstanding accesses, as a park. -/
def execTret (w : RIWord) (s : State) : Host.Outcome State Fault Refusal :=
  issueG (.tret w) s (fun x s =>
    if !x.G.inHandler then .trap s { cause := 0x02 }
    else .done (s.modGroup x.t x.g (fun G => { G with parks := G.parks ++ [.tret] })) { stay := true, ends := true })

end Sys2Proof.Machine
end

