-- ==== Sys2Proof/Machine/Fetch.lean ====
section
/-! DEFINITION. Fetching: the words of groups, sequencers and slice threads, the checks of lines and pairs, the lines of a run (R68, R71, R75, R76, R182, R305, R360, R406 to R409, R439). -/

namespace Sys2Proof.Machine

/-! ### Lines and pairs -/

/-- The check of a line's word (R408, R385). -/
def ILine.fault (x : ILine) : Option Byte :=
  if x.bad || fldN x.word 16 8 != lineParity x.data then some 0x04
  else if fldN x.word 9 7 != 0 || fldN x.word 24 8 != 0 then some 0x02
  else none

/-- The OP of a word. -/
def wordOp (w : InstrWord) : Nat := fldN w 88 8

/-- Are both opcodes in a range? -/
def bothIn (lo hi a b : Nat) : Bool := decide (lo ≤ a) && decide (a ≤ hi) && decide (lo ≤ b) && decide (b ≤ hi)

/-- Does slot k + 1 read a latch that slot k writes: X0, where slot k is a producer (R76, R77)? -/
def latchClash (a b : Form) : Bool := a.producer && (b.reads 0).contains (.x 0)

/-- Does the pair that begins at slot `k` break R76? `nreg` gives the registers of a tile access. -/
def ILine.pairBad (x : ILine) (k : Nat) (nreg : Form → Nat) : Bool :=
  let a := x.slot k
  let b := x.slot (k + 1)
  let p := fldN x.word 5 4
  p &&& (p / 2) != 0 || (readHdr a).runEnd || (decide (1 ≤ wordOp a) && decide (wordOp a ≤ 0x0E)) ||
  bothIn 0x70 0x7E (wordOp a) (wordOp b) || bothIn 0x46 0x4B (wordOp a) (wordOp b) ||
  (match instrOf a, instrOf b with
    | some i, some j =>
      let f := formOf i
      let g := formOf j
      overlap (f.writes (nreg f)) (g.reads (nreg g)) || overlap (f.writes (nreg f)) (g.writes (nreg g)) || latchClash f g ||
        sysOverlap f.sysWrites g.sysReads || sysOverlap f.sysWrites g.sysWrites
    | _, _ => false)

/-- Where a word with a faulty field goes in a group (R411, R439): a role that may not issue its OP comes first. -/
def badFieldGroup (T : Team) (G : Group) (w : InstrWord) : Byte :=
  if !groupOp G.role (wordOp w) || !launchAllows T.launch (wordOp w) then 0x07 else 0x02

/-! ### What a party executes next -/

/-- What a fetch comes to: an instruction to execute, or a state in which the party has taken a cause or has to wait. -/
inductive Fetched where
  | run (i : Instr) (s : State)
  | moved (s : State)
  | nobody

/-- The faults of a group's slot: the line's word, its pair, the forced end in a pair (R68, R76, R408); and a branch target that is still to be tested, where its legal-target bit is clear (R69, R307). -/
def slotFault (G : Group) (r : Run) (x : ILine) (pc : DWord) : Option Byte :=
  match x.fault with
  | some c => some c
  | none =>
    if G.untested.contains pc && !x.word.getLsbD (slotOf pc) then some 0x03
    else if !r.second && x.pairs (slotOf pc) && (x.pairBad (slotOf pc) G.tileCount || decide (23 ≤ r.count)) then some 0x02 else none

/-- Is the translation of a line's fetch at hand: in the core TLB with a resident page, or that of the pinned bed (R71, R303)? -/
def State.fetchHeld (s : State) (w : Who) (a : DWord) : Bool :=
  (w.T.launch.graft && w.T.inBed w.sh.pinned a) || (s.tlbHit w.c w.T.asn (lineAddr a) false).any (fun e => leafGrants Need.fetch e.leaf && homeBit e.leaf)

/-- The line of a group's next instruction: that of the instruction store, unless its page has lost the mapping or EX since (R71). -/
def State.lineAt (s : State) (w : Who) (pc : DWord) : Trans ⊕ ILine :=
  match s.iline w.c w.T.asn pc with
  | some x =>
    if s.fetchHeld w pc then .inr x
    else match s.translate w.T.asn Need.fetch false (lineAddr pc) with
      | .cause c => .inl (.cause c)
      | .poisoned => .inl .poisoned
      | _ => .inr x
  | none => .inl (s.translate w.T.asn Need.fetch false (lineAddr pc))

/-- Can a line not be brought to a core, since no module of an edge is up on the way to the tables or to the line (R393)? -/
def State.lineCut (s : State) (c asn : Nat) (a : DWord) : Bool :=
  s.coreCut c asn (lineAddr a) false || (match s.peek c asn Need.fetch (lineAddr a) with
    | .ok pa _ => !s.reaches (dieOf c) pa.unit
    | _ => false)

/-- A branch target of a group that is fetched has been tested. -/
def State.tested (s : State) (t : Nat) (G : Group) (pc : DWord) : State :=
  if G.untested.contains pc then s.modGroup t G.gid (fun G => { G with untested := G.untested.filter (· != pc) }) else s

/-- The next instruction of a group that has a run. -/
def State.fetchGroup (s : State) (t g : Nat) : Fetched :=
  match s.who t g with
  | none => .nobody
  | some w =>
    match w.G.run with
    | none => .nobody
    | some r =>
      let pc := (w.G.lane ((lowestLane r.act).getD 0)).pc
      let trap (c : Byte) : Fetched := .moved (s.takeTrap t g { cause := c } r.act pc)
      if !isSlot pc then trap 0x03
      else if w.T.launch.graft && !w.T.inBed w.sh.pinned pc then trap 0x38
      else match s.lineAt w pc with
        | .inl (.cause c) => trap c
        | .inl .poisoned => .moved (s.killSpace w.T.asn)
        | .inl _ => .moved (if s.lineCut w.c w.T.asn pc then s.killTeam t 0x50 else s.endRun t g w.c r)
        | .inr x =>
          match slotFault w.G r x pc with
          | some c => trap c
          | none =>
            let s := s.tested t w.G pc
            match instrOf (x.slot (slotOf pc)) with
            | some i => .run i s
            | none => .moved (s.takeTrap t g { cause := badFieldGroup w.T w.G (x.slot (slotOf pc)) } r.act pc)

/-- The line of an address as memory has it. -/
def State.lineOf (s : State) (asn : Nat) (a : DWord) (pa : PAddr) : ILine :=
  let p := { pa with off := pa.off / 64 * 64 }
  { asn := asn, addr := lineAddr a, data := imageOf 512 (s.mem.bytes p 64), bad := s.mem.poisoned [p.line] }

/-- Is a line one that a core must keep: it lies in a bed pinned there, or in the lines of a run in progress there (R71, R303)? -/
def State.lineKept (s : State) (c : Nat) (x : ILine) : Bool :=
  s.teams.any (fun T => T.asn == x.asn && T.shares.zipIdx.any (fun y => y.1.core == c && (T.inBed y.1.pinned x.addr ||
    (match y.1.seq.st with | .running => lineAddr y.1.seq.pc == x.addr | _ => false) ||
    T.groups.any (fun G => G.core == y.2 && (match G.run with
      | some r => (lanesOf r.act).any (fun l => decide ((lineAddr (G.lane l).pc).toNat ≤ x.addr.toNat) && decide (x.addr.toNat < (lineAddr (G.lane l).pc).toNat + 384))
      | none => false)))))

/-- Does a line lie in a bed that a core has pinned (R303)? -/
def State.linePinned (s : State) (c : Nat) (x : ILine) : Bool :=
  s.teams.any (fun T => T.asn == x.asn && T.shares.any (fun sh => sh.core == c && !sh.retired && T.inBed sh.pinned x.addr))

/-- Puts a line into an instruction store of 1024 lines (R13): one that is not needed leaves it, else one that is not pinned. Where pinned lines fill the store, they stay, and the line finds no place until their share has retired (R303; DESIGN CHOICE, log 76). -/
def State.keepLine (s : State) (c : Nat) (x : ILine) : State :=
  let k := s.core c
  let rest := k.istore.filter (fun y => !(y.asn == x.asn && y.addr == x.addr))
  let rest := if rest.length < 1024 then rest
    else match (rest.reverse.find? (fun y => !s.lineKept c y)) with
      | some y => rest.erase y
      | none => (match (rest.reverse.find? (fun y => !s.linePinned c y)) with
          | some y => rest.erase y
          | none => rest)
  s.setCore c { k with istore := if rest.length < 1024 then x :: rest else k.istore }

/-- Loads a line into an instruction store: the translation found, with the core TLB filled. A line whose frame a page move holds, or to which a link retrains, is waited for (R239, R393). -/
def State.loadLine (s : State) (c asn : Nat) (a : DWord) : State × Trans :=
  let (s, r) := s.coreTranslate c asn Need.fetch (lineAddr a)
  match r with
  | .ok pa _ => if s.heldAt pa || s.training c pa.unit pa.slice then (s, .resid) else ((s.scrub [pa.line]).keepLine c (s.lineOf asn a pa), r)
  | _ => (s, r)

/-- Brings a line into an instruction store, where it is not there, and its translation into the core TLB (R71). -/
def State.fetchLine (s : State) (c asn : Nat) (a : DWord) : State × Trans :=
  if (s.iline c asn a).isSome then s.coreTranslate c asn Need.fetch (lineAddr a) else s.loadLine c asn a

/-- The instruction of a slot of a stream, or the cause that its word gives: an OP that the party does not execute gives `role`, before a non-zero PAIR and the other fields (R411, R439); an unassigned OP is an instruction of its own, whose cause comes first. -/
def ILine.streamInstr (x : ILine) (pc : DWord) (mayIssue : Nat → Bool) (role : Byte) : Byte ⊕ Instr :=
  let w := x.slot (slotOf pc)
  match instrOf w with
  | some (.unassignedOpcode v) => .inr (.unassignedOpcode v)
  | some i => if !mayIssue (wordOp w) then .inl role else if fldN x.word 5 4 != 0 then .inl 0x02 else .inr i
  | none => .inl (if mayIssue (wordOp w) then 0x02 else role)

/-- The next instruction of a sequencer (R182, R186, R408, R439). -/
def State.fetchSeq (s : State) (t j : Nat) : Fetched :=
  match s.team? t with
  | none => .nobody
  | some T =>
    match T.share? j with
    | none => .nobody
    | some sh =>
      let pc := sh.seq.pc
      let trap (s : State) (c : Byte) : Fetched := .moved (s.seqTrap t j c)
      if sh.seq.st != .running then .nobody
      else if !isSlot pc then trap s 0x03
      else if T.launch.graft && !T.inBed sh.pinned pc then trap s 0x38
      else
        if (s.iline sh.core T.asn pc).isNone && s.lineCut sh.core T.asn pc then .moved (s.killTeam t 0x50) else
        let (s, r) : State × Trans := if (s.iline sh.core T.asn pc).isSome then (s, .resid) else s.fetchLine sh.core T.asn pc
        match s.iline sh.core T.asn pc with
        | none =>
          (match r with
            | .cause c => trap s c
            | .poisoned => .moved (s.killSpace T.asn)
            | _ => .moved (if s.translate T.asn Need.fetch false (lineAddr pc) == .resid then s.engineFault sh.core T.asn false (lineAddr pc) else s))
        | some x =>
          match x.fault with
          | some c => trap s c
          | none =>
            match x.streamInstr pc seqOp 0x07 with
            | .inl c => trap s c
            | .inr i => .run i s

/-- A turn of a slice thread: it goes behind the other threads of its unit (R359). -/
def State.rotate (s : State) (slice k : Nat) : State :=
  { s with threads := s.threads.map (fun x => if x.slice != slice then x else { x with waited := if x.num == k then 0 else x.waited + 1 }) }

/-- The next instruction of a slice thread, whose turn this is (R358 to R360, R439). -/
def State.fetchThread (s : State) (slice k : Nat) : Fetched :=
  match s.thread? slice k with
  | none => .nobody
  | some th =>
    let trap (c : Byte) : Fetched := .moved (s.failThread slice k c)
    if !isSlot th.pc then trap 0x03
    else match s.threadPlace th Need.fetch (lineAddr th.pc) with
      | .inl c => trap c
      | .inr pa =>
        let x := s.lineOf th.asn th.pc pa
        if x.bad then trap 0x50
        else match x.streamInstr th.pc threadOp 0x01 with
          | .inl c => trap c
          | .inr i => .run i (((s.touch th.asn (lineAddr th.pc) false).scrub [pa.line]).rotate slice k)

/-- The next instruction of a party. -/
def State.fetch (s : State) (p : Party) : Fetched :=
  match p with
  | .group t g => s.fetchGroup t g
  | .seq t j => s.fetchSeq t j
  | .thread a b => s.fetchThread a b

/-! ### The lines of a run (R71) -/

/-- The slots of a run from an address on: the addresses of its instructions, until B, the 24th, or a line that is not at hand with its translation. Answers the first line that is missing, if any. -/
def State.runLines (s : State) (w : Who) : Nat → DWord → Option DWord
  | 0, _ => none
  | n + 1, pc =>
    match s.iline w.c w.T.asn pc with
    | none => some (lineAddr pc)
    | some x =>
      if !s.fetchHeld w pc then some (lineAddr pc)
      else if (readHdr (x.slot (slotOf pc))).runEnd then none else s.runLines w n (nextSlot pc)

/-- The first line that the run beginning at `pc` lacks and that can be had: in graft mode only lines of the pinned bed count, and a line whose translation gives a cause is not required. -/
def State.missingLine (s : State) (w : Who) (pc : DWord) : Option DWord :=
  if !isSlot pc then none
  else match s.runLines w 24 pc with
    | none => none
    | some a =>
      if w.T.launch.graft && !w.T.inBed w.sh.pinned a then none
      else match s.translate w.T.asn Need.fetch false a with
        | .cause _ => none
        | _ => some a

/-- The wait count of a PC set, and its address, among the runnable lanes (R47). -/
def Group.sets (G : Group) : List (DWord × Nat) :=
  ((lanesOf G.runnable).map (fun l => (G.lane l).pc)).eraseDups.map (fun pc =>
    (pc, ((lanesOf G.runnable).filter (fun l => (G.lane l).pc == pc)).foldl (fun a l => max a (G.lane l).wcnt) 0))

/-- Is one set taken before another: the greater age and then the lower PC, or the lower PC alone (R47)? -/
def setBefore (forced : Bool) (a b : DWord × Nat) : Bool :=
  if forced && a.2 != b.2 then decide (b.2 < a.2) else decide (a.1.toNat < b.1.toNat)

/-- The PC set for which the group issues its next run (R47). -/
def Group.choose (G : Group) : Option DWord :=
  let ss := G.sets
  let forced := ss.any (fun x => decide (16 ≤ x.2 + (ss.filter (fun y => y.1 != x.1 && decide (x.2 ≤ y.2))).length))
  (ss.foldl (fun (a : Option (DWord × Nat)) x => match a with
    | some y => if setBefore forced x y then some x else some y
    | none => some x) none).map (·.1)

/-- The lanes of a PC set. -/
def Group.setLanes (G : Group) (pc : DWord) : Lanes := maskOf (fun l => inMask G.runnable l && (G.lane l).pc == pc)

/-- Does a group wait for the lines of its next run (R71)? -/
def State.wantsLines (s : State) (w : Who) : Bool :=
  (match w.G.place with | .slot _ => true | _ => false) && w.G.run.isNone && w.G.parks == [] && w.T.phase == .running &&
  (match w.G.meetHold.choose with
    | some pc => !w.G.ready || (s.missingLine w pc).isSome
    | none => false)

/-- Fetches the missing lines of a run, one after the other; a page that is not resident is asked for. -/
def State.fetchRun (s : State) (t g : Nat) (pc : DWord) : Nat → State
  | 0 => s
  | n + 1 =>
    match s.who t g with
    | none => s
    | some w =>
      match s.missingLine w pc with
      | none => s.modGroup t g (fun G => { G with ready := true })
      | some a =>
        if s.lineCut w.c w.T.asn a then s.killTeam t 0x50
        else match s.fetchLine w.c w.T.asn a with
        | (s, .ok _ _) => s.fetchRun t g pc n
        | (s, .poisoned) => s.killSpace w.T.asn
        | (s, _) => if s.translate w.T.asn Need.fetch false a == .resid then s.engineFault w.c w.T.asn false a else s

/-- INSTRUCTION_LINE_FETCH (R71). -/
def execInstructionLineFetch (t g : Nat) (s : State) : Host.Outcome State Fault Refusal :=
  event s (
    match s.who t g with
    | none => none
    | some w =>
      if s.wantsLines w then w.G.meetHold.choose.map (fun pc => (s.modGroup t g (fun G => { G with ready := false })).fetchRun t g pc 26)
      else none)

end Sys2Proof.Machine
end

