-- ==== Sys2Proof/Machine/Runs.lean ====
section
/-! DEFINITION. Runs and parks: RUN_ISSUE, GROUP_RESUME, OPERAND_LOG_REPLAY, CWAIT_TIMEOUT, the delivery of asynchronous causes, the retirement of groups (R35 to R42, R46 to R52, R68 to R86, R202, R242, R243, R276, R307, R316, R318, R336, R375 to R379, R473, R559). -/

namespace Sys2Proof.Machine

/-! ### Arbitration (R83, R84, R276) -/

/-- Does a quadrant of a core hold the group's slot? -/
def Group.inQuad (T : Team) (G : Group) (c q : Nat) : Bool :=
  G.place == .slot q && (match T.share? G.core with | some sh => sh.core == c | none => false)

/-- The groups in a quadrant. -/
def State.quadGroups (s : State) (c q : Nat) : List (Team × Group) :=
  s.teams.flatMap (fun T => (T.groups.filter (fun G => G.inQuad T c q)).map (fun G => (T, G)))

/-- Is a group ready (R46, R71, R83)? An asynchronous cause that it can take comes first (R375). -/
def State.groupReady (s : State) (w : Who) : Bool :=
  w.T.phase == .running && w.G.run.isNone && w.G.parks == [] && w.G.ready && (w.G.causes == [] || w.G.inHandler) &&
  (match w.G.place with | .slot _ => true | _ => false) &&
  (match w.G.meetHold.choose with | some pc => (s.missingLine w pc).isNone | none => false)

/-- Is group `a` less recently issued than group `b` (R84)? -/
def lessRecent (a b : Group) : Bool :=
  match a.lastIssue, b.lastIssue with
  | none, some _ => true
  | some _, none => false
  | some x, some y => decide (x < y)
  | none, none => if a.since = b.since then decide (a.gid < b.gid) else decide (a.since < b.since)

/-- Does group `a` come before group `b` in a quadrant's choice (R83)? -/
def quadBefore (forced : Bool) (a b : Group) : Bool :=
  if forced then (if a.qwait = b.qwait then lessRecent a b else decide (b.qwait < a.qwait))
  else (if a.prio = b.prio then lessRecent a b else decide (b.prio < a.prio))

/-- Is the choice of a quadrant forced by a wait count (R83)? -/
def quadForced (gs : List (Nat × Group)) : Bool :=
  gs.any (fun x => decide (63 ≤ x.2.qwait + (gs.filter (fun y => (y.1, y.2.gid) != (x.1, x.2.gid) && decide (x.2.qwait ≤ y.2.qwait))).length))

/-- The ready groups of a quadrant, by team name. -/
def State.quadReady (s : State) (c q : Nat) : List (Nat × Group) :=
  (s.quadGroups c q).filterMap (fun x => match s.who x.1.id x.2.gid with
    | some w => if s.groupReady w then some (x.1.id, x.2) else none
    | none => none)

/-- May the atomic service group of a cluster issue a run in quadrant 0 of its core: no group's run holds the slot, and the last run there was not its own, or no other can come (R84, R276)? Beside a group that is held in the slot it runs too, since what that group waits for may be its work (log 71). -/
def State.serviceTurn (s : State) (cluster : Nat) : Bool :=
  let c := coreId (cluster / 4) (cluster % 4) 0
  let q := (spFind (s.core c).quads 0).getD { holder := none, lastSvc := false }
  match q.holder with
  | some (t, g) => (match (s.group? t g).bind (·.run) with | some r => r.stalled | none => true)
  | none => !q.lastSvc || s.pkg.halt.isSome || s.quadReady c 0 == []

/-- The service group's run is the last one of quadrant 0 of its core. -/
def State.markService (s : State) (cluster : Nat) : State :=
  s.modCore (coreId (cluster / 4) (cluster % 4) 0) (fun k => { k with quads := spIns 0 { (spFind k.quads 0).getD { holder := none, lastSvc := false } with lastSvc := true } k.quads })

/-- ATOMIC_SERVICE_REQUEST (R276): the service group of a cluster performs the first request of its queue, once the drain that it waits for has been made (R270), unless a copy engine or a page move has its line. -/
def execAtomicServiceRequest (cluster : Nat) (s : State) : Host.Outcome State Fault Refusal :=
  event s (
    match (spFind s.pkg.svc cluster).getD [] with
    | [] => none
    | r :: l =>
      if s.svcDrains r || s.svcHeld r || !s.serviceTurn cluster then none
      else some (((s.modPkg (fun p => { p with svc := spPut [] p.svc cluster l })).markService cluster).serve cluster r))

/-- Is it the atomic service group's turn in a quadrant (R276)? -/
def State.serviceFirst (s : State) (c q : Nat) : Bool :=
  q == 0 && rankOf c == 0 && (spFind s.pkg.svc (c / 16)).getD [] != [] && !(match spFind (s.core c).quads q with | some x => x.lastSvc | none => false)

/-- The wait counts of the lanes at a run's start (R47). -/
def Group.countWaits (G : Group) (act : Lanes) : Group :=
  G.modLanes G.runnable (fun l L => { L with wcnt := if inMask act l then 0 else L.wcnt + 1 })

/-- A run begins in a quadrant: the sets of TRNX that runs before it there have on their way are a run further back (R96). -/
def State.passRun (s : State) (c q : Nat) : State :=
  { s with teams := s.teams.map (fun T => { T with shares := T.shares.map (fun sh =>
      if sh.core == c then { sh with trnxLate := sh.trnxLate.map (fun y => if y.quad == q then { y with runs := y.runs + 1 } else y) } else sh) }) }

/-- Gives a quadrant's slot to a group (R47, R50, R83). Its own sets of TRNX have taken effect, as every result of its run before has (R70, R96). -/
def State.issueRun (s : State) (w : Who) (q : Nat) (others : List (Nat × Group)) : State :=
  let s := others.foldl (fun s x => s.modGroup x.1 x.2.gid (fun G => { G with qwait := G.qwait + 1 })) s
  let s := (s.bumpStamp.settleTrnx w.t w.G.core w.g).passRun w.c q
  let s := s.modGroup w.t w.g (fun G =>
    let G := G.meetHold
    match G.choose with
    | none => G
    | some pc =>
      let act := G.setLanes pc
      { G.countWaits act with run := some (Run.from act), qwait := 0, lastIssue := some s.ctl.stamp })
  s.modCore w.c (fun k => { k with quads := spIns q { holder := some (w.t, w.g), lastSvc := false } k.quads })

/-- RUN_ISSUE (R83). -/
def execRunIssue (t g : Nat) (s : State) : Host.Outcome State Fault Refusal :=
  event s (
    match s.who t g with
    | none => none
    | some w =>
      match w.G.place with
      | .slot q =>
        let quad := (spFind (s.core w.c).quads q).getD { holder := none, lastSvc := false }
        let rs := s.quadReady w.c q
        let others := rs.filter (fun x => !(x.1 == t && x.2.gid == g))
        let forced := quadForced rs
        if s.pkg.halt.isSome || quad.holder.isSome || !s.groupReady w || s.serviceFirst w.c q || others.any (fun x => quadBefore forced x.2 w.G) then none
        else some (s.issueRun w q others)
      | _ => none)

/-! ### Departures (R39, R307, R318) -/

/-- May a group leave its core: its log is empty, and the stores of the core and its own atomics and REDs are performed? The manual asks it of the group's loads, atomics and replays (R39, R307); the stores are awaited too, so that nothing the group did or saw before is unordered with what it does and releases on its new core (R40, R259, R264; log 72). -/
def State.mayLeave (s : State) (w : Who) : Bool := w.G.log == [] && s.relDone w.c w.t w.g (s.ctl.stamp + 1)

/-- Writes back and invalidates the private lines of a group that leaves its core (R39, R307). -/
def State.depart (s : State) (w : Who) : State := (s.settleTrnx w.t w.G.core w.g).flushPriv w.T w.G w.c

/-- The lanes of a departing or resumed group that executed the holding instruction go on after it. -/
def Group.pass (G : Group) (ls : Lanes) : Group := G.modLanes ls (fun _ L => { L with pc := nextSlot L.pc })

/-- Removes the first park of a group. -/
def State.unpark (s : State) (t g : Nat) : State := s.modGroup t g (fun G => { G with parks := G.parks.drop 1, ready := false })

/-- MIGR's departure (R39, R41). -/
def State.doMigr (s : State) (w : Who) (dest : Nat) (pc : DWord) (ls : Lanes) : State :=
  let trap (c : Byte) : State := (s.unpark w.t w.g).takeTrap w.t w.g { cause := c } ls pc
  match w.T.shares.findIdx? (fun x => rankOf x.core == dest && !x.retired) with
  | none => trap 0x15
  | some j =>
    let (v, n, _) := w.T.launch.budget w.G.role
    match w.T.sendGroup (w.G.pass ls) 1 v n none j 0 with
    | none => trap 0x39
    | some T => (s.depart w).post T w.g

/-- What reading an entry of the bed map comes to: it waits for the entry's page, its line mismatches, there is no such bed with a cutting, or the team with the entry as it now is. -/
inductive BedNow where
  | wait (s : State)
  | poisoned
  | none
  | bed (s : State) (T : Team) (b : Nat)

/-- The bed that holds an address, with its entry as the map has it now (R307, R317). -/
def State.bedNow (s : State) (w : Who) (a : DWord) : BedNow :=
  match w.T.bedAt a with
  | none => .none
  | some (b, _) =>
    let va := w.T.launch.bedmap + BitVec.ofNat 64 (32 * b)
    match s.translate w.T.asn Need.load false va with
    | .cause _ => .none
    | .poisoned => .poisoned
    | .resid => .wait (s.engineFault w.c w.T.asn false va)
    | .ok pa _ =>
      if s.mem.poisoned [pa.line] then .poisoned
      else match bedEntry (s.mem.bytes pa 32) w.T.launch.cores with
        | some (some bed) => if bed.cores == [] then .none else .bed (s.touch w.T.asn va false) { w.T with beds := spIns b bed w.T.beds } b
        | _ => .none

/-- A departure for the bed of an address: what is done where the bed can be had, and where there is none with a cutting; the group stays parked while the map's page is awaited. -/
def State.toBed (s : State) (w : Who) (a : DWord) (noBed : State) (go : State → Team → Nat → State) : State :=
  match s.bedNow w a with
  | .wait s => s
  | .poisoned => s.killIntegrity w.t
  | .none => noBed
  | .bed s T b => go s T b

/-- The departure of a group in trap entry for the bed of its handler (R318). -/
def State.trapAway (s : State) (w : Who) (target : DWord) : State :=
  s.toBed w target (s.killTeam w.t 0x38) (fun s T b =>
    let (v, sc, _) := T.launch.budget w.G.role
    match T.sendGroup w.G 2 v sc (some b) 0 target with
    | some T => (s.depart w).post T w.g
    | none => s.killTeam w.t 0x39)

/-- The registers that a GRAFT ships; the others are zero at installation (R311). -/
def Group.ship (G : Group) (vc sc : Nat) (target : DWord) : Group :=
  let G := G.modLanes 0xFFFF (fun _ L => { L with v := L.v.filter (fun x => decide (x.1 < vc)) })
  { G.modLanes G.live (fun _ L => { L with pc := target }) with s := G.s.filter (fun x => decide (x.1 < sc)) }

/-- GRAFT's departure (R307, R308, R314, R317). -/
def State.doGraft (s : State) (w : Who) (target : DWord) (vc sc : Nat) (pc : DWord) : State :=
  let trap (c : Byte) : State := (s.unpark w.t w.g).takeTrap w.t w.g { cause := c } w.G.live pc
  s.toBed w target (trap 0x38) (fun s T b =>
    match T.sendGroup (w.G.ship vc sc target) 0 vc sc (some b) 0 target with
    | none => trap 0x39
    | some T => (s.depart w).post T w.g)

/-- The EPC in force lies outside the bed of the handler's core: the group travels (R318). -/
def Who.tretLeaves (w : Who) : Bool := w.T.launch.graft && !w.T.inBed w.sh.pinned w.G.epc

/-- TRET (R379, R318): the lanes and latches come back, in place or as a message of KIND 3; a group whose lanes are now all held at one BAR arrives there (R58). -/
def State.doTret (s : State) (w : Who) : State :=
  match w.G.frame with
  | none => s
  | some fr =>
    let G := w.G.restore fr
    if w.tretLeaves then
      s.toBed w G.epc (s.killTeam w.t 0x38) (fun s T b =>
        let (v, n, _) := T.launch.budget G.role
        match T.sendGroup G 3 v n (some b) 0 G.epc with
        | some T => (s.depart w).post T w.g
        | none => s.killTeam w.t 0x39)
    else (s.setTeam (w.T.setGroup G)).tryArrive w.t w.g

/-! ### Parks (R81) -/

/-- Replaces the first park of a group. -/
def State.repark (s : State) (t g : Nat) (p : Park) : State := s.modGroup t g (fun G => { G with parks := p :: G.parks.drop 1 })

/-- Writes results of a parked access into the registers. -/
def State.writeAll (s : State) (t g : Nat) (wr : List RegWrite) : State := s.modGroup t g (fun G => wr.foldl Group.write G)

/-- Writes a 64-bit result to an S register pair. -/
def State.writePair (s : State) (t g d : Nat) (x : DWord) : State := s.writeAll t g [.s d (x.setWidth 32), .s (d + 1) ((x >>> 32).setWidth 32)]

/-- A trap of a parked access: the group waits for it no more. -/
def State.accessTrap (s : State) (t g : Nat) (a : Access) (x : Trap) : State := (s.unpark t g).takeTrap t g x a.ex a.pc

/-- What holds back a parked or logged access beside what holds back every access. -/
def Access.moreHolds (a : Access) (w : Who) (s : State) (ps : List Spot) : Bool := s.slotAbsent w a ps

/-- Performs a parked access: R81's resume of it. -/
def State.resumeAccess (s : State) (w : Who) (a : Access) : Option State :=
  match s.access w a false none (a.moreHolds w) (a.performAny false [] 0) with
  | .trap s x => some (s.accessTrap w.t w.g a x)
  | .gone s => some s
  | .stall s' => if s' == s then none else some s'
  | .wait s' => if s' == s then none else some s'
  | .done s wr logged _ =>
    some ((s.writeAll w.t w.g (wr.map (·.2))).modGroup w.t w.g (fun G => { G with parks := a.parkAfter logged ++ G.parks.drop 1, ready := false }))

/-- The trap of an atomic some of whose lanes have failed: the others are written; the log entries that failed, and those after them, go unperformed (R243). -/
def State.atomicTrap (s : State) (w : Who) (a : Access) (done : Lanes) (x : Trap) : State :=
  if x.cause == 0x50 then s.killIntegrity w.t
  else
    let s := (s.takeAnswers w a done).1
    let s := s.modGroup w.t w.g (fun G => { G with log := intactLog G.log, slots := G.slots.filter (fun y => !inMask a.lanes y.1) })
    s.accessTrap w.t w.g a x

/-- Ends the wait of an atomic that has all its answers, of which `done` were taken before (R81, R89): lanes whose ring slot is not resident go to the log and are waited for, then a failing lane is the instruction's cause. -/
def State.resumeAtomic (s : State) (w : Who) (a : Access) (done : Lanes) : Option State :=
  if !w.G.slotsFilled a done then none
  else if (w.G.answers a done).any (fun d => d.2 == .residency) && (failedEntry w.G.log).isNone then s.logSlots w a done
  else match w.G.atomFail a done with
    | some x => some (s.atomicTrap w a done x)
    | none => some ((s.takeAnswers w a done).1.unpark w.t w.g)

/-- The end of a CWAIT: the result is written, and its lanes go on. -/
def State.endWait (s : State) (t g d : Nat) (v : DWord) (ls : Lanes) : State :=
  ((s.writePair t g d v).modGroup t g (fun G => G.pass ls)).unpark t g

/-- The trap of R243 for a store or RED in the log. -/
def State.loggedFail (s : State) (t g : Nat) (e : LogEntry) (f : LogFail) : State :=
  (s.dropFailed t g).takeTrap t g { f.trap with performed := e.acc.ex &&& ~~~e.mask } e.acc.ex e.acc.pc

/-- What ends a wait for an empty log: the entry that failed, or that the log is empty and `ready`; none while it goes on. -/
def Who.afterLog (w : Who) (ready : Bool) (fail : LogEntry → LogFail → State) (go : State) : Option State :=
  match (failedEntry w.G.log).bind (fun e => e.failed.map (fun f => (e, f))) with
  | some (e, f) => some (fail e f)
  | none => if w.G.log == [] && ready then some go else none

/-- Ends the first park of a group, or advances its wait; none while it goes on (R81). -/
def State.resume (s : State) (w : Who) (p : Park) : Option State :=
  let fail (e : LogEntry) (f : LogFail) : State := (s.unpark w.t w.g).loggedFail w.t w.g e f
  match p with
  | .done => some (s.unpark w.t w.g)
  | .reissue => if w.G.log == [] || (failedEntry w.G.log).isSome then some (s.unpark w.t w.g) else none
  | .logged => w.afterLog true fail (s.unpark w.t w.g)
  | .access a => s.resumeAccess w a
  | .atomic a done => s.resumeAtomic w a done
  | .release upTo => if s.relDone w.c w.t w.g upTo then some (s.unpark w.t w.g) else none
  | .arrive upTo ls pc => if s.relDone w.c w.t w.g upTo then some ((s.unpark w.t w.g).arriveWith w.t w.g ls pc) else none
  | .cwait win sel target expires d _ ls =>
    (match s.cwaitTest (dieOf w.c) win sel target expires with
      | some 1 => none
      | some r => some (s.endWait w.t w.g d (BitVec.ofNat 64 r) ls)
      | none => none)
  | .rfence win upTo goal d =>
    (match s.rfenceStep w.c w.t w.g win upTo goal with
      | (s', _, some v) => some ((s'.writePair w.t w.g d v).unpark w.t w.g)
      | (s', goal', none) => if goal' == goal then none else some (s'.repark w.t w.g (.rfence win upTo goal' d)))
  | .migr dest pc ls => w.afterLog (s.mayLeave w) fail (s.doMigr w dest pc ls)
  | .graft target vc sc pc =>
    w.afterLog (s.mayLeave w) (fun _ f => ((s.unpark w.t w.g).dropFailed w.t w.g).takeTrap w.t w.g f.trap w.G.live pc) (s.doGraft w target vc sc pc)
  | .tret => w.afterLog (!w.tretLeaves || s.mayLeave w) fail (s.doTret w)
  | .away target => w.afterLog (s.mayLeave w) fail (s.trapAway w target)

/-- Is the group one whose parks can be looked at: resident, running, out of its run? -/
def Who.parked (w : Who) : Bool :=
  w.T.phase == .running && w.G.run.isNone && (match w.G.place with | .slot _ => true | _ => false)

/-- GROUP_RESUME (R81). -/
def execGroupResume (t g : Nat) (s : State) : Host.Outcome State Fault Refusal :=
  event s (
    match s.who t g with
    | none => none
    | some w =>
      match w.G.parks with
      | p :: _ => if w.parked then s.resume w p else none
      | [] => none)

/-- CWAIT_TIMEOUT (R473). -/
def execCwaitTimeout (t g : Nat) (s : State) : Host.Outcome State Fault Refusal :=
  event s (
    match s.who t g with
    | none => none
    | some w =>
      match w.G.parks with
      | .cwait win sel target expires d _ ls :: _ =>
        if w.parked && s.cwaitTest (dieOf w.c) win sel target expires == some 1 then some (s.endWait t g d 1 ls) else none
      | _ => none)

/-! ### Replay (R242, R243) -/

/-- Changes the oldest entry of a log. -/
def State.modLog (s : State) (t g : Nat) (f : List LogEntry → List LogEntry) : State := s.modGroup t g (fun G => { G with log := f G.log })

/-- How a replay that meets a cause fails its entry (R243): for a lost mapping the whole mask with the address of its lowest lane, for another cause, of which R243 does not speak, the lanes and the address that the cause has (DEDUCED, log 99). -/
def LogEntry.failBy (e : LogEntry) (x : Trap) : LogFail :=
  if x.cause == 0x10 then { cause := 0x10, names := e.mask, eaddr := (lowElem (e.acc.elems.filter (fun y => inMask e.mask y.lane))).map (·.addr) }
  else { cause := x.cause, names := x.names.getD e.mask, eaddr := x.eaddr }

/-- A replay that meets a cause: the lanes of an atomic answer with it, but for a lost mapping; any other entry fails, and the group takes the cause at the first instruction that waits for its log (R243, R294). -/
def State.replayTrap (s : State) (t g : Nat) (e : LogEntry) (x : Trap) : State :=
  if accKind e.acc.instr == .atomic && x.cause != 0x10 then
    (lanesOf e.mask).foldl (fun s l => s.fillSlot t g l (if inMask (x.names.getD e.mask) l then .failed x.cause else .unperformed)) (s.modLog t g (fun l => l.drop 1))
  else s.modLog t g (fun l => match l with | a :: r => { a with failed := some (e.failBy x) } :: r | [] => [])

/-- The pages of an entry that are not resident: those it was logged for, and those of its elements. -/
def State.logAwaits (s : State) (w : Who) (e : LogEntry) : List Nat :=
  let need := (accKind e.acc.instr).need
  (e.pages.filter (fun p => s.translate w.T.asn need false (BitVec.ofNat 64 (65536 * p)) == .resid) ++
    pagesFor (e.acc.elems.filter (fun x => !x.fill && s.find w e.acc.space need x == .resid))).eraseDups

/-- OPERAND_LOG_REPLAY (R242): the oldest entry, once its pages are resident; the fault of a page that is not is reported, if it is not in the table. A page that has lost its mapping fails the entry. -/
def execOperandLogReplay (t g : Nat) (s : State) : Host.Outcome State Fault Refusal :=
  event s (
    match s.who t g with
    | none => none
    | some w =>
      match w.G.log with
      | [] => none
      | e :: _ =>
        let far := s.logAwaits w e
        if e.failed.isSome || w.T.phase != .running then none
        else if far != [] then (
          let s' := s.postFaults w.c w.T.asn ((accKind e.acc.instr) != .load) far
          if s' == s then none else some s')
        else match s.access w e.acc false none (e.acc.moreHolds w) (e.acc.performAny false [] 0) with
          | .done s wr _ _ => some ((s.writeAll t g (wr.map (·.2))).modLog t g (fun l => l.drop 1))
          | .gone s => some s
          | .trap s x =>
            some (s.replayTrap t g e x)
          | .stall s' => if s' == s then none else some s'
          | .wait s' => if s' == s then none else some s')

/-! ### Asynchronous causes (R375 to R378, R202) -/

/-- The instruction that the group would issue next (R377). -/
def Group.nextPc (G : Group) : DWord :=
  match G.run with
  | some r => (G.lane ((lowestLane r.act).getD 0)).pc
  | none =>
    match G.meetHold.choose with
    | some pc => pc
    | none => (G.lane ((lowestLane G.live).getD 0)).pc

/-- Is the group at an instruction boundary, where it can take an asynchronous cause: in its slot, not between the halves of a pair, and waiting for nothing but a hold? -/
def Who.atBoundary (w : Who) : Bool :=
  w.T.phase == .running && (match w.G.place with | .slot _ => true | _ => false) && w.G.live != 0 &&
  w.G.parks.all Park.isCwait && (match w.G.run with | some r => !r.second | none => true)

/-- ASYNC_CAUSE_DELIVERY (R375 to R378). -/
def execAsyncCauseDelivery (t g : Nat) (s : State) : Host.Outcome State Fault Refusal :=
  event s (
    match s.who t g with
    | none => none
    | some w =>
      match w.G.causes with
      | [] => none
      | a :: rest =>
        if w.G.inHandler || !w.atBoundary || s.pkg.halt.isSome then none
        else
          let s := s.modGroup t g (fun G => { G with causes := rest })
          let s := s.takeTrap t g { cause := a.cause, src := a.src, rank := a.rank, eaddr := a.eaddr } 0 w.G.nextPc
          some (if a.src == .sequencer then (upFrom 0 w.T.shares.length).foldl (fun s j => s.freeRanges t j) s else s))

/-! ### Retirement of groups (R35, R375, R559) -/

/-- The sequencer causes that a retiring group leaves untaken go to another group, or kill the team (R375). -/
def State.passCauses (s : State) (t : Nat) (j : Nat) : List Async → State
  | [] => s
  | a :: r =>
    let s := if a.src != .sequencer then s
      else match (s.team? t).bind (fun T => T.seqTarget j) with
        | some g => s.deliver t g a
        | none => s.killTeam t a.cause
    s.passCauses t j r

/-- GROUP_RETIRE (R35, R559): all lanes have exited, and all that the group issued is done. -/
def execGroupRetire (t g : Nat) (s : State) : Host.Outcome State Fault Refusal :=
  event s (
    match s.who t g with
    | none => none
    | some w =>
      match w.G.place with
      | .slot _ =>
        if w.T.phase != .running || w.G.live != 0 || w.G.run.isSome || w.G.parks != [] || w.G.log != [] || !s.ownDone t g (s.ctl.stamp + 1) then none
        else
          let s := ((s.settleTrnx t w.G.core g).dropPriv w.T w.G w.c).modGroup t g (fun G => { G with place := .retired, causes := [], ready := false })
          some (s.passCauses t w.G.core w.G.causes)
      | _ => none)

end Sys2Proof.Machine
end

