-- ==== Sys2Proof/Machine/Teams.lean ====
section
/-! DEFINITION. Teams: messages installed, cuttings added, placement, gangs, the request for pre-emption, bindings, start, retirement, kills (R29 to R37, R43, R44, R206, R257, R303, R304, R311 to R319, R344, R345, R351, R354 to R357, R380). -/

namespace Sys2Proof.Machine

/-! ### Messages (R311, R314, R317) -/

/-- Is a message one that team core `j` may install, with `pinned` the bed it pins (R311)? -/
def MsgHdr.isFor (h : MsgHdr) (j : Nat) (pinned : Option Nat) : Bool :=
  match h.at_, h.bed with
  | .frame k _, _ => k == j
  | .overflow _ _ _, some b => pinned == some b
  | .overflow _ d _, none => d == j

/-- The groups whose messages wait for team core `j`, with their placement numbers. -/
def Team.waitingFor (T : Team) (j : Nat) (sh : Share) : List (Nat × Group) :=
  T.groups.filterMap (fun G => match G.place with
    | .message h => if h.isFor j sh.pinned then some (h.seq.toNat, G) else none
    | _ => none)

/-- The first of some messages: the lowest SEQ. -/
def firstMsg (l : List (Nat × Group)) : Option (Nat × Group) :=
  l.foldl (fun (a : Option (Nat × Group)) x => match a with
    | some y => if x.1 < y.1 then some x else some y
    | none => some x) none

/-- A group installed on team core `j` (R311): in its slot, waiting for its lines, its latches in place only where KIND is 3; where KIND is 0 its target is to be tested at the first fetch (R307). -/
def Group.install (G : Group) (j q stamp : Nat) : Group :=
  let keep := match G.place with | .message h => h.kind == 3 | _ => false
  let target := match G.place with | .message h => if h.kind = 0 then [h.target] else [] | _ => []
  { G with place := .slot q, core := j, run := none, untested := target ++ G.untested, xprev := [], slots := [], log := [], xs := if keep then G.xs else [], ready := false, qwait := 0, lastIssue := none, since := stamp }

/-- MESSAGE_INSTALLATION (R311): the waiting message with the lowest SEQ, once a quadrant has a slot and registers that no aged gang has reserved (R355). A group whose lanes are all held at one BAR arrives there (R58). -/
def execMessageInstallation (t j : Nat) (s : State) : Host.Outcome State Fault Refusal :=
  event s (
    match (s.team? t).bind (fun T => (T.share? j).map (fun sh => (T, sh))) with
    | none => none
    | some (T, sh) =>
      if T.phase != .running || sh.retired || s.pkg.halt.isSome then none
      else match firstMsg (T.waitingFor j sh) with
        | none => none
        | some (_, G) =>
          let n := (T.groups.filter (fun x => x.core == j && decide (x.gid < G.gid) && (match x.place with | .slot _ => true | _ => false))).length
          match (s.usageArriving sh.core).quadFor (T.launch.budget G.role) (n % 4) with
          | none => none
          | some q =>
            let s := s.bumpStamp
            some ((s.setTeam ((T.setGroup (G.install j q s.ctl.stamp)).setShare j { sh with homed := G.gid :: sh.homed.filter (· != G.gid) })).tryArrive t G.gid))

/-- What loading the lines of a bed comes to. -/
inductive Pinned where
  | ok (s : State)
  | wait (s : State)
  | gone (s : State)
  | cause (s : State) (c : Byte)

/-- Loads the lines of a bed into a core's instruction store for a team, from `a` on (R303). -/
def State.pinLines (s : State) (t asn c : Nat) : Nat → DWord → Pinned
  | 0, _ => .ok s
  | n + 1, a =>
    if s.lineCut c asn a then .gone (s.killTeam t 0x50)
    else match s.loadLine c asn a with
      | (s, .ok _ _) => s.pinLines t asn c n (a + 64)
      | (s, .cause x) => .cause s x
      | (s, .poisoned) => .gone (s.killSpace asn)
      | (s, .resid) => .wait (if s.translate asn Need.fetch false a == .resid then s.engineFault c asn false a else s)

/-- The entry of a bed with one more core, as bytes with its CHECK (R301, R317). -/
def bedBytes (b : Bed) : List Byte :=
  let bs := natBytes 8 b.base.toNat ++ natBytes 2 b.lines ++ [1, BitVec.ofNat 8 b.cores.length] ++
    (b.cores ++ List.replicate (8 - b.cores.length) 0).map (BitVec.ofNat 8) ++ List.replicate 8 0
  bs ++ natBytes 4 (crc32c bs)

/-- Is team core `c` of a team idle: its share pins nothing and has not retired? -/
def Team.idleCore (T : Team) (c : Nat) : Bool :=
  match T.share? c with
  | some sh => sh.pinned.isNone && !sh.retired
  | none => false

/-- May a team that is resident take a bed on its core `c`: the core is idle, and no other team has pinned a bed there (R303)? -/
def State.bedRoom (s : State) (c : Nat) (T : Team) : Bool :=
  T.idleCore c && (match T.share? c with | some sh => !(s.usage sh.core).bed | none => false)

/-- A team with a bed pinned on its core `c`, and its entry with one cutting more. -/
def Team.withCutting (T : Team) (b c : Nat) (bed : Bed) : Team :=
  match T.share? c with
  | some sh => { T.setShare c { sh with pinned := some b } with beds := spIns b bed T.beds }
  | none => T

/-- Pins a bed on team core `c` of each of some running teams: the lines of all of them are loaded, or nothing is pinned. -/
def State.pinEach (s : State) (c : Nat) (bed : Bed) : List Team → Pinned
  | [] => .ok s
  | T :: r =>
    match T.share? c with
    | none => s.pinEach c bed r
    | some sh =>
      match s.pinLines T.id T.asn sh.core bed.lines bed.base with
      | .ok s => s.pinEach c bed r
      | x => x

/-- ADD_CUTTING (R317): the bed is pinned on an idle core, then the entry is written anew. The map serves every team of the launch, so the core must be idle in each of them: a running team's core loads the lines now, one that is placed at its start, a saved one's when it is back. While a page of the bed or of the map is awaited nothing has changed. -/
def execAddCutting (t bed core : Nat) (s : State) : Host.Outcome State Fault Refusal :=
  event s (
    match s.team? t with
    | none => none
    | some T =>
      let va := T.launch.bedmap + BitVec.ofNat 64 (32 * bed)
      let all := s.teams.filter (fun x => x.task == T.task)
      let away := s.sched.saved.filter (fun x => x.team.task == T.task)
      if T.phase != .running || !T.launch.graft || 4096 ≤ bed || !all.all (s.bedRoom core) || !away.all (fun x => x.team.idleCore core) then none
      else match s.translate T.asn Need.load false va with
        | .resid => some (s.engineFault ((T.share? core).map (·.core) |>.getD 0) T.asn true va)
        | .ok pa _ =>
          (match bedEntry (s.mem.bytes pa 32) T.launch.cores with
            | some (some b) =>
              if 8 ≤ b.cores.length || b.cores.contains core || s.mem.poisoned [pa.line] then none
              else
                let new : Bed := { b with cores := b.cores ++ [core] }
                (match s.pinEach core b (all.filter (·.phase == .running)) with
                  | .ok s =>
                    let s := { s with teams := s.teams.map (fun (x : Team) => if x.task == T.task then x.withCutting bed core new else x) }
                    let s := s.modSched (fun q => { q with saved := q.saved.map (fun (x : Saved) => if x.team.task == T.task then { x with team := x.team.withCutting bed core new } else x) })
                    some ((s.touch T.asn va true).modMem (fun m => m.store ((upFrom 0 32).map pa.add |>.zip (bedBytes new))))
                  | .wait s => some s
                  | .gone s => some s
                  | .cause _ _ => none)
            | _ => none)
        | _ => none)

/-- OVERFLOW_AREA_RECLAIM (R314): part of a running team's overflow area that holds no message. -/
def execOverflowAreaReclaim (t bytes : Nat) (s : State) : Host.Outcome State Fault Refusal :=
  event s (
    match s.team? t with
    | none => none
    | some T => if T.phase == .running && T.ovfUsed + bytes ≤ T.ovfBytes then some (s.setTeam { T with ovfBytes := T.ovfBytes - bytes }) else none)

/-! ### Placement (R30 to R34, R354, R355) -/

/-- What a core has, as a launch finds it beside a group that waits to be installed there: the group's slot and registers are kept for it in whichever quadrant it may come to (R35, R43). -/
def Usage.keep (u : Usage) (b : Nat × Nat × Nat) : Usage :=
  { u with slots := u.slots.map (· + 1), v := u.v.map (· + b.1), s := u.s + b.2.1, l := u.l + b.2.2 }

/-- What waiting messages take of a core before any new launch does (R35, R43). -/
def State.withArrivals (s : State) (c : Nat) (u : Usage) : Usage :=
  s.teams.foldl (fun u T => T.shares.zipIdx.foldl (fun u x =>
    if x.1.core == c && !x.1.retired then (T.waitingFor x.2 x.1).foldl (fun u y => u.keep (T.launch.budget y.2.role)) u else u) u) u

/-- What is found taken on a core by what has a key and needs `n` cores. -/
def State.seen (s : State) (n key c : Nat) : Usage := s.withArrivals c (s.usageFor n key c)

/-- The places of an aged gang on the ranks reserved for it (R355). -/
def State.gangFit (s : State) (r : Ready) : Option (List (Nat × Fit)) :=
  match s.sched.gangs.find? (fun g => g.1 == r.key) with
  | none => none
  | some g =>
    if s.pinRoom (g.2.1 / 4) r.frames then
      r.needs.zipIdx.mapM (fun x =>
        let c := 16 * g.2.1 + x.2
        ((s.withArrivals c (s.usage c)).fit x.1).map (fun y => (c, y.2)))
    else none

/-- The places of what waits: on its reserved ranks, or on the first cluster that it fits. -/
def State.placesFor (s : State) (r : Ready) : Option (List (Nat × Fit)) := (s.gangFit r).or (s.anyFit r (s.seen r.needs.length r.key))

/-- The places in the unit of a slice that no thread has (R357). -/
def State.slicePlaces (s : State) (k : Nat) : List Nat := (upFrom 0 4).filter (fun i => !s.threads.any (fun th => th.slice == k && th.num == i))

/-- Is there a place for NV threads on each slice of a slice launch (R344, R357)? -/
def State.sliceRoom (s : State) (L : Launch) : Bool := (upFrom 0 (L.teams + 1)).all (fun k => decide (L.nv ≤ (s.slicePlaces k).length))

/-- Does what waits fit now? -/
def State.fitsNow (s : State) (r : Ready) : Bool :=
  match r.slices with
  | some L => s.sliceRoom L
  | none => (s.placesFor r).isSome

/-- How many resources ranks 0 to C - 1 of a cluster lack for the shares of a gang (R355). -/
def State.lacking (s : State) (r : Ready) (cl : Nat) : Nat := r.needs.zipIdx.foldl (fun a x => a + (s.usage (16 * cl + x.2)).lack x.1) 0

/-- The free cluster that lacks the least for a gang. -/
def State.gangCluster (s : State) (r : Ready) : Option Nat :=
  ((upFrom 0 32).filter (fun cl => !s.sched.gangs.any (fun g => g.2.1 == cl))).foldl (fun (a : Option Nat) cl => match a with
    | some b => if s.lacking r cl < s.lacking r b then some cl else some b
    | none => some cl) none

/-- Does an older aged gang wait for a cluster? -/
def State.olderGang (s : State) (r : Ready) : Bool :=
  s.readies.any (fun x => x.key != r.key && !s.sched.gangs.any (fun g => g.1 == x.key) && (match x.aged, r.aged with | some a, some b => decide (a < b) | some _, none => true | _, _ => false))

/-- Is a gang to age, or to take a cluster, now: it has waited 50 µs and does not fit, and either has not aged yet or finds a cluster with no older gang waiting (R355)? -/
def State.gangDue (s : State) (r : Ready) : Bool :=
  r.slices.isNone && decide (2 ≤ r.needs.length) && decide (r.since + 50000 ≤ s.pkg.time.toNat) && !s.sched.gangs.any (fun g => g.1 == r.key) && !s.fitsNow r &&
  (r.aged.isNone || (!s.olderGang r && (s.gangCluster r).isSome))

/-- Is it another's turn: one that comes before it fits, or a gang that needs more cores is about to age (R43, R354 to R356)? -/
def State.outranked (s : State) (r : Ready) : Bool :=
  s.readies.any (fun x => x.key != r.key && ((x.before r && s.fitsNow x) || (r.slices.isNone && decide (r.needs.length < x.needs.length) && s.gangDue x)))

/-- A group at its start (R34). -/
def startGroup (L : Launch) (g home quad priv stamp : Nat) : Group :=
  let r := L.roleOf g
  let pc := L.entry (if r == .vector then L.entryV else L.entryC)
  { gid := g, role := r, prio := L.prio, priv := L.priv, core := home, place := .slot quad, lanes := laneList.map (fun _ => Lane.start pc),
    s := spPut 0 (spPut 0 [] 0 (L.param.setWidth 32)) 1 ((L.param >>> 32).setWidth 32), m := [], l := [], h := [], xs := [], xprev := [], slots := [], relFence := 0, counted := false, untested := [], log := [],
    lst := 0, bcd := 0, cause := 0, epc := 0, eaddr := 0, elanes := 0, inHandler := false, frame := none, causes := [], run := none, parks := [],
    ready := false, qwait := 0, lastIssue := none, since := stamp, privBase := priv }

/-- A sequencer at its start; it does not run before its team starts (R33, R183). -/
def startSeq (L : Launch) (bs : List (Nat × Bed)) (j : Nat) : Seq :=
  { st := if L.streams bs j then .stopped else .absent, pc := L.entry (L.entryM.getD 0), q := [], l := [], h := [(1, 1), (2, 2), (3, 3)] }

/-- A share at placement (R174, R179, R212). -/
def startShare (L : Launch) (bs : List (Nat × Bed)) (j : Nat) (p : Nat × Fit) : Share :=
  { core := p.1, scratchBase := p.2.scratch, scratchLen := roundUp 512 L.scratch, obufBase := p.2.obuf, obufLen := roundUp 512 L.obuf, ranges := [],
    tiles := p.2.tiles, trnx := false, trnxLate := [], asat := false, bcdm := 0, seq := startSeq L bs j, mul := { started := none, waiting := none },
    drain := { started := none, waiting := none }, redo := [], watchdog := 0, homed := L.homed bs j, bound := 0, pinned := if L.graft then pinnedBed bs j else none, retired := false }

/-- The handler's address at a team's start (R345). -/
def Launch.trapvec (L : Launch) : DWord := match L.traph with | some x => L.entry x | none => 0

/-- The quadrant that placement gives a group. -/
def quadOf (L : Launch) (bs : List (Nat × Bed)) (ps : List (Nat × Fit)) (g : Nat) : Nat :=
  let j := L.home bs g
  match ps[j]? with
  | some p => nth 0 p.2.quads ((L.homed bs j).findIdx (· == g))
  | none => 0

/-- The die of a cluster's places. -/
def dieOfPlaces (ps : List (Nat × Fit)) : Nat := dieOf ((ps.head?.map (·.1)).getD 0)

/-- Puts a team on its cores: its shares zero and present; its private space, arrival frames and overflow area in frames that have been pinned for it (R33, R34, R206, R213, R312). -/
def State.placeTeam (s : State) (n : Nat) (e : Task) (L : Launch) (bs : List (Nat × Bed)) (ps : List (Nat × Fit)) (frames : List Nat) : State :=
  let q := s.queue e.queue
  let die := dieOfPlaces ps
  let s := s.bumpStamp
  let T : Team :=
    { id := s.ctl.nextTeam, task := n, teamId := e.nextTeam, asn := q.asn, die := die, homes := frames.take L.homeFrames, areaDie := die, area := frames.drop L.homeFrames, launch := L, queue := e.queue, phase := .placed,
      groups := (upFrom 0 (L.nv + L.nc)).map (fun g => startGroup L g (L.home bs g) (quadOf L bs ps g) (16 * L.privb * g) s.ctl.stamp),
      shares := ps.zipIdx.map (fun p => startShare L bs p.2 p.1), bars := [], stages := [], trapvec := L.trapvec, recbase := q.recbase, seq := 0, beds := bs,
      arr := [], ovfBytes := L.overflow, restoredAt := 0 }
  let s := T.shares.foldl (fun s sh => s.modMem (fun m =>
    (sh.tiles.foldl (fun m k => m.zeroRange { store := .acc, unit := sh.core, off := 16384 * k } 16384)
      (m.zeroRange { store := .scratch, unit := sh.core, off := sh.scratchBase } sh.scratchLen)))) s
  let s := s.modTask n (fun e => { e with nextTeam := e.nextTeam + 1, readyTime := s.pkg.time.toNat, aged := none })
  let s := s.dropGang n
  let s := s.modCtl (fun c => { c with nextTeam := c.nextTeam + 1 })
  { s with teams := s.teams ++ [T], cores := s.cores.map (fun c => if T.shares.any (·.core == c.1) then (c.1, { c.2 with gated := false }) else c) }

/-- Starts the threads of a slice task; its step is GSTEP now (R344, R357, R363). -/
def State.placeSlices (s : State) (n : Nat) (e : Task) (L : Launch) : State :=
  let g := s.pkg.gstep
  let all (x : Word) : List Word := laneList.map (fun _ => x)
  let v : List (Nat × List Word) := [(0, all (L.param.setWidth 32)), (1, all ((L.param >>> 32).setWidth 32)), (2, all (g.setWidth 32)), (3, all ((g >>> 32).setWidth 32))]
  let ths : List Thread := (upFrom 0 (L.teams + 1)).flatMap (fun k => ((s.slicePlaces k).take L.nv).zipIdx.map (fun i =>
    { slice := k, num := i.1, idx := i.2, waited := 0, task := n, asn := (s.queue e.queue).asn, queue := e.queue, pc := L.entry L.entryV, v := v, p := [], step := g }))
  let s := s.modTask n (fun e => { e with nextTeam := 1, step := g, threads := ths.length })
  { s with threads := s.threads ++ ths }

/-! ### Pre-emption (R356) -/

/-- The state without some teams, as a placer looks ahead: their shares, their queued copies and their frames for messages are gone; their private space stays (R382). -/
def State.without (s : State) (ids : List Nat) : State :=
  let s := (s.teams.filter (fun T => ids.contains T.id)).foldl (fun s T => s.unpinFrames T.areaDie T.area) s
  { s with teams := s.teams.filter (fun T => !ids.contains T.id),
           cores := s.cores.map (fun (c : Nat × Core) => (c.1, { c.2 with cq := c.2.cq.filter (fun m => !ids.contains m.t) })) }

/-- The cluster of a team in the package. -/
def Team.clusterNum (T : Team) : Nat := ((T.shares.head?.map (·.core)).getD 0) / 16

/-- Puts a matrix command among others in the order of issue. -/
def insMat (m : MatCmd) : List MatCmd → List MatCmd
  | [] => [m]
  | x :: r => if m.order ≤ x.order then m :: x :: r else x :: insMat m r

/-- The matrix commands of a share that have neither committed nor completed, in the order of issue. -/
def Share.pendingMats (sh : Share) : List MatCmd := ([sh.mul, sh.drain].flatMap (fun u => u.waiting.toList ++ u.started.toList.map (·.cmd))).foldr insMat []

/-- The first of them. -/
def Share.firstMat (sh : Share) : Option MatCmd := sh.pendingMats.head?

/-- A share at a halt (R201): its started and waiting matrix commands are abandoned, and the stream is to issue them again; until then they hold the ranges that they name (R176). So does a stream that a trap has stopped (R187) and whose units are not empty: R201 has it issue again from the saved PC, and it then goes on past the instruction that trapped (DESIGN CHOICE, log 78). -/
def Share.abandon (sh : Share) : Share :=
  match sh.firstMat with
  | some m => { sh with seq := { sh.seq with st := .running, pc := m.pc }, redo := sh.pendingMats ++ sh.redo, mul := { started := none, waiting := none }, drain := { started := none, waiting := none } }
  | none => sh

/-- The request of R86 reaches the package, with the teams that are to be saved. -/
def State.haltAll (s : State) (ts : List Nat) : State :=
  { s.modPkg (fun p => { p with halt := some ts }) with teams := s.teams.map (fun T => { T with shares := T.shares.map Share.abandon }) }

/-- Is a team one that a class may displace (R356): resident, be it started or not? -/
def Team.victim (T : Team) (prio now : Nat) : Bool :=
  decide (T.launch.prio < prio) && (T.phase == .running || T.phase == .placed) && (T.restoredAt = 0 || decide (T.restoredAt + 100000 ≤ now))

/-- Puts a team in its place: the lowest class first, and the youngest first within a class. -/
def insVictim (T : Team) : List Team → List Team
  | [] => [T]
  | U :: r => if T.launch.prio < U.launch.prio || (T.launch.prio == U.launch.prio && U.id < T.id) then T :: U :: r else U :: insVictim T r

/-- The shortest run of victims whose removal makes what waits fit a cluster. -/
def State.removal (s : State) (r : Ready) (cl : Nat) : List Team → List Team → Option (List Team)
  | gone, rest =>
    match rest with
    | [] => none
    | T :: l =>
      let gone := gone ++ [T]
      let s' := s.without (gone.map (·.id))
      if (s'.clusterFit r (s'.seen r.needs.length r.key) cl).isSome then some gone else s.removal r cl gone l

/-- Does one removal set come before another: by its greatest class, then by its size (R356)? -/
def removalBefore (a b : List Team) : Bool :=
  let top (l : List Team) : Nat := l.foldl (fun m T => max m T.launch.prio) 0
  if top a = top b then decide (a.length < b.length) else decide (top a < top b)

/-- The victims for a team that fits nowhere; none if no cluster would do. -/
def State.victims (s : State) (r : Ready) : Option (List Team) :=
  ((upFrom 0 32).filterMap (fun cl =>
    s.removal r cl [] ((s.teams.filter (fun T => T.clusterNum == cl && T.victim r.prio s.pkg.time.toNat)).foldl (fun l T => insVictim T l) []))).foldl
    (fun (a : Option (List Team)) x => match a with
      | some y => if removalBefore x y then some x else some y
      | none => some x) none

/-- The request for pre-emption that a READY team raises which fits no cluster (R356); none while a halt is on or no victims would do. -/
def State.preempt (s : State) (r : Ready) : Option State := if s.pkg.halt.isSome then none else (s.victims r).map (fun vs => s.haltAll (vs.map (·.id)))

/-- PLACEMENT (R354, R356): the next team of a task, where it is the task's turn, once its frames can be had; or the request for pre-emption for one that fits nowhere. -/
def execPlacement (task : Nat) (s : State) : Host.Outcome State Fault Refusal :=
  event s (
    let e := s.task task
    match e.toPlace, s.readyOf task e with
    | some L, some r =>
      if s.outranked r then none
      else if L.kind = 1 then (if s.sliceRoom L then some (s.placeSlices task e L) else none)
      else match s.placesFor r with
        | some ps => (s.takeFrames (dieOfPlaces ps) r.frames).map (fun x => x.1.placeTeam task e L (s.bedsOf (s.queue e.queue).asn L) ps x.2)
        | none => s.preempt r
    | _, _ => none)

/-- Sets aside, on the ranks of an aged gang's cluster, what is free there beside what waiting arrivals take first (R35, R355). -/
def State.setAside (s : State) (r : Ready) (cl : Nat) : State :=
  s.modSched (fun q => { q with reserved := r.needs.zipIdx.foldl (fun l x =>
    let c := 16 * cl + x.2
    let now := (s.withArrivals c (s.usage c)).setAside x.1
    spIns c (match spFind l c with | some y => y.grow now | none => now) l) q.reserved })

/-- A gang ages: its place among the aged gangs. -/
def State.ageGang (s : State) (r : Ready) : State :=
  let s := s.bumpStamp
  if r.key < 65536 then s.modTask r.key (fun e => { e with aged := some s.ctl.stamp })
  else s.modSched (fun q => { q with saved := q.saved.map (fun x => if savedKey x.team.id == r.key then { x with aged := some s.ctl.stamp } else x) })

/-- GANG_AGING (R355), of a task's next team or, by its key, of a saved team: a gang that has waited 50 µs reserves the cluster that lacks the least for it; gangs take clusters in the order in which they aged. A gang that has its cluster sets aside what has become free there since. -/
def execGangAging (key : Nat) (s : State) : Host.Outcome State Fault Refusal :=
  event s (
    match s.readies.find? (fun r => r.key == key) with
    | none => none
    | some r =>
      match s.sched.gangs.find? (fun g => g.1 == key) with
      | some g =>
        let s' := s.setAside r g.2.1
        if s' == s then none else some s'
      | none =>
        if !s.gangDue r then none
        else
          let s := if r.aged.isSome then s else s.ageGang r
          match (if s.olderGang r then none else s.gangCluster r) with
          | some cl => some ((s.modSched (fun q => { q with gangs := q.gangs ++ [(key, cl, r.aged.getD s.ctl.stamp)] })).setAside r cl)
          | none => some s)

/-! ### Bindings and start (R33, R44, R257, R303) -/

/-- The lines of SK pages leave the L1 of some cores: at the start and the retirement of a share (R219). -/
def State.dropSk (s : State) (cs : List Nat) : State := cs.foldl (fun s c => s.modCore c (fun k => { k with l1 := k.l1.filter (·.priv) })) s

/-- A team that cannot start fails its task with a cause (R257, R303). -/
def State.failTeam (s : State) (T : Team) (c : Byte) : State := s.failTask T.task c T.teamId

/-- TRANSFORM_BINDING (R257): the next of the four bindings of a share, once the core's engine has no command in flight, which holds its permits and writes its beats until its last write (R251, R253). -/
def execTransformBinding (t j : Nat) (s : State) : Host.Outcome State Fault Refusal :=
  event s (
    match (s.team? t).bind (fun T => (T.share? j).map (fun sh => (T, sh))) with
    | none => none
    | some (T, sh) =>
      let next (s : State) : State := s.modShare t j (fun sh => { sh with bound := sh.bound + 1 })
      if T.phase != .placed || 4 ≤ sh.bound || s.pkg.halt.isSome || (s.core sh.core).cur.isSome then none
      else if nth 0 T.launch.binds sh.bound == 0 then some (next s)
      else match s.bindOne T j sh (nth 0 T.launch.binds sh.bound) with
        | .wait s' => if s' == s then none else some s'
        | .failed s c => some (s.failTeam T c)
        | .gone s => some s
        | .done s => some (next s))

/-- Pins the beds of a team's cores whose share has not retired (R303). -/
def State.pinTeam (s : State) (T : Team) : List Share → Pinned
  | [] => .ok s
  | sh :: r =>
    match (if sh.retired then none else sh.pinned).bind (spFind T.beds) with
    | none => s.pinTeam T r
    | some b => match s.pinLines T.id T.asn sh.core b.lines b.base with
      | .ok s => s.pinTeam T r
      | x => x

/-- TEAM_START (R33, R44). -/
def execTeamStart (t : Nat) (s : State) : Host.Outcome State Fault Refusal :=
  event s (
    match s.team? t with
    | none => none
    | some T =>
      if T.phase != .placed || T.shares.any (fun sh => decide (sh.bound < 4)) || s.pkg.halt.isSome ||
        (s.teams ++ s.sched.saved.map (·.team)).any (fun U => U.task == T.task && decide (U.teamId < T.teamId) && U.phase == .placed) then none
      else match s.pinTeam T T.shares with
        | .ok s => some ((s.dropSk (T.shares.map (·.core))).modTeam t (fun T => { T with
            phase := .running,
            shares := T.shares.map (fun sh => { sh with seq := { sh.seq with st := if sh.seq.st == .absent then .absent else .running } }) }))
        | .wait s' => if s' == s then none else some s'
        | .gone s => some s
        | .cause s c => some (s.failTeam T c))

/-! ### Retirement (R36, R37) -/

/-- What a direction of a module has of a team's requests and answers goes on as other traffic. -/
def LinkDir.without (x : LinkDir) (t : Nat) : LinkDir :=
  let blank (l : FlitLoad) : FlitLoad := match l.atom with | some r => if r.t == t then .other else l | none => l
  { x with queue := x.queue.filter (fun l => blank l == l), replay := x.replay.map (fun y => (y.1, blank y.2)) }

/-- A team's record fills on some cores end with it: what they come to is for nobody (R169). -/
def State.dropFills (s : State) (t : Nat) (cs : List Nat) : State := cs.foldl (fun s c => s.modCore c (fun k => { k with fills := k.fills.filter (fun x => x.t != t) })) s

/-- Is a copy command of a team still on its way on a core? -/
def State.copiesLeft (s : State) (t : Nat) (sh : Share) : Bool :=
  let k := s.core sh.core
  k.cq.any (·.t == t) || k.cur.toList.any (fun f => f.cmd.t == t)

/-- Did a share never have a group, and has it no stream (R36)? -/
def Share.bare (sh : Share) : Bool := sh.homed == [] && sh.seq.st == .absent

/-- Has the sequencer of a share nothing left to do: no stream, one past MEND, or one stopped by a trap whose units are empty (R36, R187)? -/
def Share.streamOver (sh : Share) : Bool :=
  (sh.seq.st == .absent || sh.seq.st == .ended || sh.seq.st == .stopped) &&
  sh.mul.started.isNone && sh.mul.waiting.isNone && sh.drain.started.isNone && sh.drain.waiting.isNone

/-- Does a message name the bed that a share pins, wherever it lies (R315)? -/
def Team.bedAwaited (T : Team) (sh : Share) : Bool := sh.pinned.isSome && T.msgs.any (fun h => h.bed == sh.pinned)

/-- Is an access of the team to a share's scratchpad still queued on some core (R216)? -/
def State.scratchQueued (s : State) (T : Team) (sh : Share) : Bool :=
  let within (a : PAddr) : Bool := a.store == .scratch && a.unit == sh.core && decide (sh.scratchBase ≤ a.off) && decide (a.off < sh.scratchBase + sh.scratchLen)
  s.cores.any (fun k => k.2.sq.any (fun e => e.t == T.id && (e.bytes.any (fun b => within b.1) || e.red.any (fun r => within r.pa))))

/-- May a share retire (R36)? -/
def State.shareDone (s : State) (T : Team) (j : Nat) (sh : Share) : Bool :=
  T.phase == .running && !sh.retired && sh.homed.all (fun g => match T.group? g with | some G => G.place == .retired | none => true) &&
  sh.streamOver && !s.copiesLeft T.id sh && T.waitingFor j sh == [] && !T.bedAwaited sh && !s.scratchQueued T sh &&
  (!sh.bare || T.shares.all (fun x => x.bare || x.retired))

/-- SHARE_RETIRE (R36, R37): a share; with the last of them the team. -/
def execShareRetire (t j : Nat) (s : State) : Host.Outcome State Fault Refusal :=
  event s (
    match (s.team? t).bind (fun T => (T.share? j).map (fun sh => (T, sh))) with
    | none => none
    | some (T, sh) =>
      if !s.shareDone T j sh then none
      else
        let s := (s.dropSk [sh.core]).dropFills t [sh.core]
        let T := T.setShare j { sh with retired := true }
        if T.shares.all (·.retired) then
          let s := s.releaseFrames T
          some (({ s with teams := s.teams.filter (fun x => x.id != t) }).modTask T.task (fun e => { e with doneTeams := e.doneTeams + 1 }))
        else some (s.setTeam T))

/-! ### Kills (R380) -/

/-- Ends the copy commands of a team on a core: those queued are dropped, one in flight stops; what they own is released. -/
def State.dropCopies (s : State) (t c : Nat) : State :=
  let k := s.core c
  let gone := k.cq.filter (·.t == t) ++ (k.cur.toList.map (·.cmd)).filter (·.t == t)
  let s := gone.foldl (fun s m => s.ownership false m.owned m.absent) s
  s.modCore c (fun k => { k with cq := k.cq.filter (·.t != t), cur := k.cur.filter (fun f => f.cmd.t != t) })

/-- Removes what a team has on the package: its copies, its record fills, its queued stores and atomics, its private lines, its frames, its slots. -/
def State.removeTeam (s : State) (T : Team) : State :=
  let s := T.shares.foldl (fun s sh => s.dropCopies T.id sh.core) s
  let s := T.groups.foldl (fun s G => match T.share? G.core with
    | some sh => (s.dropPriv T G sh.core).freeQuad sh.core T.id G.gid
    | none => s) s
  let s := { s with cores := s.cores.map (fun (c : Nat × Core) => (c.1, { c.2 with sq := c.2.sq.filter (fun e => e.t != T.id) })) }
  let s := s.modPkg (fun (p : Pkg) => { p with
    svc := (p.svc.map (fun (q : Nat × List AtomReq) => (q.1, q.2.filter (fun r => r.t != T.id)))).filter (fun (q : Nat × List AtomReq) => q.2 != []),
    halt := p.halt.map (fun (l : List Nat) => l.filter (· != T.id)) })
  let s := ((s.releaseFrames T).dropSk (T.shares.map (·.core))).dropFills T.id (T.shares.map (·.core))
  { s with
    teams := s.teams.filter (fun x => x.id != T.id),
    links := s.links.map (fun (l : Nat × LinkMod) => (l.1, { l.2 with there := l.2.there.without T.id, back := l.2.back.without T.id })) }

/-- KILL (R380, R351): nothing further of the team is performed; its task fails. -/
def execKill (t : Nat) (cause : Byte) (s : State) : Host.Outcome State Fault Refusal :=
  event s (
    match s.team? t with
    | none => none
    | some T =>
      match T.phase with
      | .killed c bySystem =>
        if c != cause then none
        else
          let s := s.removeTeam T
          some (if bySystem then s else s.failTask T.task c T.teamId)
      | _ => none)

end Sys2Proof.Machine
end

