-- ==== Sys2Proof/Machine/Residency.lean ====
section
/-! DEFINITION. Residency: page faults and their service, page moves, host-backed pages (R234 to R236, R238 to R240, R243, R386, R388, R389). -/

namespace Sys2Proof.Machine

/-! ### The service of a fault (R235, R236) -/

/-- Splits a 256 MiB leaf into a table of 64 KiB leaves with the same permissions (R235); none if the owner die has no frame for the table. -/
def State.splitLeaf (s : State) (asn : Nat) (va : DWord) (at_ : PAddr) (w : DWord) : Option State :=
  match s.mmp.spaces.find? (·.asn == asn) with
  | none => none
  | some a =>
    match s.takeFrame a.owner with
    | none => none
    | some (s, n) =>
      let s := s.pinFrames a.owner n 1
      let small (i : Nat) : DWord := w + (BitVec.ofNat 64 i <<< 16)
      let t := framePlace a.owner n true
      let s := s.modMem (fun m => (m.zeroRange t 65536).store ((upFrom 0 4096).flatMap (fun i => numBytes (t.add (8 * i)) 8 (small i).toNat)))
      let s := s.writeLeaf at_ (1#64 ||| 64#64 ||| (BitVec.ofNat 64 a.owner <<< 12) ||| (BitVec.ofNat 64 n <<< 16))
      some (s.shootdown asn (vpage va / 4096 * 4096) 4096 (placeOf w true (va &&& ~~~0xFFFFFFF#64)))

/-- The fault table of a die. -/
def State.faultTable (s : State) (die : Nat) : List FaultEntry := (spFind s.mmp.faults die).getD []

/-- Replaces the fault table of a die. -/
def State.setFaults (s : State) (die : Nat) (l : List FaultEntry) : State := s.modMmp (fun m => { m with faults := spIns die l m.faults })

/-- Ends the entry of a page in a die's fault table: its waiters replay. -/
def State.endFault (s : State) (die asn page : Nat) : State := s.setFaults die ((s.faultTable die).filter (fun x => !(x.asn == asn && x.page == page)))

/-- The frame table's entry for a page that has come into a frame for a fault: it keeps the marks that the page had. -/
def State.enterFrame (s : State) (asn page die num : Nat) (old : Option PAddr) : State :=
  let marks := ((old.bind s.frameAt).map (·.marks)).getD 0
  let f : Frame64 := ⟨die, true, num, false, old.map (fun a => (a.unit, a.off / 65536)), asn, page, marks, true⟩
  s.modMmp (fun m => { m with frames := m.frames ++ [f] })

/-- Brings a page of LPDDR into a frame (R235 steps 2 to 4). Copy commands that have issued own the lines of their destinations in it from now on (R252). -/
def State.bringIn (s : State) (asn page die : Nat) (at_ : PAddr) (w : DWord) : Option State :=
  let old := placeOf w false 0
  if s.inUse old 1 || s.heldAt old then none
  else match s.takeFrame die with
    | none => none
    | some (s, n) =>
      let a := framePlace die n true
      let s := (s.copyPage old a 1).enterFrame asn page die n (some old)
      some ((s.writeLeaf at_ (leafAt w a clearAD)).shootdown asn page 1 old).reownAll

/-- The lowest aperture slot that is free (R389). -/
def State.freeSlot (s : State) : Option Nat := (upFrom 0 16).find? (fun k => (spFind s.mmp.slots k).isNone)

/-- The 32-byte page request (R389): address space, slot, page address and request number. -/
def pageRequest (asn slot page : Nat) (req : DWord) : List Byte :=
  natBytes 2 asn ++ natBytes 1 slot ++ zeros 5 ++ natBytes 8 (page * 65536) ++ bytesOf req ++ zeros 8

/-- Asks the host for a page (R389): a slot bound to a new frame, a request in the ring, vector 1. Until system software has named a ring, the fault waits in its table (DESIGN CHOICE, log 54). -/
def State.askHost (s : State) (asn page die : Nat) : Option State :=
  match s.freeSlot, s.mmp.ring, s.takeFrame die with
  | some k, some ring, some (s, n) =>
    let s := (s.pinFrames die n 1).modMem (fun m => m.zeroRange (framePlace die n true) 65536)
    let s := s.modMmp (fun m => { m with
      slots := spIns k { die := die, frame := n, asn := asn, page := page, req := m.req, posted := s.pkg.time.toNat } m.slots,
      posted := m.posted ++ [(ring, pageRequest asn k page m.req)], req := m.req + 1 })
    some ((s.setFaults die ((s.faultTable die).map (fun x => if x.asn == asn && x.page == page then { x with slot := some k } else x))).raise 1)
  | _, _, _ => none

/-- RESIDENCY_FAULT_SERVICE (R235, R236): entry `idx` of a die's fault table. A page that is resident, or no longer mapped, ends the entry. -/
def execResidencyFaultService (die idx : Nat) (s : State) : Host.Outcome State Fault Refusal :=
  event s (
    match (s.faultTable die)[idx]? with
    | none => none
    | some f =>
      let va : DWord := BitVec.ofNat 64 (65536 * f.page)
      if f.slot.isSome || s.mmp.slots.any (fun (x : Nat × ApSlot) => x.2.asn == f.asn && x.2.page == f.page) then none
      else match s.walk f.asn va with
        | .cause _ => some (s.endFault die f.asn f.page)
        | .poisoned => some ((s.killSpace f.asn).endFault die f.asn f.page)
        | .leaf at_ w big =>
          if leafPresent w && homeBit w then some (s.endFault die f.asn f.page)
          else if big then s.splitLeaf f.asn va at_ w
          else if leafPresent w then (s.bringIn f.asn f.page die at_ w).map (fun s => s.endFault die f.asn f.page)
          else s.askHost f.asn f.page die)

/-! ### Host-backed pages (R236, R389) -/

/-- Frees an aperture slot. -/
def State.endSlot (s : State) (k : Nat) : State := s.modMmp (fun m => { m with slots := m.slots.filter (fun x => x.1 != k) })

/-- The entries of a team's operand logs that wait on a page through a die fail (R236, R243). -/
def Team.failWaiters (T : Team) (die asn page : Nat) : Team :=
  let hit (G : Group) : Bool := T.asn == asn && (match T.share? G.core with | some sh => dieOf sh.core == die | none => false)
  { T with groups := T.groups.map (fun G => if hit G then { G with log := G.log.map (fun e => if e.needs page && e.failed.isNone then { e with failed := some (e.failBy { cause := 0x10 }) } else e) } else G) }

/-- So do those of every team, resident or saved. -/
def State.failWaiters (s : State) (die asn page : Nat) : State :=
  { s with teams := s.teams.map (fun T => T.failWaiters die asn page),
           sched := { s.sched with saved := s.sched.saved.map (fun x => { x with team := x.team.failWaiters die asn page }) } }

/-- The service of a host-backed page fails: its frame and slot are free, its waiters fail (R236, R243). -/
def State.failPage (s : State) (k : Nat) (x : ApSlot) : State :=
  (((s.endSlot k).unpinFrames x.die [x.frame]).failWaiters x.die x.asn x.page).endFault x.die x.asn x.page

/-- HOST_PAGE_DEADLINE (R236). -/
def execHostPageDeadline (slot : Nat) (s : State) : Host.Outcome State Fault Refusal :=
  event s (
    match spFind s.mmp.slots slot with
    | none => none
    | some x =>
      let limit := ((s.mmp.spaces.find? (·.asn == x.asn)).map (·.deadline)).getD 0
      if x.posted + limit ≤ s.pkg.time.toNat then some (s.failPage slot x) else none)

/-- PAGE_RESPONSE (R389, R235): 1 makes the page resident; any other value fails the service. -/
def execPageResponse (slot : Nat) (resp : Word) (s : State) : Host.Outcome State Fault Refusal :=
  event s (
    match spFind s.mmp.slots slot with
    | none => none
    | some x =>
      if !s.pkg.bars then none
      else if resp != 1 then some (s.failPage slot x)
      else
        let va : DWord := BitVec.ofNat 64 (65536 * x.page)
        match s.walk x.asn va with
        | .leaf at_ w false =>
          if leafPresent w then some (((s.endSlot slot).unpinFrames x.die [x.frame]).endFault x.die x.asn x.page)
          else
            let a := framePlace x.die x.frame true
            let s := ((s.endSlot slot).unpinFrames x.die [x.frame]).enterFrame x.asn x.page x.die x.frame none
            some (((s.writeLeaf at_ (leafAt w a clearAD)).shootdown x.asn x.page 1 a).reownAll.endFault x.die x.asn x.page)
        | .poisoned => some ((s.failPage slot x).killSpace x.asn)
        | _ => some (s.failPage slot x))

/-- APERTURE_WRITE (R389, R396): bytes into the frame bound to a slot; a write to a slot that awaits no page is dropped and counted. -/
def execApertureWrite (slot off : Nat) (data : List Byte) (s : State) : Host.Outcome State Fault Refusal :=
  event s (
    if !s.pkg.bars || 16 ≤ slot || 65536 < off + data.length then none
    else match spFind s.mmp.slots slot with
      | none => some (s.modErrs (fun e => { e with apDropped := e.apDropped + 1 }))
      | some x =>
        let a := framePlace x.die x.frame true
        some (s.modMem (fun m => m.store (data.zipIdx.map (fun b => (a.add (off + b.2), b.1))))))

/-! ### Moves (R239) -/

/-- The first of `n` free frames of a die, at a multiple of `n`. -/
def State.roomAt (s : State) (die n : Nat) (sram : Bool) : Option Nat :=
  let used := (s.mmp.frames.filter (fun f => f.die == die && f.sram == sram)).map (fun f => (f.num, 1))
  let all := if sram then s.undoFrames die ++ used else used
  ((0 :: all.map (fun x => roundUp n (x.1 + x.2))).filter (fun b => decide (b + n ≤ (if sram then 2 ^ 14 else 2 ^ 20)) && regionFree all b n)).foldl
    (fun a b => match a with | some x => some (min x b) | none => some b) none

/-- May system software move a page: its frame holds no window, no stamped or logged region, and is not the system's own? -/
def State.movable (s : State) (asn page n : Nat) (a : PAddr) : Bool :=
  (s.mmp.frames.filter (fun f => f.within a n)).all (fun f => f.asn == asn && f.marks == 0) &&
  !s.mmp.stamped.any (fun d => d.2.any (fun r => r.asn == asn && rangesMeet (BitVec.ofNat 64 (65536 * page)) (65536 * n) r.base r.len))

/-- The frames that a move has taken for a page. -/
def State.target? (s : State) (asn page die : Nat) (old : PAddr) : Option PAddr :=
  ((s.mmp.frames.find? (fun f => f.asn == asn && f.page == page && f.die == die && f.sram == (old.store == .sram) && f.place != old))).map Frame64.place

/-- A page as a request to move it finds it: its pages of 64 KiB, the first of them, where it lies, and the keys of its frames. -/
def moveOf (va w : DWord) (big : Bool) : Nat × Nat × PAddr × List Nat :=
  let n := if big then 4096 else 1
  let page := vpage va / n * n
  let old := placeOf w big (BitVec.ofNat 64 (65536 * page))
  (n, page, old, (upFrom 0 n).map (fun i => old.key / 65536 + i))

/-- The frames that a move takes on a die: the first free ones at a multiple of their number; for one page of die SRAM, the frame of another page where none is free (R237). -/
def State.moveRoom (s : State) (die n : Nat) (sram : Bool) : Option (State × Nat) :=
  match s.roomAt die n sram with
  | some b => some (s, b)
  | none => if n = 1 && sram then s.takeFrame die else none

/-- The begin of a move (R239, step 1): the lines of the old frame are held, and a new frame is taken. -/
def State.holdPage (s : State) (asn page die n : Nat) (old : PAddr) (keys : List Nat) : Option State :=
  let sram := old.store == .sram
  let like (i : Nat) : Frame64 := ((s.mmp.frames.find? (fun f => f.within (old.add (65536 * i)) 1)).getD
    { die := die, sram := sram, num := 0, pinned := false, backing := none, asn := asn, page := page + i, marks := 0, fresh := false })
  ((s.modMem (fun m => { m with held := m.held ++ keys })).moveRoom die n sram).map (fun (s, b) =>
    s.modMmp (fun m => { m with frames := m.frames ++ (upFrom 0 n).map (fun i => { like i with die := die, num := b + i }) }))

/-- The end of a move (R239, steps 2 to 4): the page is copied, the leaf written, the shootdown made; the held accesses go on, queued stores and copy commands with the lines of the new frame. -/
def State.settlePage (s : State) (asn page n : Nat) (old new at_ : PAddr) (w : DWord) (keys : List Nat) : State :=
  let s := (s.copyPage old new n).modMem (fun m => { m with held := m.held.filter (fun k => !keys.contains k) })
  let s := ((s.writeLeaf at_ (leafAt w new keepAll)).shootdown asn page n old).remap old new n
  (s.modMmp (fun m => { m with frames := m.frames.filter (fun f => !f.within old n) })).reownAll

/-- Must a request to move a page wait: a move of it has begun, or a copy engine owns a line of its frame and is to release it first (R221, R239)? -/
def State.moveWaits (s : State) (asn : Nat) (va : DWord) : Bool :=
  match s.walk asn va with
  | .leaf _ w big =>
    let (n, _, old, _) := moveOf va w big
    leafPresent w && (s.heldAt old || s.engineUse old n)
  | _ => false

/-- PAGE_MOVE (R239): once no copy engine owns a line of the old frame (R221), its lines are held and a new frame is taken; when no request is under way to the old one, the page is copied. -/
def execPageMove (asn : Nat) (va : DWord) (die : Nat) (s : State) : Host.Outcome State Fault Refusal :=
  event s (
    if 8 ≤ die then none
    else match s.walk asn va with
      | .leaf at_ w big =>
        let (n, page, old, keys) := moveOf va w big
        if !leafPresent w then none
        else if !s.heldAt old then (if !s.movable asn page n old || s.engineUse old n then none else s.holdPage asn page die n old keys)
        else if s.requestsTo old n then none
        else (s.target? asn page die old).map (fun new => s.settlePage asn page n old new at_ w keys)
      | _ => none)

end Sys2Proof.Machine
end

