-- ==== Sys2Proof/Machine/Context.lean ====
section
/-! DEFINITION. Halts, and the saving and restoring of teams (R67, R86 to R89, R201, R255, R279, R320, R356, R381 to R384). -/

namespace Sys2Proof.Machine

/-- Is a team resident, placed or started, and not killed? -/
def Team.resident (T : Team) : Bool := T.phase == .running || T.phase == .placed

/-- Is a team one that a request may name? -/
def State.isResident (s : State) (t : Nat) : Bool := match s.team? t with | some T => T.resident | none => false

/-- PREEMPTION_REQUEST (R86, R201): every group and sequencer of the package halts; the resident teams among those named are to be saved. -/
def execPreemptionRequest (victims : List Nat) (s : State) : Host.Outcome State Fault Refusal :=
  event s (if s.pkg.halt.isSome then none else some (s.haltAll (victims.filter s.isResident)))

/-! ### Saving (R381, R382) -/

/-- The body of a group's message at its role's full budget (R310), which a group record ends with. -/
def Launch.bodyLen (L : Launch) (r : Role) : Nat :=
  let (v, n, l) := L.budget r
  msgLen 1 v n l - 64

/-- Does a launch have arrival frames (R312)? -/
def Launch.framed (L : Launch) : Bool := L.graft || L.migr

/-- Bytes of the regions of a share in a save area: operand buffer, scratchpad, tiles; one that has retired has none. -/
def Share.savedBytes (sh : Share) : Nat := if sh.retired then 0 else sh.obufLen + sh.scratchLen + 16384 * sh.tiles.length

/-- Bytes of a share's state, its copy queue and its reservation records (R382). -/
def shareStateBytes : Nat := 2048 + 64 * 384 + 1024

/-- Bytes of a share section (R382). -/
def Team.sectionLen (T : Team) (j : Nat) (sh : Share) : Nat :=
  shareStateBytes + sh.savedBytes + (if T.launch.framed then 196608 else 0) +
  (T.here j).foldl (fun a G => a + 2560 + T.launch.bodyLen G.role) 0

/-- The offset of the first share section: behind the header, the team section and the overflow area (R382). -/
def Team.sharesAt (T : Team) : Nat := 128 + 1024 + T.launch.overflow

/-- The offsets of the share sections, and the length of the area (R382). -/
def Team.sections (T : Team) : List Nat × Nat :=
  T.shares.zipIdx.foldl (fun a x => (a.1 ++ [a.2], a.2 + T.sectionLen x.2 x.1)) ([], T.sharesAt)

/-- The header of the area, up to its CHECK (R382). -/
def Team.saveHeader (T : Team) (now : DWord) : List Byte :=
  let (offs, len) := T.sections
  [1, 0, BitVec.ofNat 8 T.shares.length, if T.launch.framed then 1 else 0] ++ natBytes 4 T.teamId ++ natBytes 2 T.task ++ natBytes 2 T.asn ++ natBytes 4 len ++
  natBytes 8 now.toNat ++ (offs ++ List.replicate (16 - offs.length) 0).flatMap (natBytes 4) ++ List.replicate 36 0

/-- The bytes of a run of a team's frames for messages. -/
def State.areaBytes (s : State) (T : Team) (lo n : Nat) : List Byte := (upFrom lo n).map (fun i => s.mem.byte (T.areaPlace i))

/-- The body of a group's message at its full budget, which ends its record (R310, R382). -/
def Team.recordBody (T : Team) (G : Group) : List Byte :=
  let (v, n, _) := T.launch.budget G.role
  T.bodyImage G { kind := 1, vcount := v, scount := n, bed := none, target := 0, len := 0, seq := 0, at_ := .frame 0 0 }

/-- A share section (R382). `free` gives the bytes whose layout the spec leaves open, by their offsets in the area. -/
def State.shareSection (s : State) (T : Team) (free : Nat → Nat → List Byte) (off j : Nat) (sh : Share) : List Byte :=
  let at_ (st : Store) (o n : Nat) : List Byte := s.mem.bytes { store := st, unit := sh.core, off := o } n
  let regions := if sh.retired then [] else at_ .obuf sh.obufBase sh.obufLen ++ at_ .scratch sh.scratchBase sh.scratchLen ++ sh.tiles.flatMap (fun k => at_ .acc (16384 * k) 16384)
  free off shareStateBytes ++ regions ++ (if T.launch.framed then s.areaBytes T (196608 * j) 196608 else []) ++
  (T.here j).zipIdx.flatMap (fun x => free (2 ^ 32 * (x.2 + 1) + off) 2560 ++ T.recordBody x.1)

/-- The bytes of the save area of a team (R382): CHECK covers every byte but its own four. -/
def State.saveImage (s : State) (T : Team) : List Byte :=
  let free (lo n : Nat) : List Byte := (upFrom lo n).map (Config.saveByte s.ctl.draws)
  let head := T.saveHeader s.pkg.time
  let rest := free 128 1024 ++ s.areaBytes T T.launch.overflowAt T.launch.overflow ++
    (T.shares.zipIdx.zip T.sections.1).flatMap (fun x => s.shareSection T free x.2 x.1.2 x.1.1)
  head ++ natBytes 4 (crc32c (head ++ rest)) ++ rest

/-- Does the CHECK of an area match (R382)? -/
def saveCheck (bs : List Byte) : Bool := bytesNat ((bs.drop 124).take 4) == crc32c (bs.take 124 ++ bs.drop 128)

/-- The pieces of a share in its core: place, length, and where the piece stands among the share's saved bytes. -/
def Share.pieces (sh : Share) : List (PAddr × Nat × Nat) :=
  [({ store := .scratch, unit := sh.core, off := sh.scratchBase }, sh.scratchLen, 0), ({ store := .obuf, unit := sh.core, off := sh.obufBase }, sh.obufLen, 2 ^ 20)] ++
  sh.tiles.zipIdx.map (fun k => ({ store := .acc, unit := sh.core, off := 16384 * k.1 }, 16384, 2 ^ 21 + 16384 * k.2))

/-- The bytes that are not zero in some pieces, by the place they have in the share. -/
def Mem.lift (m : Mem) (ps : List (PAddr × Nat × Nat)) : List Host.Cell :=
  ps.flatMap (fun p => (m.cells.filter (fun c => decide (p.1.key ≤ c.1) && decide (c.1 < p.1.key + p.2.1))).map (fun c => (p.2.2 + (c.1 - p.1.key), c.2)))

/-- The mismatching lines of some pieces, in the same way. -/
def Mem.liftBad (m : Mem) (ps : List (PAddr × Nat × Nat)) : List Nat :=
  ps.flatMap (fun p => (m.poison.filter (fun l => decide (p.1.key ≤ 64 * l) && decide (64 * l < p.1.key + p.2.1))).map (fun l => p.2.2 / 64 + (l - p.1.line)))

/-- Puts saved bytes and mismatching lines back into the pieces of a share. -/
def Mem.lower (m : Mem) (cells : List Host.Cell) (bad : List Nat) (ps : List (PAddr × Nat × Nat)) : Mem :=
  ps.foldl (fun m p =>
    let m := m.zeroRange p.1 p.2.1
    { m with
      cells := (cells.filter (fun c => decide (p.2.2 ≤ c.1) && decide (c.1 < p.2.2 + p.2.1))).foldl (fun l c => spPut memDefault l (p.1.key + (c.1 - p.2.2)) c.2) m.cells,
      poison := m.poison ++ (bad.filter (fun l => decide (p.2.2 ≤ 64 * l) && decide (64 * l < p.2.2 + p.2.1))).map (fun l => p.1.line + (l - p.2.2 / 64)) }) m

/-- The commands of a team on a core, in queue order (R255). -/
def State.commandsOf (s : State) (t c : Nat) : List CopyCmd :=
  let k := s.core c
  (k.cur.toList.map (·.cmd) ++ k.cq).filter (·.t == t)

/-- The atomic that a group waits for, and the lanes of it that have their results. -/
def Group.atomicPark (G : Group) : Option (Access × Lanes) :=
  G.parks.findSome? (fun p => match p with
    | .atomic a done => some (a, done)
    | _ => none)

/-- The values of filled return slots are written to their registers, and their lanes are marked as performed (R89, R279); a lane whose ring slot is not resident goes to the log. None while the log has no room for it. -/
def State.settleSlots (s : State) (t g : Nat) : Option State :=
  match s.who t g with
  | none => some s
  | some w =>
    match w.G.atomicPark with
    | none => some s
    | some (a, done) =>
      (if (w.G.answers a done).any (fun d => d.2 == .residency) then s.logSlots w a done else some s).map (fun s =>
        let (s, done) := s.takeAnswers w a done
        s.modGroup t g (fun G => { G with parks := G.parks.map (fun p => match p with
          | .atomic b _ => .atomic b done
          | p => p) }))

/-- The first of `n` free LPDDR frames of a die. -/
def State.freeLpddr (s : State) (die n : Nat) : Option Nat :=
  firstFit ((s.mmp.frames.filter (fun f => f.die == die && !f.sram)).map (fun f => (f.num, 1))) (2 ^ 20) n

/-- Takes LPDDR frames of a die for a save area, or gives them back. -/
def State.takeArea (s : State) (die first n : Nat) : State :=
  s.modMmp (fun m => { m with frames := m.frames ++ (upFrom first n).map (fun k => Frame64.system die k false) })
def State.freeArea (s : State) (a : PAddr) (n : Nat) : State := s.modMmp (fun m => { m with frames := m.frames.filter (fun f => !f.within a n) })

/-- Frames of an area of some bytes. -/
def areaFrames (len : Nat) : Nat := ceilDiv len 65536

/-- What a team has on its way in its cores ends before it is written away: TRNX is set (R96), private lines are written back (R211). -/
def State.settleTeam (s : State) (T : Team) : State :=
  T.groups.foldl (fun s G => match T.share? G.core with | some sh => (s.settleTrnx T.id G.core G.gid).flushPriv T G sh.core | none => s) s

/-- What a saved team leaves on its cores: nothing of it, its frames for messages included (R381). -/
def State.leaveCores (s : State) (T : Team) : State :=
  let s := T.shares.foldl (fun s sh => s.dropCopies T.id sh.core) s
  let s := T.groups.foldl (fun s G => match T.share? G.core with
    | some sh => s.freeQuad sh.core T.id G.gid
    | none => s) s
  let s := (s.dropFills T.id (T.shares.map (·.core))).unpinFrames T.areaDie T.area
  { s with teams := s.teams.filter (fun y => y.id != T.id) }

/-- The state that the save engine reads: the team settled, and the single-bit errors corrected that reading its regions finds (R399). -/
def State.beforeSave (s : State) (T : Team) : State :=
  (s.settleTeam T).scrub (s.mem.upsets.filter (fun l => T.shares.any (fun sh => sh.pieces.any (fun p => decide (p.1.key ≤ 64 * l) && decide (64 * l < p.1.key + p.2.1)))))

/-- Writes a team away (R381, R382), and the team is READY again (R356). -/
def State.saveTeam (s : State) (t : Nat) (first : Nat) : State :=
  match s.team? t with
  | none => s
  | some T =>
    let s := s.beforeSave T
    match s.team? t with
    | none => s
    | some T =>
      let area : PAddr := framePlace T.die first false
      let image := s.saveImage T
      let x : Saved :=
        { team := { T with area := [] }, cells := T.shares.zipIdx.map (fun y => (y.2, s.mem.lift y.1.pieces)), poison := T.shares.zipIdx.map (fun y => (y.2, s.mem.liftBad y.1.pieces)),
          cmds := T.shares.zipIdx.map (fun y => (y.2, s.commandsOf t y.1.core)), area := area, areaLen := T.sections.2, readyTime := s.pkg.time.toNat, aged := none }
      let s := ((s.leaveCores T).takeArea T.die first (areaFrames T.sections.2)).modMem (fun m => m.store (image.zipIdx.map (fun b => (area.add b.2, b.1))))
      s.modSched (fun q => { q with saved := q.saved ++ [x] })

/-- Is the release work of every group of a team done: the store queues of its cores, and its atomics (R381)? -/
def State.teamDrained (s : State) (T : Team) : Bool :=
  T.groups.all (fun G => s.ownDone T.id G.gid (s.ctl.stamp + 1)) && T.shares.all (fun sh => sh.retired || (s.core sh.core).sq == [])

/-- CONTEXT_SAVE (R381): a victim, once every run of the package has ended and the store queues of its cores and its atomics are performed. -/
def execContextSave (t : Nat) (s : State) : Host.Outcome State Fault Refusal :=
  event s (
    match s.pkg.halt, s.team? t with
    | some vs, some T =>
      if !vs.contains t || !T.resident || s.teams.any (fun U => U.groups.any (fun G => G.run.isSome)) || !s.teamDrained T then none
      else (T.groups.foldlM (fun (s : State) G => s.settleSlots t G.gid) s).bind (fun s => (s.freeLpddr T.die (areaFrames T.sections.2)).map (s.saveTeam t))
    | _, _ => none)

/-! ### Restoring (R384) -/

/-- A range of a share whose region has moved. -/
def RangeRec.shift (r : RangeRec) (old new : Nat) : RangeRec := { r with base := r.base - old + new }

/-- A side of a command whose share has moved. -/
def SideVal.shift (v : SideVal) (old new : Nat) : SideVal := { v with range := v.range.map (fun r => r.shift old new) }

/-- A copy command whose share has moved. -/
def CopyCmd.shift (m : CopyCmd) (old new : Nat) : CopyCmd :=
  { m with dst := m.dst.shift old new, src := m.src.map (fun v => v.shift old new), index := m.index.map (fun v => v.shift old new), owned := [], absent := [] }

/-- A share at its new place. -/
def Share.moveTo (sh : Share) (p : Nat × Fit) : Share :=
  if sh.retired then sh
  else { sh with
    core := p.1, scratchBase := p.2.scratch, obufBase := p.2.obuf, tiles := p.2.tiles, watchdog := 0,
    ranges := sh.ranges.map (fun r => (r.1, r.2.shift sh.obufBase p.2.obuf)) }

/-- What a group goes on waiting for after a restore. A held CWAIT, and a MIGR or GRAFT that has not placed its message, stands at its lanes' address and is executed again (R320, R336); so is an RFENCE, from its release work on (R336). -/
def Park.revive (p : Park) (stamp : Nat) : Option Park :=
  match p with
  | .cwait .. | .migr .. | .graft .. => none
  | .rfence win _ _ d => some (.rfence win stamp none d)
  | p => some p

/-- A group at its new place: a new run, no latches but those that a placed KIND 3 message carries (R87, R320, R384). -/
def Group.revive (G : Group) (quad : Option Nat) (stamp : Nat) : Group :=
  let carried := match G.place with
    | .message h => h.kind == 3
    | _ => false
  { G with
    place := (match quad with | some q => .slot q | none => G.place), xs := if carried then G.xs else [], xprev := [], ready := false, qwait := 0, lastIssue := none, since := stamp,
    parks := G.parks.filterMap (fun p => p.revive stamp), frame := G.frame.map (fun f => { f with held := [] }) }

/-- A saved team at its new place, with frames for its messages on the die of its cores (R312). -/
def Team.revive (T : Team) (ps : List (Nat × Fit)) (area : List Nat) (stamp now : Nat) : Team :=
  let quad (G : Group) : Option Nat := match G.place with
    | .slot _ => (ps[G.core]?).map (fun p => nth 0 p.2.quads ((T.here G.core).findIdx (·.gid == G.gid)))
    | _ => none
  { T with
    areaDie := dieOfPlaces ps, area := area,
    shares := T.shares.zipIdx.map (fun x => match ps[x.2]? with | some p => x.1.moveTo p | none => x.1),
    groups := T.groups.map (fun G => G.revive (quad G) stamp), restoredAt := max 1 now }

/-- Issues saved copy commands again, in queue order: they own and clear their lines anew (R255). A place for them in the core's queue of 64 commands is part of what the share needs of its core (R253; DESIGN CHOICE, log 77). -/
def State.reissueCopies (s : State) (T : Team) (j : Nat) (sh : Share) (old : Nat) : List CopyCmd → State
  | [] => s
  | m :: r =>
    let s := s.bumpStamp
    let m := m.shift old sh.obufBase
    let (owned, absent) := s.reachOf T sh m
    let m := { m with order := s.ctl.stamp, owned := owned, absent := absent }
    ((s.ownership true owned absent).modCore sh.core (fun k => { k with cq := k.cq ++ [m] })).reissueCopies T j sh old r

/-- A saved team is gone from the scheduler's list. -/
def State.endSaved (s : State) (idx : Nat) (x : Saved) : State :=
  (s.modSched (fun q => { q with saved := q.saved.eraseIdx idx })).freeArea x.area (areaFrames x.areaLen)

/-- What the cores of a restored team hold of its address space from before, and it is not to see: lines of SK pages, records, translations, and instruction lines that no bed pins and no run needs (R219, R383). -/
def State.forgetOld (s : State) (asn : Nat) (cs : List Nat) : State :=
  cs.foldl (fun s c => s.modCore c (fun k => { k with
    recs := k.recs.filter (·.asn != asn), tlb := k.tlb.filter (·.asn != asn), wtlb := k.wtlb.filter (·.asn != asn),
    istore := k.istore.filter (fun x => x.asn != asn || s.lineKept c x) })) (s.dropSk cs)

/-- Puts a saved team on its cores, its messages in its new frames (R320, R384). -/
def State.restoreTeam (s : State) (idx : Nat) (x : Saved) (ps : List (Nat × Fit)) (area : List Nat) : State :=
  let s := s.bumpStamp
  let T := x.team.revive ps area s.ctl.stamp s.pkg.time.toNat
  let s := (s.endSaved idx x).dropGang (savedKey T.id)
  let s := T.shares.zipIdx.foldl (fun s y => if y.1.retired then s
    else s.modMem (fun m => m.lower (spGet [] x.cells y.2) (spGet [] x.poison y.2) y.1.pieces)) s
  let s := s.modMem (fun m => T.groups.foldl (fun m G => m.store (T.msgCells G)) m)
  let cores := (T.shares.filter (!·.retired)).map (·.core)
  let s := s.forgetOld T.asn cores
  let s := { s with teams := s.teams ++ [T], cores := s.cores.map (fun (c : Nat × Core) => if cores.contains c.1 then (c.1, { c.2 with gated := false }) else c) }
  T.shares.zipIdx.foldl (fun s y => s.reissueCopies T y.2 y.1 (((x.team.shares[y.2]?).map (·.obufBase)).getD 0) (spGet [] x.cmds y.2)) s

/-- Is the area of a saved team as the save engine left it: CHECK matches, and no line mismatches (R384)? -/
def State.areaOk (s : State) (x : Saved) : Bool :=
  saveCheck (s.mem.bytes x.area x.areaLen) && !s.mem.poison.any (fun l => decide (x.area.key ≤ 64 * l) && decide (64 * l < x.area.key + x.areaLen))

/-- CONTEXT_RESTORE (R356, R384): a saved team whose turn it is, on the first cluster that it fits, once its frames can be had; or the request for pre-emption for one that fits nowhere. -/
def execContextRestore (idx : Nat) (s : State) : Host.Outcome State Fault Refusal :=
  event s (
    match s.sched.saved[idx]? with
    | none => none
    | some x =>
      let r := x.ready idx
      if s.pkg.halt.isSome || s.outranked r then none
      else match s.placesFor r with
        | none => s.preempt r
        | some ps =>
          if !s.areaOk x then some ((((s.endSaved idx x).releaseFrames x.team).dropGang r.key).failTask x.team.task 0x50 x.team.teamId)
          else match s.takeFrames (dieOfPlaces ps) r.frames with
            | none => none
            | some (s1, area) =>
              let s' := s1.restoreTeam idx x ps area
              match s'.team? x.team.id with
              | none => none
              | some T =>
                if T.phase != .running then some s'
                else match s'.pinTeam T T.shares with
                  | .ok s => some s
                  | .wait s'' => some (s.modMmp (fun m => { m with faults := s''.mmp.faults, spaces := s''.mmp.spaces }))
                  | .gone s => some s
                  | .cause s c => some (s.killTeam T.id c))

end Sys2Proof.Machine
end

