-- ==== Sys2Proof/Machine/CrossLane.lean ====
section
/-! DEFINITION. Cross-lane instructions: SHFL, VOTE, REDX, PRFX, MATCH (R153, R517, R538 to R540). -/

namespace Sys2Proof.Machine

/-- The lane that SHFL reads for lane `l` (R539). -/
def shflLane (var b l : Nat) : Nat :=
  match var with
  | 0 => b % 16
  | 1 => if b % 32 ≤ l then l - b % 32 else l
  | 2 => if l + b % 32 ≤ 15 then l + b % 32 else l
  | _ => l ^^^ (b % 16)

/-- SHFL (R539). -/
def execShfl (w : RIWord) (s : State) : Host.Outcome State Fault Refusal :=
  issueG (.shfl w) s (fun x s =>
    .done s (valueEff Sig.shfl w (wideType w.t) 6 x.ex
      (laneList.map (fun l => x.env.srcT (wideType w.t) w.a (shflLane w.var.toNat (x.env.src w.b l).toNat l)))))

/-- The value of VOTE over the executing lanes (R539). -/
def voteVal (w : RIWord) (e : Env) (ex : Lanes) : DWord :=
  let q (l : Nat) : Bool := e.p (srcNum w.a) l != w.xf.getLsbD 0
  let ls := lanesOf ex
  match w.var.toNat with
  | 0 => boolWord (ls.all q)
  | 1 => boolWord (ls.any q)
  | 2 => (maskOf (fun l => inMask ex l && q l)).setWidth 64
  | _ => boolWord (ls.all q || ls.all (fun l => !q l))

/-- VOTE (R539). -/
def execVote (w : RIWord) (s : State) : Host.Outcome State Fault Refusal :=
  issueG (.vote w) s (fun x s => .done s (valueEff Sig.vote w false 6 x.ex (laneList.map (fun _ => voteVal w x.env x.ex))))

/-- The operations of REDX and PRFX. -/
inductive LaneOp where
  | add
  | min
  | max
  | and
  | or
  | xor
  deriving DecidableEq, Repr

/-- The identity of an operation in a type (R540), as bits of the type. -/
def laneIdentity (t : BitVec 5) (op : LaneOp) : Nat :=
  let n := typeBits t
  if isFloatT t then
    let f := fmtT t
    match op with
    | .min => f.inf.getD 0
    | .max => withSign f true (f.inf.getD 0)
    | _ => withSign f true 0
  else
    let r := intRange n (isSignedT t)
    match op with
    | .min => wrapTo n r.2
    | .max => wrapTo n r.1
    | .and => 2 ^ n - 1
    | _ => 0

/-- Combines two values of a type (R540). -/
def laneCombine (w : RIWord) (op : LaneOp) (a b : Nat) : Nat :=
  let n := typeBits w.t
  if isFloatT w.t then
    match op with
    | .min => fminmaxBits (fmtT w.t) w.ftz false a b
    | .max => fminmaxBits (fmtT w.t) w.ftz true a b
    | _ => faddBits (fmtT w.t) (rmOf w.rm) false w.ftz a b
  else
    let x := intOf w.t (BitVec.ofNat 64 a)
    let y := intOf w.t (BitVec.ofNat 64 b)
    match op with
    | .add => wrapTo n (x + y)
    | .min => wrapTo n (min x y)
    | .max => wrapTo n (max x y)
    | .and => a &&& b
    | .or => a ||| b
    | .xor => a ^^^ b

/-- The 16 values that are combined: a lane outside the executing ones gives the identity (R540). -/
def laneInputs (w : RIWord) (op : LaneOp) (e : Env) (ex : Lanes) : List Nat :=
  laneList.map (fun l => if inMask ex l then (e.srcT (wideType w.t) w.a l).toNat % 2 ^ typeBits w.t else laneIdentity w.t op)

/-- One level of the tree of R153: neighbours are combined. -/
def pairUp (f : Nat → Nat → Nat) : List Nat → List Nat
  | a :: b :: r => f a b :: pairUp f r
  | l => l

/-- The tree of R153. -/
def treeOf (f : Nat → Nat → Nat) (v : List Nat) : Nat := (pairUp f (pairUp f (pairUp f (pairUp f v)))).headD 0

/-- The operation of a REDX word. -/
def redxOp (w : RIWord) : LaneOp :=
  match w.var.toNat with
  | 0 => .add
  | 1 => .min
  | 2 => .max
  | 3 => .and
  | 4 => .or
  | _ => .xor

/-- REDX (R540). -/
def execRedx (w : RIWord) (s : State) : Host.Outcome State Fault Refusal :=
  issueG (.redx w) s (fun x s =>
    let r := bitsPlace w.t (treeOf (laneCombine w (redxOp w)) (laneInputs w (redxOp w) x.env x.ex))
    .done s (valueEff Sig.redx w (wideType w.t) 10 x.ex (laneList.map (fun _ => r))))

/-- The operation of a PRFX word. -/
def prfxOp (w : RIWord) : LaneOp :=
  match w.var.toNat with
  | 0 | 1 => .add
  | 2 => .min
  | _ => .max

/-- One level of the prefix tree: position `l` from `d` up takes in position l − d of the level before (R540). -/
def prfxLevel (f : Nat → Nat → Nat) (v : List Nat) (d : Nat) : List Nat :=
  v.zipIdx.map (fun x => if d ≤ x.2 then f (nth 0 v (x.2 - d)) x.1 else x.1)

/-- A value that passes through a float instruction without an operation: a NaN is canonical, and a subnormal is flushed under .FTZ (R147, R148). -/
def laneClean (w : RIWord) (x : Nat) : Nat :=
  if isFloatT w.t then
    match fdecode (fmtT w.t) x with
    | .nan => canonNan (fmtT w.t)
    | .inf _ => x
    | .fin n m e => if flushIn (fmtT w.t) w.ftz (.fin n m e) == .fin n m e then x else withSign (fmtT w.t) n 0
  else x

/-- The results of PRFX (R540). -/
def prfxVals (w : RIWord) (e : Env) (ex : Lanes) : List Nat :=
  let op := prfxOp w
  let v := ([1, 2, 4, 8].foldl (prfxLevel (laneCombine w op)) (laneInputs w op e ex)).map (laneClean w)
  if w.var = 1 then laneIdentity w.t op :: v.take 15 else v

/-- PRFX (R540). -/
def execPrfx (w : RIWord) (s : State) : Host.Outcome State Fault Refusal :=
  issueG (.prfx w) s (fun x s =>
    .done s (valueEff Sig.prfx w (wideType w.t) 6 x.ex ((prfxVals w x.env x.ex).map (bitsPlace w.t))))

/-- The mask of the executing lanes whose value equals lane `l`'s (R517). -/
def matchMask (w : RIWord) (e : Env) (ex : Lanes) (l : Nat) : Lanes :=
  maskOf (fun k => inMask ex k && e.srcT (wideType w.t) w.a k == e.srcT (wideType w.t) w.a l)

/-- The value of MATCH in lane `l` (R517). -/
def matchVal (w : RIWord) (e : Env) (ex : Lanes) (l : Nat) : DWord :=
  if w.var = 0 then (matchMask w e ex l).setWidth 64
  else if (lanesOf ex).all (fun k => matchMask w e ex k == ex) then ex.setWidth 64 else 0

/-- MATCH (R517). -/
def execMatchLanes (w : RIWord) (s : State) : Host.Outcome State Fault Refusal :=
  issueG (.matchLanes w) s (fun x s => .done s (valueEff Sig.matchLanes w false 8 x.ex (laneList.map (matchVal w x.env x.ex))))

end Sys2Proof.Machine
end

