-- ==== Sys2Proof/Machine/Integer.lean ====
section
/-! DEFINITION. Integer, bitwise, shift, move and predicate instructions (R449, R450, R497 to R499, R524, R532 to R535). -/

namespace Sys2Proof.Machine

/-- The result of an integer operation of two operands (R498). -/
def intOp2 (w : RIWord) (sat : Bool) (f : Int → Int → Int) (e : Env) (l : Nat) : DWord :=
  let wide := wideType w.t
  intPlace w.t sat (f (intOf w.t (e.srcT wide w.a l)) (intOf w.t (srcB e w wide l)))

/-- The result of a bitwise operation (R450, R532). -/
def bitOp2 (w : RIWord) (f : Nat → Nat → Nat) (e : Env) (l : Nat) : DWord :=
  let wide := wideType w.t
  bitsPlace w.t (f (e.srcT wide w.a l).toNat (srcB e w wide l).toNat)

/-- IADD (R498). -/
def execIadd (w : RIWord) (s : State) : Host.Outcome State Fault Refusal :=
  issueValue Sig.iadd w (.iadd w) (wideType w.t) 2 (intOp2 w w.sat (· + ·)) s

/-- ISUB (R498). -/
def execIsub (w : RIWord) (s : State) : Host.Outcome State Fault Refusal :=
  issueValue Sig.isub w (.isub w) (wideType w.t) 2 (intOp2 w w.sat (· - ·)) s

/-- The high half of a product (R498). -/
def mulHigh (t : BitVec 5) (a b : Int) : Int := (a * b) / (2 ^ typeBits t : Int)

/-- IMUL (R498). -/
def execImul (w : RIWord) (s : State) : Host.Outcome State Fault Refusal :=
  issueValue Sig.imul w (.imul w) (wideType w.t) 4 (intOp2 w w.sat (if fld w.xf 0 1 == 1 then mulHigh w.t else (· * ·))) s

/-- The value of IMAD (R498). -/
def imadVal (w : RIWord) (e : Env) (l : Nat) : DWord :=
  let wide := wideType w.t
  intPlace w.t w.sat (intOf w.t (e.srcT wide w.a l) * intOf w.t (e.srcT wide w.b l) + intOf w.t (e.srcT wide w.c l))

/-- IMAD (R498). -/
def execImad (w : RIWord) (s : State) : Host.Outcome State Fault Refusal :=
  issueValue Sig.imad w (.imad w) (wideType w.t) 4 (imadVal w) s

/-- IMIN (R498). -/
def execImin (w : RIWord) (s : State) : Host.Outcome State Fault Refusal :=
  issueValue Sig.imin w (.imin w) (wideType w.t) 2 (intOp2 w false min) s

/-- IMAX (R498). -/
def execImax (w : RIWord) (s : State) : Host.Outcome State Fault Refusal :=
  issueValue Sig.imax w (.imax w) (wideType w.t) 2 (intOp2 w false max) s

/-- The value of IABS (R498, R152). -/
def iabsVal (w : RIWord) (e : Env) (l : Nat) : DWord :=
  let a := intOf w.t (e.srcT (wideType w.t) w.a l)
  intPlace w.t w.sat (if a < 0 then -a else a)

/-- IABS (R498). -/
def execIabs (w : RIWord) (s : State) : Host.Outcome State Fault Refusal :=
  issueValue Sig.iabs w (.iabs w) (wideType w.t) 2 (iabsVal w) s

/-- The relation of an ICMP word in a lane (R498). -/
def icmpVal (w : RIWord) (e : Env) (l : Nat) : Bool :=
  let wide := wideType w.t
  icmpRel w.var.toNat (intOf w.t (e.srcT wide w.a l)) (intOf w.t (srcB e w wide l))

/-- ICMP (R498). -/
def execIcmp (w : RIWord) (s : State) : Host.Outcome State Fault Refusal :=
  issueCompare Sig.icmp w (.icmp w) 2 (icmpVal w) s

/-- AND (R450). -/
def execAnd (w : RIWord) (s : State) : Host.Outcome State Fault Refusal :=
  issueValue Sig.and w (.and w) (wideType w.t) 2 (bitOp2 w (· &&& ·)) s

/-- OR (R532). -/
def execOr (w : RIWord) (s : State) : Host.Outcome State Fault Refusal :=
  issueValue Sig.or w (.or w) (wideType w.t) 2 (bitOp2 w (· ||| ·)) s

/-- XOR (R532). -/
def execXor (w : RIWord) (s : State) : Host.Outcome State Fault Refusal :=
  issueValue Sig.xor w (.xor w) (wideType w.t) 2 (bitOp2 w (· ^^^ ·)) s

/-- The shift count: 32 bits, unsigned (R533). -/
def shiftCount (w : RIWord) (e : Env) (l : Nat) : Nat := (srcB e w false l).toNat

/-- The value of SHL (R533). -/
def shlVal (w : RIWord) (e : Env) (l : Nat) : DWord :=
  let a := (e.srcT (wideType w.t) w.a l).toNat
  let n := shiftCount w e l
  bitsPlace w.t (if n < typeBits w.t then a * 2 ^ n else 0)

/-- The value of SHR (R533). -/
def shrVal (w : RIWord) (e : Env) (l : Nat) : DWord :=
  let a := (e.srcT (wideType w.t) w.a l).toNat % 2 ^ typeBits w.t
  let n := shiftCount w e l
  bitsPlace w.t (if n < typeBits w.t then a / 2 ^ n else 0)

/-- The value of SHR.a (R533). -/
def sarVal (w : RIWord) (e : Env) (l : Nat) : DWord :=
  let a := intOf w.t (e.srcT (wideType w.t) w.a l)
  let n := min (shiftCount w e l) (typeBits w.t)
  intPlace w.t false (a / (2 ^ n : Int))

/-- SHL (R533). -/
def execShl (w : RIWord) (s : State) : Host.Outcome State Fault Refusal :=
  issueValue Sig.shl w (.shl w) (wideType w.t) 2 (shlVal w) s

/-- SHR (R533). -/
def execShr (w : RIWord) (s : State) : Host.Outcome State Fault Refusal :=
  issueValue Sig.shr w (.shr w) (wideType w.t) 2 (shrVal w) s

/-- SHR_A (R533). -/
def execShrA (w : RIWord) (s : State) : Host.Outcome State Fault Refusal :=
  issueValue Sig.shrA w (.shrA w) (wideType w.t) 2 (sarVal w) s

/-- The value of BFE (R450): bits from `p`, those above the operand taken as its extension. -/
def bfeVal (w : RIWord) (e : Env) (l : Nat) : DWord :=
  let n := typeBits w.t
  let a := intOf w.t (e.srcT (wideType w.t) w.a l)
  let p := (e.src w.b l).toNat % 256
  let len := min ((e.src w.c l).toNat % 256) n
  if len = 0 then 0
  else
    let f := wrapTo len (a / (2 ^ p : Int))
    bitsPlace w.t (if isSignedT w.t then wrapTo n (signedOf len f) else f)

/-- BFE (R450). -/
def execBfe (w : RIWord) (s : State) : Host.Outcome State Fault Refusal :=
  issueValue Sig.bfe w (.bfe w) (wideType w.t) 2 (bfeVal w) s

/-- The value of BFI (R450): the bits of `b` placed from `p`, cut at the operand's width. -/
def bfiVal (w : RIWord) (e : Env) (l : Nat) : DWord :=
  let wide := wideType w.t
  let n := typeBits w.t
  let a := (e.srcT wide w.a l).toNat % 2 ^ n
  let b := (e.srcT wide w.b l).toNat
  let p := (e.src w.c l).toNat % 256
  let len := min ((e.src w.c l).toNat / 256 % 256) n
  let k := min len (n - p)
  let old := a / 2 ^ p % 2 ^ k
  bitsPlace w.t (a - old * 2 ^ p + b % 2 ^ k * 2 ^ p)

/-- BFI (R450). -/
def execBfi (w : RIWord) (s : State) : Host.Outcome State Fault Refusal :=
  issueValue Sig.bfi w (.bfi w) (wideType w.t) 2 (bfiVal w) s

/-- The number of set bits among the low `n`. -/
def popcount (n x : Nat) : Nat := (upFrom 0 n).foldl (fun a i => a + x / 2 ^ i % 2) 0

/-- The value of POPC (R532). -/
def popcVal (w : RIWord) (e : Env) (l : Nat) : DWord :=
  BitVec.ofNat 64 (popcount (typeBits w.t) (e.srcT (wideType w.t) w.a l).toNat)

/-- POPC (R533). -/
def execPopc (w : RIWord) (s : State) : Host.Outcome State Fault Refusal :=
  issueValue Sig.popc w (.popc w) false 2 (popcVal w) s

/-- The value of CLZ (R450). -/
def clzVal (w : RIWord) (e : Env) (l : Nat) : DWord :=
  let n := typeBits w.t
  let a := (e.srcT (wideType w.t) w.a l).toNat % 2 ^ n
  BitVec.ofNat 64 (if a = 0 then n else n - 1 - Nat.log2 a)

/-- CLZ (R450). -/
def execClz (w : RIWord) (s : State) : Host.Outcome State Fault Refusal :=
  issueValue Sig.clz w (.clz w) false 2 (clzVal w) s

/-- The value of BREV (R450). -/
def brevVal (w : RIWord) (e : Env) (l : Nat) : DWord :=
  let n := typeBits w.t
  let a := (e.srcT (wideType w.t) w.a l).toNat
  BitVec.ofNat 64 ((upFrom 0 n).foldl (fun r j => r + a / 2 ^ j % 2 * 2 ^ (n - 1 - j)) 0)

/-- BREV (R450). -/
def execBrev (w : RIWord) (s : State) : Host.Outcome State Fault Refusal :=
  issueValue Sig.brev w (.brev w) (wideType w.t) 2 (brevVal w) s

/-- MOV (R524). -/
def execMov (w : RIWord) (s : State) : Host.Outcome State Fault Refusal :=
  issueValue Sig.mov w (.mov w) (wideType w.t) 1 (fun e l => e.srcT (wideType w.t) w.a l) s

/-- The value of MOVI (R524): the immediate placed under R140. -/
def moviVal (w : RIWord) : DWord :=
  match w.t.toNat with
  | 4 => w.imm.signExtend 64
  | 8 => w.imm.setWidth 64
  | _ => bitsPlace w.t w.imm.toNat

/-- MOVI (R524). -/
def execMovi (w : RIWord) (s : State) : Host.Outcome State Fault Refusal :=
  issueValue Sig.movi w (.movi w) (wideType w.t) 1 (fun _ _ => moviVal w) s

/-- SEL (R535): the guard selects. -/
def execSel (w : RIWord) (s : State) : Host.Outcome State Fault Refusal :=
  issueValue Sig.sel w (.sel w) (wideType w.t) 2
    (fun e l => if e.guard w.hdr.guard l then e.srcT (wideType w.t) w.a l else e.srcT (wideType w.t) w.b l) s

/-- The value of ADDR (R450). -/
def addrVal (w : RIWord) (e : Env) (l : Nat) : DWord :=
  let b : Word := if w.isImm then w.imm else e.src w.b l
  e.src64 w.a l + (if w.t == 3 then b.signExtend 64 else b.setWidth 64) <<< (w.xf.toNat % 8)

/-- ADDR (R450). -/
def execAddr (w : RIWord) (s : State) : Host.Outcome State Fault Refusal :=
  issueValue Sig.addr w (.addr w) true 2 (addrVal w) s

/-- The predicate that a PLOP word computes in a lane (R534). -/
def plopVal (w : RIWord) (e : Env) (l : Nat) : Bool :=
  let bit (b : Bool) : Nat := if b then 1 else 0
  let k := bit (e.p (srcNum w.a) l) + 2 * bit (e.p (srcNum w.b) l) + 4 * bit (e.p (srcNum w.c) l)
  w.xf.getLsbD k

/-- PLOP (R534). -/
def execPlop (w : RIWord) (s : State) : Host.Outcome State Fault Refusal :=
  issue (.plop w) s
    (fun x s => .done s { writes := [(2, .p (fldN w.xf 8 3) x.ex (lanesWhere (plopVal w x.env)))] })
    noBody
    (fun x s => .done s { writes := [(0, .p (fldN w.xf 8 3) 0xFFFF (lanesWhere (plopVal w x.env)))] })

end Sys2Proof.Machine
end

