-- ==== Sys2Proof/Machine/Windows.lean ====
section
/-! DEFINITION. Windows mapped and unmapped, bindings, landings, and the copies of counters (R322 to R325, R330 to R335, R349). -/

namespace Sys2Proof.Machine

/-! ### Mapping (R322 to R324) -/

/-- The fields of a window entry (R323); its destinations and members are those listed. -/
structure WinEntry where
  wid : Nat
  kind : Nat
  mode : Nat
  ndest : Nat
  nmem : Nat
  flags : Nat
  base : DWord
  size : Nat
  asn : Nat
  pathId : Nat
  session : Nat
  deadline : Nat
  resid : DWord
  dests : List Word
  mems : List Word
  deriving DecidableEq, Repr

/-- Reads the fields of a window entry. -/
def winEntryOf (bs : List Byte) : WinEntry :=
  let n := numAt bs
  let peers (at_ count : Nat) : List Word := (upFrom 0 (min count 64)).map (fun i => BitVec.ofNat 32 (n (at_ + 4 * i) 4))
  { wid := n 0 2, kind := n 2 1, mode := n 3 1, ndest := n 4 1, nmem := n 5 1, flags := n 6 1, base := BitVec.ofNat 64 (n 8 8), size := n 16 4,
    asn := n 20 2, pathId := n 22 2, session := n 24 4, deadline := n 28 4, resid := BitVec.ofNat 64 (n 32 8),
    dests := peers 64 (n 4 1), mems := peers 320 (n 5 1) }

/-- The package and the window that a peer entry names. -/
def peerOf (x : Word) : Nat × Nat := (fldN x 0 16, fldN x 16 12)

/-- The ranges and reserved bytes of an entry (R323). -/
def WinEntry.fieldsOk (e : WinEntry) (bs : List Byte) (own : Nat) : Bool :=
  let tx := e.kind % 2 == 1
  let rx := e.kind / 2 % 2 == 1
  let all := e.dests ++ e.mems
  decide (e.wid < 4096) && decide (1 ≤ e.kind) && decide (e.kind ≤ 3) && decide (e.mode ≤ 2) && decide (e.ndest ≤ 64) && decide (e.nmem ≤ 64) &&
  (!tx || e.ndest != 0) && (!rx || e.nmem != 0) && decide (e.flags < 2) && numAt bs 7 1 == 0 && (bs.drop 40).take 24 == List.replicate 24 0 &&
  e.base.toNat % 4096 == 0 && fldN e.base 52 12 == 0 && e.size % 4096 == 0 && decide (4096 ≤ e.size) && decide (e.size ≤ 2 ^ 30) && decide (1 ≤ e.deadline) &&
  (if e.mode = 2 && tx then e.resid != 0 && e.resid.toNat % 64 == 0 else e.resid == 0) &&
  all.all (fun x => fldN x 28 4 == 0) && e.dests.eraseDups == e.dests && e.mems.eraseDups == e.mems &&
  (e.flags == 1 || all.all (fun x => (peerOf x).1 != own))

/-- The 64 KiB pages that a range of addresses meets. -/
def pagesOf (base : DWord) (size : Nat) : List DWord :=
  (upFrom (vpage base) ((base.toNat + size + 65535) / 65536 - vpage base)).map (fun p => BitVec.ofNat 64 (65536 * p))

/-- The places of 64 KiB pages that are all resident in a die's SRAM; parts of pages of 256 MiB where `large` allows them: a window's own pages are none, those of its residual array may be (R322 to R324). -/
def State.residentOn (s : State) (asn die : Nat) (large : Bool) (ps : List DWord) : Option (List (DWord × PAddr)) :=
  ps.mapM (fun va => match s.walk asn va with
    | .leaf _ w big => if leafPresent w && homeBit w && hdie w == die && (large || !big) then some (va, placeOf w big va) else none
    | _ => none)
/-- The marks of a granule: TX in bit 0, RX in bit 16, unmapped in bit 32. -/
def granuleMark (tx rx gone : Bool) : BitVec 49 := (if tx then 1#49 else 0) ||| (if rx then 1#49 <<< 16 else 0) ||| (if gone then 1#49 <<< 32 else 0)

/-- The marks of a granule: those of every window that holds it, and unmapped where there is none (R324). -/
def State.granuleNow (s : State) (asn : Nat) (va : DWord) : BitVec 49 :=
  let ws := s.refl.windows.filter (·.holds asn va)
  granuleMark (ws.any (·.tx)) (ws.any (·.rx)) (ws == [])

/-- Marks the granules of a range as the windows now mapped have it (R324). -/
def State.markRange (s : State) (asn : Nat) (base : DWord) (size : Nat) : State :=
  (upFrom 0 (size / 4096)).foldl (fun s i =>
    let va := base + BitVec.ofNat 64 (4096 * i)
    match s.walk asn va with
    | .leaf _ w big =>
      let k := va.toNat % 65536 / 4096
      s.modFrame (placeOf w big va) asn (vpage va) (fun f => { f with marks := (f.marks &&& ~~~((granuleMark true true true) <<< k)) ||| (s.granuleNow asn va <<< k) })
    | _ => s) s

/-- Makes a range of bytes zero whose pages lie at some places. -/
def State.zeroPages (s : State) (base : DWord) (size : Nat) (ps : List (DWord × PAddr)) : State :=
  s.modMem (fun m => ps.foldl (fun m p =>
    let lo := max base.toNat p.1.toNat
    m.zeroRange (p.2.add (lo - p.1.toNat)) (min (base.toNat + size) (p.1.toNat + 65536) - lo)) m)

/-- A window as it is mapped: counters zero, every peer live (R334, R335). -/
def WinEntry.window (e : WinEntry) (die now : Nat) : Window :=
  let w : Window :=
    { id := e.wid, die := die, tx := e.kind % 2 == 1, rx := e.kind / 2 % 2 == 1, mode := e.mode, loop := e.flags == 1, base := e.base, size := e.size, asn := e.asn,
      pathId := e.pathId, session := e.session, deadline := e.deadline, resid := e.resid, dests := e.dests.map peerOf, mems := e.mems.map peerOf, caps := [],
      captured := 0, sent := 0, paths := e.dests.map (fun _ => { sentCaps := 0, ackedCaps := 0, live := true, stopped := false, heard := now }),
      members := e.mems.map (fun _ => { landed := 0, live := true, heard := now }), masks := [], copies := [], updates := [] }
  { w with copies := (upFrom 0 8).map (fun d => (d, w.counters)) }

/-- What a request to map a window finds where it is not refused: the entry, its pages and those of its residual array (R322, R323, R325). -/
def State.mapFinds (s : State) (die : Nat) (entry : BitVec 4608) : Option (WinEntry × List (DWord × PAddr) × List (DWord × PAddr)) :=
  let bs := bytesOf entry
  let e := winEntryOf bs
  let stamped := s.mmp.stamped.any (fun d => d.2.any (fun r => r.asn == e.asn && rangesMeet e.base e.size r.base r.len))
  if 8 ≤ die || !e.fieldsOk bs s.pkg.pkgid || (s.window? e.wid).isSome || stamped then none
  else match s.residentOn e.asn die false (pagesOf e.base e.size), s.residentOn e.asn die true (if e.resid == 0 then [] else pagesOf e.resid e.size) with
    | some ps, some rs => some (e, ps, rs)
    | _, _ => none

/-- Is anything under way to some pages, for which a change of their marks waits (R240, R324)? -/
def State.pagesBusy (s : State) (ps : List (DWord × PAddr)) : Bool := ps.any (fun p => s.inUse p.2 1)

/-- WINDOW_MAP (R322, R323, R325). -/
def execWindowMap (die : Nat) (entry : BitVec 4608) (s : State) : Host.Outcome State Fault Refusal :=
  event s (
    match s.mapFinds die entry with
    | none => none
    | some (e, ps, rs) =>
      if s.pagesBusy ps then none
      else
        let s := ((s.pinPages e.asn ps 0).pinPages e.asn rs 0).modRefl (fun r => { r with windows := r.windows ++ [e.window die s.pkg.time.toNat] })
        some (((s.markRange e.asn e.base e.size).shootPages e.asn ps).zeroPages e.resid e.size rs))

/-- Is the destination of a capture on its way live? -/
def State.pathLive (s : State) (y : Nat × Nat × Nat) : Bool :=
  match (s.window? y.1).bind (fun w => w.paths[y.2.1]?) with
  | some p => p.live
  | none => false

/-- Takes a window out of what kept frames report when they are acknowledged; a frame for a destination that has been lost keeps no records, since its capture lands no more (R330). -/
def State.forget (s : State) (win : Nat) (x : Session) : Session :=
  { x with kept := x.kept.map (fun k => (if k.2.2.all s.pathLive then k.1 else { k.1 with records := [] }, k.2.1, k.2.2.filter (fun y => y.1 != win))) }

/-- The pages of a window. -/
def State.windowPages (s : State) (w : Window) : List (DWord × PAddr) := (s.residentOn w.asn w.die false (pagesOf w.base w.size)).getD []

/-- WINDOW_UNMAP (R322, R324): granules that no other window holds are unmapped. -/
def execWindowUnmap (win : Nat) (s : State) : Host.Outcome State Fault Refusal :=
  event s (
    match s.window? win with
    | none => none
    | some w =>
      let ps := s.windowPages w
      if s.pagesBusy ps then none
      else
        let s := s.modRefl (fun r => { r with windows := r.windows.filter (fun x => x.id != win), sessions := r.sessions.map (s.forget win) })
        some ((s.markRange w.asn w.base w.size).shootPages w.asn ps))

/-! ### Bindings (R349) -/

/-- BIND_WINDOW_COUNTER (R349): a binding whose condition holds fires at once. -/
def execBindWindowCounter (win sel : Nat) (n : DWord) (task : Nat) (s : State) : Host.Outcome State Fault Refusal :=
  event s (
    match s.window? win with
    | none => none
    | some w =>
      let b : Binding := { win := win, sel := sel, n := n, task := task }
      if 64 < sel || 65536 ≤ task || 1024 ≤ s.refl.binds.length || (w.counters.value w sel).isNone then none
      else if b.fires w then some (s.sendDec task)
      else some (s.modRefl (fun r => { r with binds := r.binds ++ [b] })))

/-- BINDING_REMOVAL (R349). -/
def execBindingRemoval (idx : Nat) (s : State) : Host.Outcome State Fault Refusal :=
  event s (if idx < s.refl.binds.length then some (s.modRefl (fun r => { r with binds := r.binds.eraseIdx idx })) else none)

/-! ### Landings (R330, R331) -/

/-- The place of a byte of a window. -/
def State.winPlace (s : State) (w : Window) (off : Nat) : Option PAddr :=
  match s.translate w.asn {} false (w.base + BitVec.ofNat 64 off) with
  | .ok pa _ => some pa
  | _ => none

/-- Is a record one that its window can land: its form, its alignment, its range (R331)? -/
def landable (r : FrameRec) (w : Window) : Bool :=
  let unit := if w.mode = 1 then 4 else if w.mode = 2 then 128 else 1
  r.q8 == (w.mode == 2) && r.offset % unit == 0 && r.len % unit == 0 && decide (r.offset + r.len ≤ w.size) &&
  r.data.length == (if r.q8 then r.len / 128 * 33 else r.len)

/-- The values of a Q8 block: exact (R333). -/
def q8Values (data : List Byte) : List FVal :=
  let scale := (nth 0 data 0).toNat
  (upFrom 1 32).map (fun i => if scale = 0xFF then .nan else decodeElem 0x13 scale (nth 0 data i).toNat)

/-- The new bytes of a 4-byte word of a window after `v` has been added (R331). -/
def State.addLanding (s : State) (w : Window) (off : Nat) (v : FVal) : List (PAddr × Byte) :=
  match s.winPlace w off with
  | some a => numBytes a 4 (rne32 (faddExact .rne (fdecode fmt32 (s.mem.num a 4)) v))
  | none => []

/-- The byte writes of a record (R331). -/
def State.landBytes (s : State) (w : Window) (r : FrameRec) : List (PAddr × Byte) :=
  match w.mode with
  | 0 => r.data.zipIdx.filterMap (fun b => (s.winPlace w (r.offset + b.2)).map (fun a => (a, b.1)))
  | 1 => (upFrom 0 (r.len / 4)).flatMap (fun i => s.addLanding w (r.offset + 4 * i) (fdecode fmt32 (numAt r.data (4 * i) 4)))
  | _ => (upFrom 0 (r.len / 128)).flatMap (fun k => (q8Values (r.data.drop (33 * k))).zipIdx.flatMap (fun x => s.addLanding w (r.offset + 128 * k + 4 * x.2) x.1))

/-- The member of an RX window that a peer's TX window is, if it is live. -/
def Window.memberOf (w : Window) (pkg tx : Nat) : Option Nat :=
  if w.rx then (upFrom 0 w.mems.length).find? (fun m => nth (0, 0) w.mems m == (pkg, tx) && ((w.members[m]?).map (·.live)).getD false) else none

/-- Counts what has landed for a member, and when it was heard. -/
def Window.land (w : Window) (m bytes : Nat) : Window :=
  { w with members := w.members.zipIdx.map (fun x => if x.2 = m then { x.1 with landed := x.1.landed + BitVec.ofNat 64 bytes } else x.1) }

/-- What the landing of records comes to: landed or dropped, held back, or met with a mismatching line. -/
inductive LandOut where
  | ok (s : State)
  | wait
  | poisoned

/-- Lands a record that a package has sent (R331, R335): a record for a window that is not there or whose member is lost is dropped, one that an additive window cannot take is counted. -/
def State.landRec (s : State) (pkg : Nat) (r : FrameRec) : LandOut :=
  match s.window? r.rxWin with
  | none => .ok s
  | some w =>
    match w.memberOf pkg r.txWin with
    | none => .ok s
    | some m =>
      if !landable r w then .ok (if w.mode = 0 then s else s.modErrs (fun e => { e with misaligned := e.misaligned + 1 }))
      else
        let bs := s.landBytes w r
        if bs.any (fun b => s.heldAt b.1 || s.ownedAt b.1) then .wait
        else if w.mode != 0 && s.mem.poison != [] && s.mem.poisoned ((bs.map (fun b => b.1.line)).eraseDups) then .poisoned
        else .ok (((s.modMem (fun x => x.store bs)).setWindow (w.land m r.len)))

/-- Lands records in order. -/
def State.landList (s : State) (pkg : Nat) : List FrameRec → LandOut
  | [] => .ok s
  | r :: rs => match s.landRec pkg r with
    | .ok s => s.landList pkg rs
    | x => x

/-- The member that a record costs: one that an additive window cannot take (R331). -/
def State.loser (s : State) (pkg : Nat) (r : FrameRec) : Option (Nat × Nat) :=
  (s.window? r.rxWin).bind (fun w => if w.mode != 0 && !landable r w then (w.memberOf pkg r.txWin).map (fun m => (w.id, m)) else none)

/-- Marks members lost, by window and number. -/
def State.loseMembers (s : State) (l : List (Nat × Nat)) : State :=
  l.foldl (fun s x => match s.window? x.1 with | some w => s.setWindow (w.lose true x.2) | none => s) s

/-- Lands the records of a frame in order, as one step: the members that some of them cost are lost when the others have been applied (R331). -/
def State.landRecs (s : State) (pkg : Nat) (rs : List FrameRec) : LandOut :=
  match s.landList pkg rs with
  | .ok t => .ok (t.loseMembers (rs.filterMap (s.loser pkg)))
  | x => x

/-- Does a window's destination agree with the RX window that it names on this package (R335)? -/
def Window.agrees (w r : Window) (own : Nat) : Bool := r.rx && r.mode == w.mode && r.size == w.size && r.mems.contains (own, w.id)

/-- LOOPBACK_LANDING (R330): the next capture of a path to the own package lands, and is acknowledged. A window that does not match costs the destination. -/
def execLoopbackLanding (win dest : Nat) (s : State) : Host.Outcome State Fault Refusal :=
  event s (
    match s.window? win with
    | none => none
    | some w =>
      match w.dests[dest]?, w.paths[dest]? with
      | some (pkg, rxw), some p =>
        if pkg != s.pkg.pkgid || !p.live then none
        else match w.caps[p.ackedCaps]?, s.window? rxw with
          | some c, some r =>
            if !w.agrees r s.pkg.pkgid then some (s.setWindow (w.lose false dest))
            else match s.landRecs pkg (c.recs.map (fun x => { x with rxWin := rxw })) with
              | .ok s =>
                (s.window? win).map (fun w => s.setWindow { w with paths := w.paths.zipIdx.map (fun x =>
                  if x.2 = dest then { x.1 with sentCaps := p.ackedCaps + 1, ackedCaps := p.ackedCaps + 1, heard := s.pkg.time.toNat } else x.1) })
              | _ => none
          | _, _ => none
      | _, _ => none)

/-- COUNTER_COPY_UPDATE (R334): a die's copy of a window's counters takes their next values. -/
def execCounterCopyUpdate (die win : Nat) (s : State) : Host.Outcome State Fault Refusal :=
  event s (
    match s.window? win with
    | none => none
    | some w =>
      match (spFind w.updates die).getD [] with
      | [] => none
      | u :: r =>
        let w' := { w with copies := spIns die u w.copies, updates := spIns die r w.updates }
        some (s.modRefl (fun x => { x with windows := x.windows.map (fun y => if y.id == win then w' else y) })))

end Sys2Proof.Machine
end

