-- ==== Sys2Proof/Machine/Transport.lean ====
section
/-! DEFINITION. Frames between packages: reception, acknowledgement, resending, keepalives, keys, lost peers (R331, R335, R337 to R340). -/

namespace Sys2Proof.Machine

/-- The open session of a frame that arrives: none comes through a port that is down (R395). -/
def State.sessionOf (s : State) (f : Frame) : Option Session := (s.session? f.session f.peer).filter (fun x => x.open_ && s.portUp f.peer)

/-- A session by its place in the list. -/
def State.sessionAt (s : State) (i : Nat) : Option Session := s.refl.sessions[i]?

/-- The window with every peer of this package lost that has been silent for DEADLINE by now (R335). -/
def Window.overdue (w : Window) (peer now : Nat) : Window :=
  let late (live : Bool) (heard : Nat) : Bool := live && decide (heard + 1000 * w.deadline ≤ now)
  let w := (upFrom 0 w.paths.length).foldl (fun w j => match w.paths[j]?, w.dests[j]? with
    | some p, some d => if d.1 == peer && late p.live p.heard then w.lose false j else w
    | _, _ => w) w
  (upFrom 0 w.members.length).foldl (fun w j => match w.members[j]?, w.mems[j]? with
    | some m, some d => if d.1 == peer && late m.live m.heard then w.lose true j else w
    | _, _ => w) w

/-- Notes that a peer has been heard, in every window that lists it and has not lost it (R335): a frame that comes after DEADLINE of silence finds the peer lost. -/
def State.hear (s : State) (peer : Nat) : State :=
  let now := s.pkg.time.toNat
  let s := s.refl.windows.foldl (fun s w => let v := w.overdue peer now; if v == w then s else s.setWindow v) s
  s.modRefl (fun r => { r with windows := r.windows.map (fun w => { w with
    paths := w.paths.zipIdx.map (fun x => if ((w.dests[x.2]?).map (·.1)) == some peer && x.1.live then { x.1 with heard := now } else x.1),
    members := w.members.zipIdx.map (fun x => if ((w.mems[x.2]?).map (·.1)) == some peer && x.1.live then { x.1 with heard := now } else x.1) }) })

/-- A capture of a path has been acknowledged. -/
def State.ackCap (s : State) (x : Nat × Nat × Nat) : State :=
  match s.window? x.1 with
  | some w => s.setWindow { w with paths := w.paths.zipIdx.map (fun p => if p.2 = x.2.1 then { p.1 with ackedCaps := max p.1.ackedCaps (x.2.2 + 1) } else p.1) }
  | none => s

/-- Takes the ACK field of a frame: the frames up to it are acknowledged and kept no longer (R338, R339). -/
def State.takeAck (s : State) (x : Session) (ack : DWord) : State :=
  let (done, rest) := x.kept.partition (fun k => decide (k.1.seq.toNat ≤ ack.toNat))
  (done.flatMap (·.2.2)).foldl (fun s y => s.ackCap y) (s.setSession { x with kept := rest })

/-- Sends a frame that carries no records, if the key allows another one. -/
def State.sendPlain (s : State) (id peer kind : Nat) : State :=
  match s.session? id peer with
  | some x => if x.open_ && x.keyFrames < keyLimit then s.sendFrame x kind 0 [] [] else s
  | none => s

/-- What every frame with a good tag does first: its peer is heard, its ACK field taken. -/
def State.openFrame (s : State) (x : Session) (f : Frame) : State := (s.hear f.peer).takeAck x f.ack

/-- A frame whose tag fails is dropped and counted (R340). -/
def State.badTag (s : State) : State := s.modErrs (fun e => { e with badTags := e.badTags + 1 })

/-- Applies the frame that is next in order, and those held that follow it (R339); a landing that is held back leaves its frame held. -/
def State.applyHeld (s : State) (id peer : Nat) : Nat → State
  | 0 => s
  | n + 1 =>
    match s.session? id peer with
    | none => s
    | some x =>
      match x.heldFrames.find? (fun f => f.seq == x.recvSeq + 1) with
      | none => s
      | some f =>
        match s.landRecs peer f.records with
        | .ok s =>
          (match s.session? id peer with
            | some x => (s.setSession { x with recvSeq := f.seq, heldFrames := x.heldFrames.filter (fun g => g.seq != f.seq) }).applyHeld id peer n
            | none => s)
        | .wait => s
        | .poisoned => s.setSession { x with heldFrames := x.heldFrames.filter (fun g => g.seq != f.seq) }

/-- DATA_FRAME (R331, R335, R339, R340, R385). -/
def execDataFrame (f : Frame) (s : State) : Host.Outcome State Fault Refusal :=
  event s (
    if f.kind != 0 then none
    else match s.sessionOf f with
      | none => none
      | some x =>
        if !f.tagOk then some s.badTag
        else
          let s := s.openFrame x f
          match s.session? f.session f.peer with
          | none => some s
          | some x =>
            if f.seq.toNat ≤ x.recvSeq.toNat then some (s.sendPlain x.id x.peer 1)
            else if !f.checkOk then some s
            else
              let s := if x.heldFrames.any (fun g => g.seq == f.seq) then s else s.setSession { x with heldFrames := x.heldFrames ++ [f] }
              some ((s.applyHeld x.id x.peer (x.heldFrames.length + 1)).sendPlain x.id x.peer 1))

/-- A frame that carries an ACK field and no records. -/
def State.plainFrame (s : State) (kind : Nat) (f : Frame) : Option State :=
  if f.kind != kind then none
  else match s.sessionOf f with
    | none => none
    | some x => some (if f.tagOk then s.openFrame x f else s.badTag)

/-- ACKNOWLEDGEMENT (R339). -/
def execAcknowledgement (f : Frame) (s : State) : Host.Outcome State Fault Refusal := event s (s.plainFrame 1 f)

/-- KEEPALIVE_RECEIPT (R335, R338). -/
def execKeepaliveReceipt (f : Frame) (s : State) : Host.Outcome State Fault Refusal := event s (s.plainFrame 2 f)

/-- The shortest DEADLINE, in microseconds, of the windows that use a session with a peer. -/
def State.sessionDeadline (s : State) (x : Session) : Option Nat :=
  (s.refl.windows.filter (fun w => w.session == x.id && (w.dests ++ w.mems).any (fun p => p.1 == x.peer))).foldl (fun a w => match a with
    | some d => some (min d w.deadline)
    | none => some w.deadline) none

/-- KEEPALIVE (R339): a direction that has been idle for DEADLINE / 4 sends one. -/
def execKeepalive (session : Nat) (s : State) : Host.Outcome State Fault Refusal :=
  event s (
    match s.sessionAt session with
    | none => none
    | some x =>
      match s.sessionDeadline x with
      | none => none
      | some d => if x.open_ && x.keyFrames < keyLimit && decide (x.lastSent + 250 * d ≤ s.pkg.time.toNat) then some (s.sendFrame x 2 0 [] []) else none)

/-- A kept frame as it is sent again: with the ACK of now, and without its records where their destination has been lost, for which no capture lands any more (R330). -/
def State.resent (s : State) (x : Session) (k : Frame × Nat × List (Nat × Nat × Nat)) : Frame :=
  { k.1 with ack := x.recvSeq, records := if k.2.2.all s.pathLive then k.1.records else [] }

/-- FRAME_RESEND (R339): a frame unacknowledged for at least 20 µs; it counts as a frame under its key (R340). -/
def execFrameResend (session : Nat) (seq : DWord) (s : State) : Host.Outcome State Fault Refusal :=
  event s (
    match s.sessionAt session with
    | none => none
    | some x =>
      match x.kept.find? (fun k => k.1.seq == seq) with
      | none => none
      | some k =>
        let now := s.pkg.time.toNat
        if !x.open_ || now < k.2.1 + 20000 || keyLimit ≤ x.keyFrames then none
        else
          some ((s.setSession { x with kept := x.kept.map (fun y => if y.1.seq == seq then (y.1, now, y.2.2) else y), keyFrames := x.keyFrames + 1, lastSent := now }).emit x (s.resent x k)))

/-- Sends what the paths of a session have not yet been handed. -/
def State.pumpAll (s : State) : State := s.refl.windows.foldl (fun s w => s.pump w.id) s

/-- A destination whose handshake does not match is lost at once (R335). -/
def State.checkShow (s : State) (p : PeerShow) : State :=
  match s.window? p.window with
  | none => s
  | some w =>
    match (upFrom 0 w.dests.length).find? (fun j => nth (0, 0) w.dests j == (p.peer, p.peerWindow)) with
    | some j => if p.mode != w.mode || p.size != w.size || !p.listsUs then s.setWindow (w.lose false j) else s
    | none => s

/-- May system software set these for a peer: one of the eight ports, a payload from 1472 to 9000 bytes (R337, R395)? -/
def lawfulNet (n : PeerNet) : Bool := decide (n.port < 8) && decide (1472 ≤ n.payload) && decide (n.payload ≤ 9000)

/-- What system software has set for a peer and a session takes its place (R337, R340); settings that are not lawful are not taken. -/
def State.setUp (s : State) (p : PeerShow) : State :=
  match p.setup with
  | some q => s.modRefl (fun r => { r with peers := if lawfulNet q.net then spIns p.peer q.net r.peers else r.peers, keys := spIns p.session q.digests r.keys })
  | none => s

/-- Is an exchange accepted: it verifies, and its key's digest is one that system software has listed for the session (R340)? -/
def State.accepts (s : State) (p : PeerShow) : Bool := p.signed && ((spFind s.refl.keys p.session).getD []).contains p.key

/-- A session with the keys and salts of a fresh exchange, which are free values (R340, log 21). -/
def State.fresh (s : State) (x : Session) : Session :=
  { x with open_ := true, asked := false, keyFrames := 0, keyGen := x.keyGen + 1, txSalt := Config.freeWord (4096 * s.ctl.draws + 4091), rxSalt := Config.freeWord (4096 * s.ctl.draws + 4090) }

/-- A session that no exchange has opened yet. -/
def Session.new (id peer now : Nat) : Session :=
  { id := id, peer := peer, open_ := false, nextSeq := 1, recvSeq := 0, kept := [], heldFrames := [], keyFrames := 0, asked := false, keyGen := 0, txSalt := 0, rxSalt := 0, lastSent := now }

/-- The handshake frame of a session (R338). -/
def Session.hello (x : Session) : Frame :=
  { session := x.id, peer := x.peer, kind := 3, path := 0, seq := x.nextSeq, ack := x.recvSeq, tagOk := true, checkOk := true, records := [] }

/-- A session sends its part of an exchange, unless it has (R338, R340). -/
def State.ask (s : State) (x : Session) : State := if x.asked then s else s.emit x x.hello

/-- HANDSHAKE (R340, R335): one that is accepted gives the session new keys, of which this package has sent or now sends its own part; one that fails leaves the peer silent. -/
def execHandshake (p : PeerShow) (s : State) : Host.Outcome State Fault Refusal :=
  event s (
    let s := s.setUp p
    if !s.accepts p || !s.portUp p.peer then (if p.setup.isSome then some s else none)
    else
      let s := s.hear p.peer
      let s := match s.session? p.session p.peer with
        | some x => (s.setSession (s.fresh x)).ask x
        | none =>
          let x := Session.new p.session p.peer s.pkg.time.toNat
          (s.modRefl (fun r => { r with sessions := r.sessions ++ [s.fresh x] })).ask x
      some (s.checkShow p).pumpAll)

/-- REKEY (R340): before the key's 2^31-th frame this package begins a fresh exchange; the peer's part is a HANDSHAKE, which gives the new keys where it is accepted. Until then nothing more is sent under the old key, and a peer that does not answer falls silent (R335). -/
def execRekey (session : Nat) (s : State) : Host.Outcome State Fault Refusal :=
  event s (
    match s.sessionAt session with
    | none => none
    | some x => if x.open_ && keyLimit ≤ x.keyFrames && !x.asked then some ((s.setSession { x with asked := true }).ask x) else none)

/-- Is a peer of the own package there: the window that its entry names is mapped, and, of a member, has a path to this window that is live (R335, R398)? -/
def State.ownThere (s : State) (win : Nat) (member : Bool) (p : Nat × Nat) : Bool :=
  p.1 == s.pkg.pkgid && (match s.window? p.2 with
    | some v => !member || (v.dests.zip v.paths).any (fun x => x.1 == (s.pkg.pkgid, win) && x.2.live)
    | none => false)

/-- PEER_LOST (R335): DEADLINE µs of silence. -/
def execPeerLost (win : Nat) (member : Bool) (idx : Nat) (s : State) : Host.Outcome State Fault Refusal :=
  event s (
    match s.window? win with
    | none => none
    | some w =>
      let p := if member then w.mems[idx]? else w.dests[idx]?
      let st := if member then (w.members[idx]?).map (fun m => (m.live, m.heard)) else (w.paths[idx]?).map (fun m => (m.live, m.heard))
      match p, st with
      | some p, some (live, heard) => if live && !s.ownThere win member p && decide (heard + 1000 * w.deadline ≤ s.pkg.time.toNat) then some (s.setWindow (w.lose member idx)) else none
      | _, _ => none)

end Sys2Proof.Machine
end

