-- ==== Sys2Proof/Machine/Package.lean ====
section
/-! DEFINITION. Die links, host and Ethernet ports, attestation, freeze, idle cores, reset, and unassigned opcodes (R19, R386, R388, R390 to R395, R399 to R404, R439). -/

namespace Sys2Proof.Machine

/-! ### Die links (R390 to R393) -/

/-- The flit leaves the sender: what is to be sent again goes first, oldest first; else the next number goes out with the oldest load that waits, or with traffic that the model keeps elsewhere, and enters the replay buffer (R391, R562). -/
def LinkDir.send (x : LinkDir) (seq : Nat) : Option LinkDir :=
  match x.again with
  | n :: r => if seq = n then some { x with again := r } else none
  | [] =>
    if seq = x.txSeq && x.replay.length < 128 then
      some { x with txSeq := (x.txSeq + 1) % 1024, queue := x.queue.drop 1, replay := x.replay ++ [(seq, (x.queue.head?).getD .other)] }
    else none

/-- Does the receiver accept a flit whose CRC passes: it is the next in order, and none has failed since the last resending (R391)? -/
def LinkDir.accepts (x : LinkDir) (seq : Nat) : Bool := x.naks == [] && seq == (x.rxSeq + 1) % 1024

/-- The receiver's side for a flit whose CRC passes: one that it accepts is delivered and acknowledged, every other is dropped (R391). -/
def LinkDir.take (x : LinkDir) (seq : Nat) : LinkDir :=
  if x.accepts seq then { x with rxSeq := seq, delivered := x.delivered ++ [seq], replay := x.replay.filter (fun f => f.1 != seq) } else x

/-- What the receiver hands on of a flit whose CRC passes. -/
def LinkDir.taken (x : LinkDir) (seq : Nat) : List FlitLoad := if x.accepts seq then (x.replay.filter (fun f => f.1 == seq)).map (·.2) else []

/-- The receiver's side for a flit whose CRC fails: a negative acknowledgement that names the last good number, unless one is on its way (R391). -/
def LinkDir.reject (x : LinkDir) : LinkDir := { x with naks := if x.naks == [] then [x.rxSeq] else x.naks }

/-- The sender's side of a resending: every flit still unacknowledged, oldest first (R391, R562). -/
def LinkDir.resend (x : LinkDir) : LinkDir := { x with naks := [], again := x.replay.map (·.1) }

/-- The flits of the replay buffer delivered and nothing left to send, as the module goes down (R393). -/
def LinkDir.emptied (x : LinkDir) : LinkDir :=
  { x with queue := [], delivered := x.delivered ++ x.replay.map (·.1), rxSeq := ((x.replay.getLast?).map (·.1)).getD x.rxSeq, replay := [], again := [], naks := [] }

/-- Hands on what a direction of an edge has delivered. -/
def State.handOn (s : State) (edge : Nat) (back : Bool) (l : List FlitLoad) : State := l.foldl (fun s f => s.forward f (f.after (edge, back))) s

/-- FLIT_RECEIVE (R391): a flit of one direction of a module reaches its receiver. A CRC failure is counted and raises vector 3 (R562). -/
def execFlitReceive (link module seq : Nat) (crcOk : Bool) (s : State) : Host.Outcome State Fault Refusal :=
  event s (
    let edge := linkEdge link
    let back := linkBack link
    let x := s.link edge module
    if !modOk edge module || 1024 ≤ seq || x.down || x.mustTrain then none
    else match (x.dir back).send seq with
      | none => none
      | some d =>
        let now := s.pkg.time.toNat
        if crcOk then some ((s.setLink edge module (x.setDir back (d.take seq))).handOn edge back (d.taken seq))
        else
          let y := x.setDir back d.reject
          some ((s.setLink edge module { y with crcTimes := (x.crcTimes.filter (fun t => decide (now ≤ t + 1000))) ++ [now], crcFails := x.crcFails + 1 }).raise 3))

/-- FLIT_REPLAY (R391): the negative acknowledgement reaches the sender of its direction, which resends from the flit after the last good one. The replay is counted and raises vector 3 (R562). -/
def execFlitReplay (link module lastGood : Nat) (s : State) : Host.Outcome State Fault Refusal :=
  event s (
    let edge := linkEdge link
    let back := linkBack link
    let x := s.link edge module
    let d := x.dir back
    if modOk edge module && d.naks.head? == some lastGood && !x.down && !x.mustTrain then
      let y := x.setDir back d.resend
      some ((s.setLink edge module { y with replays := x.replays + 1 }).raise 3)
    else none)

/-- A module after a retrain: at the width found, on the lanes that passed, each direction's numbers and replay buffer unchanged, and what is unacknowledged to be sent again (R562); or down, with nothing left in its replay buffers (R393). -/
def LinkMod.retrained (x : LinkMod) (found : TrainResult) : LinkMod :=
  let y := { x with crcTimes := [], retrains := x.retrains + 1 }
  let z := { y with there := x.there.resend, back := x.back.resend }
  match found with
  | .full => { z with width := 64, high := false }
  | .halfLow => { z with width := 32, high := false }
  | .halfHigh => { z with width := 32, high := true }
  | .down => { y with down := true, width := 0, there := x.there.emptied, back := x.back.emptied }

/-- The loads of a module that has gone down: those of its replay buffers are delivered, those that wait move to the other modules of the edge (R393). -/
def State.moveLoads (s : State) (edge : Nat) (x : LinkMod) : State :=
  [false, true].foldl (fun s back =>
    let d := x.dir back
    d.queue.foldl (fun s l => s.toModule (edge, back) l) (s.handOn edge back (d.replay.map (·.2)))) s

/-- The teams with a queued store or atomic that can no longer be delivered (R393). -/
def State.cutOff (s : State) : List Nat :=
  (s.cores.flatMap (fun (c : Nat × Core) => (c.2.sq.filter (fun (e : SqEntry) => s.entryCut c.1 e)).map (fun e => e.t))).eraseDups

/-- RETRAIN (R393), after eight CRC failures or on the sideband's report of a lane fault: the width it finds, or the module is down, once the flits in its replay buffer are delivered. -/
def execRetrain (edge module : Nat) (found : TrainResult) (s : State) : Host.Outcome State Fault Refusal :=
  event s (
    let x := s.link edge module
    if !modOk edge module || x.down then none
    else
      let s := ((s.setLink edge module (x.retrained found)).modErrs (fun e => { e with retrains := e.retrains + 1 })).raise 3
      let s := if found == .down then s.moveLoads edge x else s
      some (if found == .down && s.edgeDown edge then s.cutOff.foldl (fun s t => s.killTeam t 0x50) s else s))

/-! ### Ports (R386, R395) -/

/-- The lanes at which a host port runs: 16, unless its link has trained to another width (R386). -/
def State.portLanes (s : State) (port : Nat) : Nat := (spFind s.pkg.ports port).getD 16

/-- HOST_LINK_TRAINING (R386). -/
def execHostLinkTraining (port width : Nat) (s : State) : Host.Outcome State Fault Refusal :=
  event s (if port < 2 && [16, 8, 4, 2, 1].contains width then some (s.modPkg (fun p => { p with ports := spIns port width p.ports })) else none)

/-- ETHERNET_FRAME (R395): ARP, neighbour discovery and ICMP echo are answered, every other frame is dropped and counted; nothing comes through a port that is down. -/
def execEthernetFrame (port : Nat) (kind : EthKind) (s : State) : Host.Outcome State Fault Refusal :=
  event s (
    if 8 ≤ port || s.pkg.ethDown.contains port then none
    else if kind == .other then some (s.modErrs (fun e => { e with ethDropped := e.ethDropped + 1 }))
    else some (s.modPkg (fun p => { p with ethOut := p.ethOut ++ [(port, kind)] })))

/-! ### Attestation and freeze (R400, R402) -/

/-- The first 588 bytes of an attestation report (R402). -/
def State.reportBody (s : State) (nonce : BitVec 256) : List Byte :=
  natBytes 4 1 ++ natBytes 4 s.pkg.meas.length ++ bytesOf nonce ++ bytesOf Config.serial ++ s.pkg.meas.flatMap bytesOf ++
  List.replicate (64 * (8 - s.pkg.meas.length)) 0 ++ natBytes 4 s.pkg.svn

/-- ATTESTATION_REQUEST (R402): the signed report in the mailbox, and vector 2. A package that is held in reset answers with the report of its failure (R401), whose bytes no rule gives (log 54). -/
def execAttestationRequest (nonce : BitVec 256) (s : State) : Host.Outcome State Fault Refusal :=
  if s.pkg.power == .refused then .next ((s.modPkg (fun p => { p with mailbox := Config.bootFailure s.ctl.draws })).modCtl (fun c => { c with draws := c.draws + 1 }))
  else event s (
    let body := s.reportBody nonce
    some ((s.modPkg (fun p => { p with mailbox := body ++ bytesOf (Config.signature body) })).raise 2))

/-- FREEZE (R400): every clock stops, where the debug policy allows it. -/
def execFreeze (s : State) : Host.Outcome State Fault Refusal := event s (if s.pkg.debugOn then some (s.modPkg (fun p => { p with frozen := true })) else none)

/-! ### Idle cores and reset (R19, R401, R403, R404) -/

/-- Does a message lie in a frame of a team core, or wait for it in the overflow area (R312 to R314)? -/
def Team.messageFor (T : Team) (j : Nat) : Bool :=
  T.groups.any (fun G => match G.place with
    | .message h => (match h.at_ with
      | .frame i _ => i == j
      | .overflow (some b) _ _ => (spGet { base := 0, lines := 0, cores := [] } T.beds b).cores.contains j
      | .overflow none dest _ => dest == j)
    | _ => false)

/-- CLOCK_GATED_IDLE (R403): a core with no share, no arrival frame in use and no waiting message. -/
def execClockGatedIdle (core : Nat) (s : State) : Host.Outcome State Fault Refusal :=
  event s (
    if 512 ≤ core || (s.core core).gated || s.teams.any (fun T => T.shares.zipIdx.any (fun x => x.1.core == core && (!x.1.retired || T.messageFor x.2))) then none
    else some (s.modCore core (fun k => { k with gated := true })))

/-- Does the boot ROM accept the images: there is one, each signature verifies, no security version is below the fused minimum (R401)? -/
def bootOk (svn : Nat) (images : List Image) : Bool := images != [] && images.all (fun x => x.sigOk && decide (svn ≤ x.svn))

/-- POWER_ON_RESET (R401, R404): everything at its reset value, with the images of the flash; then the package is up, under the debug policy of the images (R400, log 54), or held in reset, with the failure in its mailbox. What is fused into the part, and the requests of the outside world, stay. -/
def execPowerOnReset (images : List Image) (s : State) : Host.Outcome State Fault Refusal :=
  let r := State.reset
  let p : Pkg := { r.pkg with flash := images, svn := s.pkg.svn, debugOn := false }
  let up : Pkg := if bootOk s.pkg.svn images then { p with power := .on, bars := true, meas := (images.take 8).map (·.meas), debugOn := images.all (·.debug) }
    else { p with power := .refused, mailbox := Config.bootFailure s.ctl.draws }
  .next { r with ctl := { r.ctl with draws := s.ctl.draws + 1, inputs := s.ctl.inputs, settings := s.ctl.settings }, pkg := up }

/-! ### What system software sets, and host reads (R388, R389, R395, R398) -/

/-- A host read of the page aperture: the bytes of the frame bound to the slot, as a poisoned completion where a check word mismatches (R398, R399); a slot that is bound to no frame returns nothing (log 21). -/
def State.readAperture (s : State) (slot off len : Nat) : State :=
  if !s.pkg.bars || 65536 < off + len then s
  else match spFind s.mmp.slots slot with
    | none => s
    | some x =>
      let ps := (upFrom off len).map (framePlace x.die x.frame true).add
      let ls := ps.map PAddr.line
      let bad := s.mem.poisoned ls
      (s.scrub ls).modPkg (fun p => { p with hostReads := p.hostReads ++ [(ps.map s.mem.byte, bad)] })

/-- What a setting does: the port that raises a vector (R388), the ring of the page requests (R389), an Ethernet port up or down (R395), a host read (R398). -/
def State.applySetting (s : State) : Setting → State
  | .vectorPort vec port => if vec < 4 && port < 2 then s.modPkg (fun p => { p with vecPort := spIns vec port p.vecPort }) else s
  | .pageRing addr => s.modMmp (fun m => { m with ring := some addr })
  | .ethernetPort port up => if port < 8 then s.modPkg (fun p => { p with ethDown := p.ethDown.filter (· != port) ++ (if up then [] else [port]) }) else s
  | .apertureRead slot off len => s.readAperture slot off len

/-- The next setting of the outside world, taken from its list. -/
def State.nextSetting (s : State) : State :=
  match s.ctl.settings with
  | [] => s
  | x :: r => ((s.modCtl (fun c => { c with settings := r })).applySetting x).tick

/-! ### Unassigned opcodes (R439) -/

/-- UNASSIGNED_OPCODE (R439): cause 0x01 in the party that issues the word, with nothing performed. -/
def execUnassignedOpcode (_w : InstrWord) (s : State) : Host.Outcome State Fault Refusal :=
  match s.ctl.actor with
  | some (.group t g) =>
    (match (s.team? t).bind (fun T => T.group? g) with
      | some G =>
        (match G.run with
          | some r => .next (s.takeTrap t g { cause := 0x01 } r.act (G.lane ((lowestLane r.act).getD 0)).pc).tick
          | none => .fault .noParty)
      | none => .fault .noParty)
  | some (.seq t j) => .next (s.seqTrap t j 0x01).tick
  | some (.thread a b) => .next (s.failThread a b 0x01).tick
  | none => .fault .noParty

end Sys2Proof.Machine
end

