-- ==== Sys2Proof/Machine/Dispatch.lean ====
section
/-! DEFINITION. One arm per instruction and event: which meaning it has. -/

namespace Sys2Proof.Machine

/-- The effect of an instruction word that the party at turn issues, or of an event. -/
def exec (i : Instr) (s : State) : Host.Outcome State Fault Refusal :=
  match i with
  | .nop runEnd => Sys2Proof.Machine.execNop runEnd s
  | .bra w => Sys2Proof.Machine.execBra w s
  | .jmp w => Sys2Proof.Machine.execJmp w s
  | .call w => Sys2Proof.Machine.execCall w s
  | .callReg w => Sys2Proof.Machine.execCallReg w s
  | .ret w => Sys2Proof.Machine.execRet w s
  | .exit w => Sys2Proof.Machine.execExit w s
  | .trap w => Sys2Proof.Machine.execTrap w s
  | .brk w => Sys2Proof.Machine.execBrk w s
  | .join w => Sys2Proof.Machine.execJoin w s
  | .leave w => Sys2Proof.Machine.execLeave w s
  | .wait w => Sys2Proof.Machine.execWait w s
  | .meet w => Sys2Proof.Machine.execMeet w s
  | .meetReg w => Sys2Proof.Machine.execMeetReg w s
  | .meetClr w => Sys2Proof.Machine.execMeetClr w s
  | .mskopMov w => Sys2Proof.Machine.execMskopMov w s
  | .mskopAnd w => Sys2Proof.Machine.execMskopAnd w s
  | .mskopOr w => Sys2Proof.Machine.execMskopOr w s
  | .mskopXor w => Sys2Proof.Machine.execMskopXor w s
  | .mskopAndn w => Sys2Proof.Machine.execMskopAndn w s
  | .mskopRd w => Sys2Proof.Machine.execMskopRd w s
  | .graft w => Sys2Proof.Machine.execGraft w s
  | .graftReg w => Sys2Proof.Machine.execGraftReg w s
  | .migr w => Sys2Proof.Machine.execMigr w s
  | .iadd w => Sys2Proof.Machine.execIadd w s
  | .isub w => Sys2Proof.Machine.execIsub w s
  | .imul w => Sys2Proof.Machine.execImul w s
  | .imad w => Sys2Proof.Machine.execImad w s
  | .imin w => Sys2Proof.Machine.execImin w s
  | .imax w => Sys2Proof.Machine.execImax w s
  | .iabs w => Sys2Proof.Machine.execIabs w s
  | .icmp w => Sys2Proof.Machine.execIcmp w s
  | .and w => Sys2Proof.Machine.execAnd w s
  | .or w => Sys2Proof.Machine.execOr w s
  | .xor w => Sys2Proof.Machine.execXor w s
  | .shl w => Sys2Proof.Machine.execShl w s
  | .shr w => Sys2Proof.Machine.execShr w s
  | .shrA w => Sys2Proof.Machine.execShrA w s
  | .bfe w => Sys2Proof.Machine.execBfe w s
  | .bfi w => Sys2Proof.Machine.execBfi w s
  | .popc w => Sys2Proof.Machine.execPopc w s
  | .clz w => Sys2Proof.Machine.execClz w s
  | .brev w => Sys2Proof.Machine.execBrev w s
  | .mov w => Sys2Proof.Machine.execMov w s
  | .movi w => Sys2Proof.Machine.execMovi w s
  | .sel w => Sys2Proof.Machine.execSel w s
  | .addr w => Sys2Proof.Machine.execAddr w s
  | .plop w => Sys2Proof.Machine.execPlop w s
  | .fadd w => Sys2Proof.Machine.execFadd w s
  | .fmul w => Sys2Proof.Machine.execFmul w s
  | .fma w => Sys2Proof.Machine.execFma w s
  | .fmin w => Sys2Proof.Machine.execFmin w s
  | .fmax w => Sys2Proof.Machine.execFmax w s
  | .fcmp w => Sys2Proof.Machine.execFcmp w s
  | .fclass w => Sys2Proof.Machine.execFclass w s
  | .frcp w => Sys2Proof.Machine.execFrcp w s
  | .frsq w => Sys2Proof.Machine.execFrsq w s
  | .fsqrt w => Sys2Proof.Machine.execFsqrt w s
  | .fexp w => Sys2Proof.Machine.execFexp w s
  | .flog w => Sys2Proof.Machine.execFlog w s
  | .ftanh w => Sys2Proof.Machine.execFtanh w s
  | .cvt w => Sys2Proof.Machine.execCvt w s
  | .pack w => Sys2Proof.Machine.execPack w s
  | .unpk w => Sys2Proof.Machine.execUnpk w s
  | .shfl w => Sys2Proof.Machine.execShfl w s
  | .vote w => Sys2Proof.Machine.execVote w s
  | .redx w => Sys2Proof.Machine.execRedx w s
  | .prfx w => Sys2Proof.Machine.execPrfx w s
  | .matchLanes w => Sys2Proof.Machine.execMatchLanes w s
  | .ld w => Sys2Proof.Machine.execLd w s
  | .ldv w => Sys2Proof.Machine.execLdv w s
  | .ldt w => Sys2Proof.Machine.execLdt w s
  | .st w => Sys2Proof.Machine.execSt w s
  | .stt w => Sys2Proof.Machine.execStt w s
  | .swld w => Sys2Proof.Machine.execSwld w s
  | .swldRaw w => Sys2Proof.Machine.execSwldRaw w s
  | .atomAdd w => Sys2Proof.Machine.execAtomAdd w s
  | .atomMin w => Sys2Proof.Machine.execAtomMin w s
  | .atomMax w => Sys2Proof.Machine.execAtomMax w s
  | .atomAnd w => Sys2Proof.Machine.execAtomAnd w s
  | .atomOr w => Sys2Proof.Machine.execAtomOr w s
  | .atomXor w => Sys2Proof.Machine.execAtomXor w s
  | .atomExch w => Sys2Proof.Machine.execAtomExch w s
  | .atomf w => Sys2Proof.Machine.execAtomf w s
  | .acas w => Sys2Proof.Machine.execAcas w s
  | .red w => Sys2Proof.Machine.execRed w s
  | .swadd w => Sys2Proof.Machine.execSwadd w s
  | .enq w => Sys2Proof.Machine.execEnq w s
  | .deq w => Sys2Proof.Machine.execDeq w s
  | .fence w => Sys2Proof.Machine.execFence w s
  | .rfence w => Sys2Proof.Machine.execRfence w s
  | .cwait w => Sys2Proof.Machine.execCwait w s
  | .wcnt w => Sys2Proof.Machine.execWcnt w s
  | .bar w => Sys2Proof.Machine.execBar w s
  | .stgwaitEmpty w => Sys2Proof.Machine.execStgwaitEmpty w s
  | .stgwaitFull w => Sys2Proof.Machine.execStgwaitFull w s
  | .stgfree w => Sys2Proof.Machine.execStgfree w s
  | .lset w => Sys2Proof.Machine.execLset w s
  | .lmode w => Sys2Proof.Machine.execLmode w s
  | .lchain w => Sys2Proof.Machine.execLchain w s
  | .lpart w => Sys2Proof.Machine.execLpart w s
  | .ltrans w => Sys2Proof.Machine.execLtrans w s
  | .lflat w => Sys2Proof.Machine.execLflat w s
  | .lflatAll w => Sys2Proof.Machine.execLflatAll w s
  | .lswz w => Sys2Proof.Machine.execLswz w s
  | .lchk w => Sys2Proof.Machine.execLchk w s
  | .lbcd w => Sys2Proof.Machine.execLbcd w s
  | .lget w => Sys2Proof.Machine.execLget w s
  | .hbind w => Sys2Proof.Machine.execHbind w s
  | .hflush w => Sys2Proof.Machine.execHflush w s
  | .hinfo w => Sys2Proof.Machine.execHinfo w s
  | .obres w => Sys2Proof.Machine.execObres w s
  | .obrel w => Sys2Proof.Machine.execObrel w s
  | .cpy w => Sys2Proof.Machine.execCpy w s
  | .cpygGth w => Sys2Proof.Machine.execCpygGth w s
  | .cpygSct w => Sys2Proof.Machine.execCpygSct w s
  | .cpyz w => Sys2Proof.Machine.execCpyz w s
  | .cpyf w => Sys2Proof.Machine.execCpyf w s
  | .copyStart core => Sys2Proof.Machine.execCopyStart core s
  | .copyCompletion core => Sys2Proof.Machine.execCopyCompletion core s
  | .mma w => Sys2Proof.Machine.execMma w s
  | .mmab w => Sys2Proof.Machine.execMmab w s
  | .mmat w => Sys2Proof.Machine.execMmat w s
  | .aclr w => Sys2Proof.Machine.execAclr w s
  | .adrn w => Sys2Proof.Machine.execAdrn w s
  | .matrixInstructionStart t j drain => Sys2Proof.Machine.execMatrixInstructionStart t j drain s
  | .matrixCommit t j => Sys2Proof.Machine.execMatrixCommit t j s
  | .adrnCompletion t j => Sys2Proof.Machine.execAdrnCompletion t j s
  | .axfrRd w => Sys2Proof.Machine.execAxfrRd w s
  | .axfrWr w => Sys2Proof.Machine.execAxfrWr w s
  | .mloop w => Sys2Proof.Machine.execMloop w s
  | .mjmp w => Sys2Proof.Machine.execMjmp w s
  | .mend w => Sys2Proof.Machine.execMend w s
  | .tlaunch w => Sys2Proof.Machine.execTlaunch w s
  | .tdec w => Sys2Proof.Machine.execTdec w s
  | .stepadv w => Sys2Proof.Machine.execStepadv w s
  | .steprd w => Sys2Proof.Machine.execSteprd w s
  | .swfold w => Sys2Proof.Machine.execSwfold w s
  | .swmrg w => Sys2Proof.Machine.execSwmrg w s
  | .nmld w => Sys2Proof.Machine.execNmld w s
  | .nmst w => Sys2Proof.Machine.execNmst w s
  | .nmlog w => Sys2Proof.Machine.execNmlog w s
  | .nmcommit w => Sys2Proof.Machine.execNmcommit w s
  | .nmabort w => Sys2Proof.Machine.execNmabort w s
  | .sysrd w => Sys2Proof.Machine.execSysrd w s
  | .syswr w => Sys2Proof.Machine.execSyswr w s
  | .syswrGstep w => Sys2Proof.Machine.execSyswrGstep w s
  | .syswrFactbase w => Sys2Proof.Machine.execSyswrFactbase w s
  | .syswrRecbase w => Sys2Proof.Machine.execSyswrRecbase w s
  | .syswrTrapvec w => Sys2Proof.Machine.execSyswrTrapvec w s
  | .syswrTrnxAsat w => Sys2Proof.Machine.execSyswrTrnxAsat w s
  | .syswrArr w => Sys2Proof.Machine.execSyswrArr w s
  | .tret w => Sys2Proof.Machine.execTret w s
  | .runIssue t g => Sys2Proof.Machine.execRunIssue t g s
  | .groupResume t g => Sys2Proof.Machine.execGroupResume t g s
  | .operandLogReplay t g => Sys2Proof.Machine.execOperandLogReplay t g s
  | .residencyFaultService die idx => Sys2Proof.Machine.execResidencyFaultService die idx s
  | .pageMove asn va die => Sys2Proof.Machine.execPageMove asn va die s
  | .hostPageDeadline slot => Sys2Proof.Machine.execHostPageDeadline slot s
  | .pageResponse slot resp => Sys2Proof.Machine.execPageResponse slot resp s
  | .apertureWrite slot off data => Sys2Proof.Machine.execApertureWrite slot off data s
  | .recordFill core asn addr => Sys2Proof.Machine.execRecordFill core asn addr s
  | .storePerform core idx => Sys2Proof.Machine.execStorePerform core idx s
  | .atomicServiceRequest cluster => Sys2Proof.Machine.execAtomicServiceRequest cluster s
  | .dataFrame f => Sys2Proof.Machine.execDataFrame f s
  | .acknowledgement f => Sys2Proof.Machine.execAcknowledgement f s
  | .keepalive session => Sys2Proof.Machine.execKeepalive session s
  | .frameResend session seq => Sys2Proof.Machine.execFrameResend session seq s
  | .handshake p => Sys2Proof.Machine.execHandshake p s
  | .rekey session => Sys2Proof.Machine.execRekey session s
  | .peerLost win member idx => Sys2Proof.Machine.execPeerLost win member idx s
  | .cwaitTimeout t g => Sys2Proof.Machine.execCwaitTimeout t g s
  | .ethernetFrame port kind => Sys2Proof.Machine.execEthernetFrame port kind s
  | .windowMap die entry => Sys2Proof.Machine.execWindowMap die entry s
  | .windowUnmap win => Sys2Proof.Machine.execWindowUnmap win s
  | .bindWindowCounter win sel n task => Sys2Proof.Machine.execBindWindowCounter win sel n task s
  | .registerStampedRegion asn base len => Sys2Proof.Machine.execRegisterStampedRegion asn base len s
  | .registerLoggedRegion die asn base len => Sys2Proof.Machine.execRegisterLoggedRegion die asn base len s
  | .undoAreaSize slice size => Sys2Proof.Machine.execUndoAreaSize slice size s
  | .pruneSweep slice => Sys2Proof.Machine.execPruneSweep slice s
  | .addCutting t bed core => Sys2Proof.Machine.execAddCutting t bed core s
  | .messageInstallation t j => Sys2Proof.Machine.execMessageInstallation t j s
  | .queueDescriptorWrite q desc => Sys2Proof.Machine.execQueueDescriptorWrite q desc s
  | .doorbell port q count => Sys2Proof.Machine.execDoorbell port q count s
  | .admission q => Sys2Proof.Machine.execAdmission q s
  | .taskDecrement => Sys2Proof.Machine.execTaskDecrement s
  | .placement task => Sys2Proof.Machine.execPlacement task s
  | .gangAging task => Sys2Proof.Machine.execGangAging task s
  | .transformBinding t j => Sys2Proof.Machine.execTransformBinding t j s
  | .teamStart t => Sys2Proof.Machine.execTeamStart t s
  | .groupRetire t g => Sys2Proof.Machine.execGroupRetire t g s
  | .shareRetire t j => Sys2Proof.Machine.execShareRetire t j s
  | .taskCompletion task => Sys2Proof.Machine.execTaskCompletion task s
  | .taskKill task => Sys2Proof.Machine.execTaskKill task s
  | .kill t cause => Sys2Proof.Machine.execKill t cause s
  | .preemptionRequest victims => Sys2Proof.Machine.execPreemptionRequest victims s
  | .contextSave t => Sys2Proof.Machine.execContextSave t s
  | .contextRestore idx => Sys2Proof.Machine.execContextRestore idx s
  | .asyncCauseDelivery t g => Sys2Proof.Machine.execAsyncCauseDelivery t g s
  | .matrixEngineReset core => Sys2Proof.Machine.execMatrixEngineReset core s
  | .flitReceive link module seq crcOk => Sys2Proof.Machine.execFlitReceive link module seq crcOk s
  | .flitReplay link module lastGood => Sys2Proof.Machine.execFlitReplay link module lastGood s
  | .retrain edge module found => Sys2Proof.Machine.execRetrain edge module found s
  | .attestationRequest nonce => Sys2Proof.Machine.execAttestationRequest nonce s
  | .freeze => Sys2Proof.Machine.execFreeze s
  | .powerOnReset images => Sys2Proof.Machine.execPowerOnReset images s
  | .clockGatedIdle core => Sys2Proof.Machine.execClockGatedIdle core s
  | .keepaliveReceipt f => Sys2Proof.Machine.execKeepaliveReceipt f s
  | .loopbackLanding win dest => Sys2Proof.Machine.execLoopbackLanding win dest s
  | .counterCopyUpdate die win => Sys2Proof.Machine.execCounterCopyUpdate die win s
  | .sweepCompletion => Sys2Proof.Machine.execSweepCompletion s
  | .instructionLineFetch t g => Sys2Proof.Machine.execInstructionLineFetch t g s
  | .bindingRemoval idx => Sys2Proof.Machine.execBindingRemoval idx s
  | .overflowAreaReclaim t bytes => Sys2Proof.Machine.execOverflowAreaReclaim t bytes s
  | .hostLinkTraining port width => Sys2Proof.Machine.execHostLinkTraining port width s
  | .unassignedOpcode w => Sys2Proof.Machine.execUnassignedOpcode w s

end Sys2Proof.Machine
end

