-- ==== Sys2Proof/Machine/Moves.lean ====
section
/-! DEFINITION. What may happen next: the events of the machine that some part of the state gives rise to, and the parties that issue (R7, R68, R182, R357). -/

namespace Sys2Proof.Machine

/-- What a step may take up: a party's next instruction, the next request or setting of the outside world, or an event of the machine. -/
inductive Move where
  | turn (p : Party)
  | input
  | setting
  | event (i : Instr)
  deriving DecidableEq, Repr

/-- Does a group that is in a run take an asynchronous cause before it issues again: it has one that it can take, and is not between the halves of a pair (R375)? A halt is over first. -/
def State.takesCause (s : State) (G : Group) : Bool :=
  G.causes != [] && !G.inHandler && s.pkg.halt.isNone && G.parks.all Park.isCwait && (match G.run with | some r => !r.second | none => true)

/-- The parties that may issue: groups in a run, unless they take a cause first (R375), sequencers that run outside a halt (R86), and of each slice unit the thread that has waited longest (R359). -/
def State.turns (s : State) : List Party :=
  s.teams.flatMap (fun T =>
    (T.groups.filter (fun G => G.run.isSome && !s.takesCause G)).map (fun G => Party.group T.id G.gid) ++
    (if s.pkg.halt.isSome || T.phase != .running then [] else (T.shares.zipIdx.filter (fun x => x.1.seq.st == .running)).map (fun x => Party.seq T.id x.2))) ++
  (s.threads.filter (fun th => s.threads.all (fun u => u.slice != th.slice || decide (u.waited ≤ th.waited)))).map (fun th => .thread th.slice th.num)

/-- Must a request of the outside world wait: a page with accesses under way (R239, R240), or a halt that is not over (R86)? -/
def State.awaits (s : State) : Instr → Bool
  | .pageMove asn va _ => s.moveWaits asn va
  | .windowMap die entry => match s.mapFinds die entry with | some x => s.pagesBusy x.2.1 | none => false
  | .windowUnmap win => match s.window? win with | some w => s.pagesBusy (s.windowPages w) | none => false
  | .registerLoggedRegion _ asn base len => match s.regionPages asn base len with | some ps => s.pagesBusy ps | none => false
  | .preemptionRequest _ => s.pkg.halt.isSome
  | _ => false

/-- Is it a request to an MMP about pages? Those keep their order. -/
def pageRequestOf : Instr → Bool
  | .pageMove _ _ _ | .windowMap _ _ | .windowUnmap _ | .registerStampedRegion _ _ _ | .registerLoggedRegion _ _ _ _ => true
  | _ => false

/-- The first request of a list that need not wait, and the others. -/
def State.nextInput (s : State) (held : Bool) : List Instr → Option (Instr × List Instr)
  | [] => none
  | i :: r =>
    if s.awaits i || (held && pageRequestOf i) then (s.nextInput (held || pageRequestOf i) r).map (fun x => (x.1, i :: x.2)) else some (i, r)

/-- What a package that stands still takes: a reset (R400), and one held in reset also a question to the mailbox (R401). -/
def State.stillTakes (s : State) : Instr → Bool
  | .powerOnReset _ => true
  | .attestationRequest _ => s.pkg.power == .refused && !s.pkg.frozen
  | _ => false

/-- The first request of a list that a package which stands still takes, and the others. -/
def State.stillInput (s : State) : List Instr → Option (Instr × List Instr)
  | [] => none
  | i :: r => if s.stillTakes i then some (i, r) else (s.stillInput r).map (fun x => (x.1, i :: x.2))

/-- The events of a group. -/
def groupEvents (t : Nat) (G : Group) : List Instr :=
  match G.place with
  | .slot _ =>
    [.runIssue t G.gid, .instructionLineFetch t G.gid, .groupRetire t G.gid] ++
    (if G.parks == [] then [] else [.groupResume t G.gid, .cwaitTimeout t G.gid]) ++
    (if G.log == [] then [] else [.operandLogReplay t G.gid]) ++ (if G.causes == [] then [] else [.asyncCauseDelivery t G.gid])
  | _ => []

/-- The events of a share. -/
def shareEvents (t j : Nat) : List Instr :=
  [.messageInstallation t j, .transformBinding t j, .shareRetire t j, .matrixInstructionStart t j false, .matrixInstructionStart t j true, .matrixCommit t j, .adrnCompletion t j]

/-- The events of a team. -/
def teamEvents (T : Team) : List Instr :=
  T.groups.flatMap (groupEvents T.id) ++ (upFrom 0 T.shares.length).flatMap (shareEvents T.id) ++
  [.teamStart T.id, .contextSave T.id] ++ (match T.phase with | .killed c _ => [.kill T.id c] | _ => [])

/-- The events of a core. -/
def coreEvents (c : Nat) (k : Core) : List Instr :=
  (upFrom 0 k.sq.length).map (fun i => .storePerform c i) ++ k.fills.map (fun f => .recordFill c f.asn f.addr) ++ [.copyStart c, .copyCompletion c, .matrixEngineReset c]

/-- The events of the scheduler. -/
def schedEvents (q : Sched) : List Instr :=
  q.queues.map (fun x => .admission x.1) ++ [.taskDecrement] ++ q.tasks.flatMap (fun x => [.placement x.1, .gangAging x.1, .taskCompletion x.1]) ++
  (upFrom 0 q.saved.length).map .contextRestore ++ q.saved.map (fun x => .gangAging (65536 + x.team.id))

/-- The moves of pages that have begun. -/
def State.moveEvents (s : State) : List Instr :=
  if s.mem.held == [] then []
  else s.mmp.frames.flatMap (fun f => if s.heldAt f.place then (s.mmp.frames.filter (fun g => g.asn == f.asn && g.page == f.page && g.sram == f.sram && g.place != f.place)).map (fun g => .pageMove f.asn (f.va 0) g.die) else [])

/-- The events of the MMPs. -/
def State.mmpEvents (s : State) : List Instr :=
  s.mmp.faults.flatMap (fun (d : Nat × List FaultEntry) => (upFrom 0 d.2.length).map (fun i => .residencyFaultService d.1 i)) ++ s.mmp.slots.map (fun x => .hostPageDeadline x.1) ++ s.moveEvents

/-- The events of a window. -/
def windowEvents (w : Window) : List Instr :=
  (upFrom 0 8).map (fun d => .counterCopyUpdate d w.id) ++ (upFrom 0 w.dests.length).flatMap (fun j => [.loopbackLanding w.id j, .peerLost w.id false j]) ++
  (upFrom 0 w.mems.length).map (fun m => .peerLost w.id true m)

/-- The events of the sessions. -/
def sessionEvents (l : List Session) : List Instr :=
  l.zipIdx.flatMap (fun x => [.keepalive x.2, .rekey x.2] ++ x.1.kept.map (fun k => .frameResend x.2 k.1.seq))

/-- The events of the prune sweeps. -/
def sweepEvents (l : List (DWord × List (Nat × Nat))) : List Instr :=
  if l == [] then [] else ((l.flatMap (fun x => x.2.map (·.1))).eraseDups).map .pruneSweep ++ [.sweepCompletion]

/-- The events of the die links. -/
def linkEvents (l : List (Nat × LinkMod)) : List Instr :=
  l.flatMap (fun x => [false, true].flatMap (fun back =>
    let d := x.2.dir back
    let link := linkNum (x.1 / 4) back
    d.naks.map (fun n => .flitReplay link (x.1 % 4) n) ++ (match d.again with
      | n :: _ => [.flitReceive link (x.1 % 4) n true]
      | [] => if d.queue == [] then [] else [.flitReceive link (x.1 % 4) d.txSeq true])))

/-- The events that the state may give rise to; those whose condition does not hold do nothing. -/
def State.events (s : State) : List Instr :=
  s.teams.flatMap teamEvents ++ s.cores.flatMap (fun (c : Nat × Core) => coreEvents c.1 c.2) ++ s.pkg.svc.map (fun x => .atomicServiceRequest x.1) ++
  schedEvents s.sched ++ s.mmpEvents ++ s.refl.windows.flatMap windowEvents ++ sessionEvents s.refl.sessions ++ sweepEvents s.pkg.sweeps ++ linkEvents s.links ++
  (upFrom 0 512).map .clockGatedIdle

/-- Everything that a step may take up. -/
def State.moves (s : State) : List Move := s.turns.map Move.turn ++ (if s.ctl.inputs == [] then [] else [.input]) ++ (if s.ctl.settings == [] then [] else [.setting]) ++ s.events.map Move.event

end Sys2Proof.Machine
end

