-- ==== Sys2Proof/Machine/Program.lean ====
section
/-! DEFINITION. A package that runs one given instruction word next: what a loader and a launch would have set up (R33, R34, R227, R406, R407). -/

namespace Sys2Proof.Machine

/-- The address of the word: slot 0 of a line. -/
def wordPc : DWord := 0x10000

/-- The line that holds a word in slot 0 and NOPs in the others: every slot a legal target, no pairs, PARITY as computed. -/
def wordLine (w : InstrWord) : BitVec 512 :=
  let d : BitVec 512 := w.setWidth 512
  let word : Nat := 0x1F + 65536 * lineParity d
  d ||| (BitVec.ofNat 512 word <<< 480)

/-- A leaf or table entry for a frame of die 0: V, HOME, A, D and the bits given. -/
def tableWord (frame bits : Nat) : DWord := BitVec.ofNat 64 (1 + 64 + bits + 65536 * frame)

/-- The page tables that map the page of the word, in frames 1 to 3 of die 0, and the page in frame 4 (R227). -/
def wordTables : List (PAddr × Byte) :=
  let at_ (frame idx : Nat) : PAddr := { store := .sram, unit := 0, off := 65536 * frame + 8 * idx }
  numBytes (at_ 1 0) 8 (tableWord 2 0).toNat ++ numBytes (at_ 2 0) 8 (tableWord 3 0).toNat ++ numBytes (at_ 3 1) 8 (tableWord 4 (2 + 4 + 8 + 16 + 256 + 512)).toNat

/-- The frames that the tables and the page lie in. -/
def wordFrames : List Frame64 := (upFrom 1 4).map (fun n => ⟨0, true, n, true, none, if n = 4 then 0 else 65536, if n = 4 then 1 else 0, 0, false⟩)

/-- Is the opcode one that only a COPY group may issue, only a sequencer, only a slice thread? -/
def copyOnly (op : Nat) : Bool := groupOp .copy op && !groupOp .vector op
def seqOnly (op : Nat) : Bool := seqOp op && !groupOp .vector op && !groupOp .copy op
def threadOnly (op : Nat) : Bool := decide (0xE0 ≤ op) && decide (op ≤ 0xE4)

/-- The launch of the team that issues the word: one core, one group, every flag that the opcode may ask for. -/
def wordLaunch (op : Nat) : Launch :=
  let L := launchOf (List.replicate 128 0)
  let c := copyOnly op
  let v (x : Nat) : Nat := if c then 0 else x
  let k (x : Nat) : Nat := if c then x else 0
  { L with graft := op == 0x0D, migr := true, stepown := true, priv := true, cores := 1, nv := v 1, nc := k 1, vbudV := v 256, vbudS := v 1024, vbudL := v 16,
           cbudV := k 256, cbudS := k 1024, cbudL := k 16, tiles := 4, scratch := 65536, obuf := 65536, code := wordPc, entryM := if seqOnly op then some 0 else none }

/-- The bed of the word's line. -/
def wordBeds : List (Nat × Bed) := [(0, { base := wordPc, lines := 1, cores := [0] })]

/-- A run that has issued nothing, of all lanes. -/
def Run.start : Run := Run.from 0xFFFF

/-- The team that issues the word. -/
def wordTeam (id op : Nat) : Team :=
  let L := wordLaunch op
  let bs := if L.graft then wordBeds else []
  let sh := startShare L bs 0 (0, { quads := [0], scratch := 0, obuf := 0, tiles := [0, 1, 2, 3] })
  let sh := { sh with seq := { sh.seq with st := if seqOnly op then .running else .absent } }
  let G := startGroup L 0 0 0 0 0
  { id := id, task := 0, teamId := 0, asn := 0, die := 0, launch := L, queue := 0, phase := .running,
    groups := [{ G with run := if seqOnly op then none else some Run.start }], shares := [sh], bars := [], stages := [], trapvec := 0, recbase := 0, seq := 0, beds := bs,
    arr := [], ovfBytes := 0, restoredAt := 0, homes := [], areaDie := 0, area := [] }

/-- The slice thread that issues the word. -/
def wordThread : Thread := { slice := 0, num := 0, idx := 0, waited := 0, task := 0, asn := 0, queue := 0, pc := wordPc, v := [], p := [], step := 0 }

/-- The package with a word where its next step fetches it: up, with a team or a slice thread whose turn it is. -/
def State.placeWord (s : State) (w : InstrWord) : State :=
  let op := wordOp w
  let line := wordLine w
  let cells := wordTables ++ (bytesOf line).zipIdx.map (fun b => ({ store := .sram, unit := 0, off := 65536 * 4 + b.2 }, b.1))
  let id := s.ctl.nextTeam
  let s := { s.modPkg (fun p => { p with power := .on, bars := true, frozen := false, halt := none }) with mem := s.mem.store cells }
  let s := s.modMmp (fun m => { m with spaces := { asn := 0, owner := 0, root := 65536, resident := 0, deadline := 0 } :: m.spaces.filter (fun a => a.asn != 0), frames := m.frames ++ wordFrames })
  if threadOnly op then
    let s := s.modCtl (fun c => { c with actor := some (.thread 0 0) })
    { s with threads := wordThread :: s.threads.filter (fun x => !(x.slice == 0 && x.num == 0)) }
  else
    let x : ILine := { asn := 0, addr := wordPc, data := line, bad := false }
    let s := s.modCore 0 (fun k => { k with istore := x :: k.istore.filter (fun y => !(y.asn == 0 && y.addr == wordPc)), gated := false })
    let s := s.modCtl (fun c => { c with actor := some (if seqOnly op then .seq id 0 else .group id 0), nextTeam := id + 1 })
    { s with teams := s.teams ++ [wordTeam id op] }

end Sys2Proof.Machine
end

