-- ==== Sys2Proof/Machine/Step.lean ====
section
/-! DEFINITION. One step of the package. -/

namespace Sys2Proof.Machine

/-- A party's turn: it executes the instruction that it fetches, or takes the cause that its fetch gives. -/
def stepParty (p : Party) (s : State) : Host.Outcome State Fault Refusal :=
  match s.fetch p with
  | .run i s' => exec i { s' with ctl := { s'.ctl with actor := some p } }
  | .moved s' => .next s'.tick
  | .nobody => .next s.tick

/-- The next request of the outside world that need not wait, taken from the list. -/
def stepInput (s : State) : Host.Outcome State Fault Refusal :=
  match s.nextInput false s.ctl.inputs with
  | some (i, r) => exec i { s with ctl := { s.ctl with inputs := r } }
  | none => .next s.tick

/-- What a move does. -/
def stepMove (m : Move) (s : State) : Host.Outcome State Fault Refusal :=
  match m with
  | .turn p => stepParty p s
  | .input => stepInput s
  | .setting => .next s.nextSetting
  | .event i => exec i s

/-- Does a move change more than the passing of a step does? -/
def moveDoes (s : State) (m : Move) : Bool :=
  match stepMove m s with
  | .next s' => s' != s.tick
  | _ => true

/-- A step in which no party has its turn: one of the moves that do something; the order of moves is open (R7). With none, time passes. -/
def stepAny (s : State) : Host.Outcome State Fault Refusal :=
  match s.moves.filter (moveDoes s) with
  | [] => .next s.tick
  | m :: r => stepMove (nth m (m :: r) (Config.pick s.ctl.draws % (r.length + 1))) s

/-- A package that stands still takes a reset; one held in reset answers its mailbox; it does nothing else. -/
def stepReset (f : Fault) (s : State) : Host.Outcome State Fault Refusal :=
  match s.stillInput s.ctl.inputs with
  | some (i, r) => exec i { s with ctl := { s.ctl with inputs := r } }
  | none => .fault f

/-- One step of the package. -/
def step (s : State) : Host.Outcome State Fault Refusal :=
  if s.pkg.frozen then stepReset .frozen s
  else match s.pkg.power with
    | .inReset => exec (.powerOnReset s.pkg.flash) s
    | .refused => stepReset .heldInReset s
    | .on => match s.ctl.actor with
      | some p => stepParty p s
      | none => stepAny s

/-- The state with the instruction word `w` where the next step fetches it; every instruction is one word of 96 bits. -/
def State.withFetchWord (s : State) (_nbits w : Nat) : State := s.placeWord (BitVec.ofNat 96 w)

end Sys2Proof.Machine
end

