-- ==== Sys2Proof/Safety.lean ====
section
/-! DEFINITION. What a safe state of the package is, and the terms in which the statements speak of instructions: when a party issues one with nothing turning it away, and what its registers come to. -/

namespace Sys2Proof.Machine

/-- The memory of the package is in its canonical form. -/
def State.MemOk (s : State) : Prop := s.mem.wf = true

/-- The layouts that a group keeps, in its registers and on their way to them, are well formed (R103). -/
def Group.LayoutsOk (G : Group) : Prop :=
  (∀ y ∈ G.l, layWf y.2 = true) ∧ ∀ r, G.run = some r → ∀ p ∈ r.pend, ∀ n v, p.w = .l n v → layWf v = true

/-- Every layout register of the package's teams, resident or saved, holds a well-formed layout (R103). -/
def State.LayoutsOk (s : State) : Prop :=
  ∀ T, T ∈ s.teams ∨ (∃ x ∈ s.sched.saved, x.team = T) → (∀ G ∈ T.groups, G.LayoutsOk) ∧ ∀ sh ∈ T.shares, ∀ y ∈ sh.seq.l, layWf y.2 = true

/-- A step that goes on. -/
def Steps (s t : State) : Prop := step s = .next t

/-- A run of steps from one state to another. -/
inductive Reaches : State → State → Prop where
  | refl (s : State) : Reaches s s
  | step (s t u : State) (h : Steps s t) (r : Reaches t u) : Reaches s u

/-! ### Issue -/

/-- It is the turn of a group, which issues `i` with what `x` gives, in state `s'` (`s` with the results due written), and nothing turns the instruction away: the checks of R411 and R79 pass, the operand log does not hold it, no halt stops it (R86, R242). -/
structure GroupIssues (i : Instr) (s : State) (x : Ctx) (s' : State) : Prop where
  turn : s.ctl.actor = some (.group x.t x.g)
  ctx : groupCtx x.t x.g i s = some (x, s')
  free : x.turned s' = none

/-- It is the turn of a sequencer, which issues `i` with what `x` gives, and the checks of R182 and R423 pass. -/
structure SeqIssues (i : Instr) (s : State) (x : SeqCtx) : Prop where
  turn : s.ctl.actor = some (.seq x.t x.j)
  ctx : seqCtx x.t x.j i s = some x
  free : seqCheck (formOf i) i = none

/-- It is the turn of a slice thread, which issues `i`, and the checks of R358 pass. -/
structure ThreadIssues (i : Instr) (s : State) (x : ThCtx) : Prop where
  turn : s.ctl.actor = some (.thread x.th.slice x.th.num)
  here : s.thread? x.th.slice x.th.num = some x.th
  ctx : x = { th := x.th, i := i, env := threadEnv s x.th }
  free : threadCheck (formOf i) i = none

/-- A group's instruction is performed: its own changes of the state lead to `s2`, and what follows a performed instruction is made (R68 to R81), with the effect `e` on its registers, lanes and run. -/
def GroupDoes (i : Instr) (s : State) (x : Ctx) (s1 s2 : State) (e : Eff) : Prop := exec i s = .next (x.finish s1 e s2).tick

/-- A sequencer's instruction is performed. -/
def SeqDoes (i : Instr) (s : State) (x : SeqCtx) (s2 : State) (e : Eff) : Prop := exec i s = .next (x.finish s2 e).tick

/-- A slice thread's instruction is performed. -/
def ThreadDoes (i : Instr) (s : State) (x : ThCtx) (s2 : State) (e : Eff) : Prop := exec i s = .next (x.finish s2 e).tick

/-- A group's instruction takes a cause: trap entry, or the kill that R374 states. -/
def GroupTraps (i : Instr) (s : State) (x : Ctx) (s1 : State) (c : Trap) : Prop := exec i s = .next (trapHere x s1 c).tick

/-- A group's instruction is held in its slot, with the changes that lead to `s2`; a halt ends its run there (R71, R86). -/
def GroupHolds (i : Instr) (s : State) (x : Ctx) (s2 : State) : Prop :=
  exec i s = .next (if s2.pkg.halt.isSome then s2.endRun x.t x.g x.c x.run else x.hold s2).tick

/-- An event of the machine happens, and leads to `t`. -/
def Happens (i : Instr) (s t : State) : Prop := exec i s = .next t.tick

/-! ### Registers, with the results on their way -/

/-- The group with every result on its way written, as the end of its run leaves it (R70). -/
def Group.settled (G : Group) : Group :=
  match G.run with
  | some r => G.commitAll r.pend
  | none => G

/-- What a V register of a lane comes to. -/
def Group.vreg (G : Group) (r l : Nat) : Word := spGet 0 (G.settled.lane l).v r

/-- What an S register comes to. -/
def Group.sreg (G : Group) (r : Nat) : Word := spGet 0 G.settled.s r

/-- What a predicate of a lane comes to. -/
def Group.preg (G : Group) (r l : Nat) : Bool := (G.settled.lane l).pred r

/-- What a mask register, a layout register and a handle register come to. -/
def Group.mreg (G : Group) (r : Nat) : Half := spGet 0 G.settled.m r
def Group.lreg (G : Group) (r : Nat) : LayBits := spGet 0 G.settled.l r
def Group.hreg (G : Group) (r : Nat) : Half := spGet 0 G.settled.h r

/-- The registers that a result names. -/
def RegWrite.reg : RegWrite → Option Reg
  | .v r _ _ => some (.v r)
  | .s r _ => some (.s r)
  | .p r _ _ => some (.p r)
  | .m r _ => some (.m r)
  | .l r _ => some (.l r)
  | .h r _ => some (.h r)
  | _ => none

/-! ### Results of instructions -/

/-- Nothing is on its way to a register of a destination, as a run has it when no earlier instruction of the run has written that register with a later cycle (R73). -/
def Ctx.clearFor (x : Ctx) (d : Dst) (wide : Bool) : Prop := ∀ r ∈ dstRegs wide d, ∀ p ∈ x.run.pend, p.w.reg ≠ some r

/-- The registers of a destination come to the values of `val`: in the executing lanes for V registers, the value of the lowest executing lane for S registers; of a pair, the low word in the first register (R140, R441). -/
def DestHolds (d : Dst) (wide : Bool) (H : Group) (ex : Lanes) (val : Nat → DWord) : Prop :=
  match d with
  | .v r => ∀ l < H.lanes.length, inMask ex l = true →
      H.vreg r.toNat l = (val l).setWidth 32 ∧ (wide = true → H.vreg (r.toNat + 1) l = (val l >>> 32).setWidth 32)
  | .s r => H.sreg r.toNat = (val ((lowestLane ex).getD 0)).setWidth 32 ∧
      (wide = true → H.sreg (r.toNat + 1) = (val ((lowestLane ex).getD 0) >>> 32).setWidth 32)
  | .idx _ => True

/-- A group that issues `i` performs it, and the destination comes to `val`, unless the word carries N (R78). -/
def ResultIs (i : Instr) (d : Dst) (wide : Bool) (val : Ctx → Nat → DWord) : Prop :=
  ∀ (s s1 : State) (x : Ctx), GroupIssues i s x s1 →
    ∃ t, exec i s = .next t ∧ ((formOf i).hdr.noWrite = false → x.clearFor d wide →
      ∃ H, t.group? x.t x.g = some H ∧ DestHolds d wide H x.ex (val x))

/-- A group that issues `i` performs it, and predicate `p` of the executing lanes comes to `f`. -/
def PredIs (i : Instr) (p : Nat) (f : Ctx → Nat → Bool) : Prop :=
  ∀ (s s1 : State) (x : Ctx), GroupIssues i s x s1 →
    ∃ t, exec i s = .next t ∧ ((formOf i).hdr.noWrite = false → (∀ q ∈ x.run.pend, q.w.reg ≠ some (.p p)) →
      ∃ H, t.group? x.t x.g = some H ∧ ∀ l < H.lanes.length, inMask x.ex l = true → H.preg p l = (p == 0 || f x l))

/-- The bits of a word's operand `a`, `b` or `c` in a lane, at the width of T (R497). -/
def opA (w : RIWord) (x : Ctx) (l : Nat) : BitVec (typeBits w.t) := (x.env.srcT (wideType w.t) w.a l).setWidth _
def opB (w : RIWord) (x : Ctx) (l : Nat) : BitVec (typeBits w.t) :=
  if w.isImm then (w.imm.signExtend 64).setWidth _ else (x.env.srcT (wideType w.t) w.b l).setWidth _
def opC (w : RIWord) (x : Ctx) (l : Nat) : BitVec (typeBits w.t) := (x.env.srcT (wideType w.t) w.c l).setWidth _

/-- The 32-bit words of B and C, of which shifts and field instructions take counts (R450, R533). -/
def wordB (w : RIWord) (x : Ctx) (l : Nat) : Word := if w.isImm then w.imm else x.env.src w.b l
def wordC (w : RIWord) (x : Ctx) (l : Nat) : Word := x.env.src w.c l

/-- Bits of type T as the integer they stand for (R497). -/
def asInt (t : BitVec 5) {n : Nat} (x : BitVec n) : Int := if isSignedT t then x.toInt else x.toNat

/-- Bits of type T placed in a register: I types sign-extended, N types zero-extended (R140). -/
def placed (t : BitVec 5) {n : Nat} (x : BitVec n) : DWord := if isSignedT t then x.signExtend 64 else x.setWidth 64

/-- An exact integer brought to type T: clamped to the range of T under .SAT, else modulo 2^w (R152, R498). -/
def broughtTo (t : BitVec 5) (sat : Bool) (v : Int) : DWord :=
  let n := typeBits t
  let lo : Int := if isSignedT t then -(2 ^ (n - 1)) else 0
  let hi : Int := if isSignedT t then 2 ^ (n - 1) - 1 else 2 ^ n - 1
  placed t (BitVec.ofInt n (if sat then min (max v lo) hi else v))

/-- The integer instructions that compute an exact value of their operands and bring it to T (R498). -/
inductive IntRule : Instr → RIWord → (Int → Int → Int → Int) → Prop where
  | iadd (w : RIWord) : IntRule (.iadd w) w (fun a b _ => a + b)
  | isub (w : RIWord) : IntRule (.isub w) w (fun a b _ => a - b)
  | imul (w : RIWord) (h : w.xf.getLsbD 0 = false) : IntRule (.imul w) w (fun a b _ => a * b)
  | imad (w : RIWord) : IntRule (.imad w) w (fun a b c => a * b + c)
  | iabs (w : RIWord) : IntRule (.iabs w) w (fun a _ _ => if a < 0 then -a else a)

/-- Bit `j` of the bits of type T extended above their width as T's signedness says (R450, R533). -/
def extBit (t : BitVec 5) {n : Nat} (a : BitVec n) (j : Nat) : Bool := if j < n then a.getLsbD j else isSignedT t && a.getLsbD (n - 1)

/-- The bitwise and shift instructions: what bit `j` of their result is, of the operands `a` and `b` and the words of B and C (R450, R532, R533). -/
inductive BitRule : Instr → RIWord → (∀ n : Nat, BitVec n → BitVec n → Word → Word → Nat → Bool) → Prop where
  | and (w : RIWord) : BitRule (.and w) w (fun _ a b _ _ j => a.getLsbD j && b.getLsbD j)
  | or (w : RIWord) : BitRule (.or w) w (fun _ a b _ _ j => a.getLsbD j || b.getLsbD j)
  | xor (w : RIWord) : BitRule (.xor w) w (fun _ a b _ _ j => a.getLsbD j != b.getLsbD j)
  | shl (w : RIWord) : BitRule (.shl w) w (fun _ a _ p _ j => decide (p.toNat ≤ j) && a.getLsbD (j - p.toNat))
  | shr (w : RIWord) : BitRule (.shr w) w (fun _ a _ p _ j => a.getLsbD (j + p.toNat))
  | shrA (w : RIWord) : BitRule (.shrA w) w (fun n a _ p _ j => if j + p.toNat < n then a.getLsbD (j + p.toNat) else a.getLsbD (n - 1))
  | bfe (w : RIWord) : BitRule (.bfe w) w (fun n a _ p q j =>
      let len := min (fldN q 0 8) n
      if len = 0 then false
      else if j < len then extBit w.t a (fldN p 0 8 + j)
      else isSignedT w.t && extBit w.t a (fldN p 0 8 + (len - 1)))
  | bfi (w : RIWord) : BitRule (.bfi w) w (fun n a b _ q j =>
      let p := fldN q 0 8
      if p ≤ j ∧ j < p + min (fldN q 8 8) n then b.getLsbD (j - p) else a.getLsbD j)
  | brev (w : RIWord) : BitRule (.brev w) w (fun n a _ _ _ j => a.getLsbD (n - 1 - j))


/-- A word that computes one value a lane: its signature and fields, whether its result is a pair, its latency (R74), its value. -/
structure ValueRow where
  g : RISig
  w : RIWord
  wide : Bool
  lat : Nat
  val : Env → Nat → DWord

/-- The words that compute one value a lane from that lane's operands alone (R441), with their latencies (R74). -/
def valueRow : Instr → Option ValueRow
  | .iadd w => some ⟨Sig.iadd, w, wideType w.t, 2, intOp2 w w.sat (· + ·)⟩
  | .isub w => some ⟨Sig.isub, w, wideType w.t, 2, intOp2 w w.sat (· - ·)⟩
  | .imul w => some ⟨Sig.imul, w, wideType w.t, 4, intOp2 w w.sat (if fld w.xf 0 1 == 1 then mulHigh w.t else (· * ·))⟩
  | .imad w => some ⟨Sig.imad, w, wideType w.t, 4, imadVal w⟩
  | .imin w => some ⟨Sig.imin, w, wideType w.t, 2, intOp2 w false min⟩
  | .imax w => some ⟨Sig.imax, w, wideType w.t, 2, intOp2 w false max⟩
  | .iabs w => some ⟨Sig.iabs, w, wideType w.t, 2, iabsVal w⟩
  | .and w => some ⟨Sig.and, w, wideType w.t, 2, bitOp2 w (· &&& ·)⟩
  | .or w => some ⟨Sig.or, w, wideType w.t, 2, bitOp2 w (· ||| ·)⟩
  | .xor w => some ⟨Sig.xor, w, wideType w.t, 2, bitOp2 w (· ^^^ ·)⟩
  | .shl w => some ⟨Sig.shl, w, wideType w.t, 2, shlVal w⟩
  | .shr w => some ⟨Sig.shr, w, wideType w.t, 2, shrVal w⟩
  | .shrA w => some ⟨Sig.shrA, w, wideType w.t, 2, sarVal w⟩
  | .bfe w => some ⟨Sig.bfe, w, wideType w.t, 2, bfeVal w⟩
  | .bfi w => some ⟨Sig.bfi, w, wideType w.t, 2, bfiVal w⟩
  | .popc w => some ⟨Sig.popc, w, false, 2, popcVal w⟩
  | .clz w => some ⟨Sig.clz, w, false, 2, clzVal w⟩
  | .brev w => some ⟨Sig.brev, w, wideType w.t, 2, brevVal w⟩
  | .mov w => some ⟨Sig.mov, w, wideType w.t, 1, fun e l => e.srcT (wideType w.t) w.a l⟩
  | .movi w => some ⟨Sig.movi, w, wideType w.t, 1, fun _ _ => moviVal w⟩
  | .sel w => some ⟨Sig.sel, w, wideType w.t, 2, fun e l => if e.guard w.hdr.guard l then e.srcT (wideType w.t) w.a l else e.srcT (wideType w.t) w.b l⟩
  | .addr w => some ⟨Sig.addr, w, true, 2, addrVal w⟩
  | .fadd w => some ⟨Sig.fadd, w, false, 4, fun e l => BitVec.ofNat 64 (faddBits (fmtT w.t) (rmOf w.rm) w.sat w.ftz (fsrcA w e l) (fsrcB w e l))⟩
  | .fmul w => some ⟨Sig.fmul, w, false, 4, fun e l => BitVec.ofNat 64 (fmulBits (fmtT w.t) (rmOf w.rm) w.sat w.ftz (fsrcA w e l) (fsrcB w e l))⟩
  | .fma w => some ⟨Sig.fma, w, false, 4, fun e l => BitVec.ofNat 64 (fmaBits (fmtT w.t) (rmOf w.rm) w.sat w.ftz (fsrcA w e l) (fsrcB w e l) (e.src w.c l).toNat)⟩
  | .fmin w => some ⟨Sig.fmin, w, false, 2, fun e l => BitVec.ofNat 64 (fminmaxBits (fmtT w.t) w.ftz false (fsrcA w e l) (fsrcB w e l))⟩
  | .fmax w => some ⟨Sig.fmax, w, false, 2, fun e l => BitVec.ofNat 64 (fminmaxBits (fmtT w.t) w.ftz true (fsrcA w e l) (fsrcB w e l))⟩
  | .fclass w => some ⟨Sig.fclass, w, false, 2, fun e l => BitVec.ofNat 64 (fclassBits (fmtT w.t) (fsrcA w e l))⟩
  | .frcp w => some ⟨Sig.frcp, w, false, 12, transVal .rcp w⟩
  | .frsq w => some ⟨Sig.frsq, w, false, 12, transVal .rsq w⟩
  | .fsqrt w => some ⟨Sig.fsqrt, w, false, 12, transVal .sqrt w⟩
  | .fexp w => some ⟨Sig.fexp, w, false, 12, transVal .exp w⟩
  | .flog w => some ⟨Sig.flog, w, false, 12, transVal .log w⟩
  | .ftanh w => some ⟨Sig.ftanh, w, false, 12, transVal .tanh w⟩
  | _ => none


/-- Source bits of a slot: the reserved ternary code 10 is written as 00 (R537). -/
def slotCode (t : BitVec 5) (x : Word) : Nat := if t = 0x18 ∧ x.toNat % 4 = 2 then 0 else x.toNat % 2 ^ typeBits t

/-- A base of PACK as it is written: under TRN the reserved code of a slot stands as 00 (R143, log 96). -/
def baseBit (t : BitVec 5) (c : Word) (j : Nat) : Bool := c.getLsbD j && !(t == 0x18 && c.toNat / 4 ^ (j / 2) % 4 == 2)

/-- Does a conversion or a packing read the reserved ternary code in lane `l` (R143, R470, R537)? -/
inductive ReadsTen : Instr → RIWord → (Ctx → Nat → Prop) → Prop where
  | cvt (w : RIWord) (h : w.t2 = 0x18) : ReadsTen (.cvt w) w (fun x l => (x.env.src w.a l).toNat % 4 = 2)
  | packA (w : RIWord) (h : w.t = 0x18) : ReadsTen (.pack w) w (fun x l => (x.env.src w.a l).toNat % 4 = 2)
  | packB (w : RIWord) (h : w.t = 0x18) : ReadsTen (.pack w) w (fun x l => (x.env.src w.b l).toNat % 4 = 2)
  | packC (w : RIWord) (j : Nat) (h : w.t = 0x18) (hj : j < 16) (ho : j / 2 ≠ w.xf.toNat % 8) : ReadsTen (.pack w) w (fun x l => (x.env.src w.c l).toNat / 4 ^ j % 4 = 2)
  | unpk (w : RIWord) (h : w.t = 0x18) : ReadsTen (.unpk w) w (fun x l => (x.env.src w.a l).toNat / 4 ^ (w.xf.toNat % 16) % 4 = 2)

/-- The tree of R153 over 16 values. -/
def tree16 (p : Nat → Nat → Nat) (v : Nat → Nat) : Nat :=
  p (p (p (p (v 0) (v 1)) (p (v 2) (v 3))) (p (p (v 4) (v 5)) (p (v 6) (v 7))))
    (p (p (p (v 8) (v 9)) (p (v 10) (v 11))) (p (p (v 12) (v 13)) (p (v 14) (v 15))))

/-- The values of position `l` after the levels of the prefix tree of R540: level `k` takes in the value 2^k positions below. -/
def prefixAt (p : Nat → Nat → Nat) (v : Nat → Nat) : Nat → Nat → Nat
  | 0, l => v l
  | k + 1, l => if 2 ^ k ≤ l then p (prefixAt p v k (l - 2 ^ k)) (prefixAt p v k l) else prefixAt p v k l

/-- The operations of REDX and PRFX on floats, with what a lane that does not execute gives: -0 for a sum, +∞ for a minimum, -∞ for a maximum (R540). -/
def floatOp (w : RIWord) (k : Nat) (a b : Nat) : Nat :=
  match k with
  | 0 => faddBits (fmtT w.t) (rmOf w.rm) false w.ftz a b
  | 1 => fminmaxBits (fmtT w.t) w.ftz false a b
  | _ => fminmaxBits (fmtT w.t) w.ftz true a b
def floatNeutral (w : RIWord) (k : Nat) : Nat :=
  match k with
  | 0 => 2 ^ ((fmtT w.t).width - 1)
  | 1 => ((fmtT w.t).inf).getD 0
  | _ => 2 ^ ((fmtT w.t).width - 1) + ((fmtT w.t).inf).getD 0
def floatIn (w : RIWord) (k : Nat) (x : Ctx) (l : Nat) : Nat := if inMask x.ex l then (x.env.src w.a l).toNat % 2 ^ (fmtT w.t).width else floatNeutral w k

/-- The lane that SHFL reads for lane `l`, by its form and the word of B (R539). -/
def shuffled (form b l : Nat) : Nat :=
  let j : Int := match form with
    | 0 => ((b % 16 : Nat) : Int)
    | 1 => (l : Int) - ((b % 32 : Nat) : Int)
    | 2 => (l : Int) + ((b % 32 : Nat) : Int)
    | _ => ((l ^^^ (b % 16) : Nat) : Int)
  if 0 ≤ j ∧ j ≤ 15 then j.toNat else l

/-- The branches: their words, the target of each lane, and the pair that takes the return address (R424, R460, R501, R542). -/
inductive BranchRule : Instr → RIWord → (Ctx → Nat → DWord) → Dst → Prop where
  | bra (w : RIWord) : BranchRule (.bra w) w (fun x _ => x.pc + w.imm.signExtend 64) (.idx 0)
  | jmp (w : RIWord) : BranchRule (.jmp w) w (fun x l => x.env.src64 w.a l) (.idx 0)
  | call (w : RIWord) : BranchRule (.call w) w (fun x _ => x.pc + w.imm.signExtend 64) w.d
  | callReg (w : RIWord) : BranchRule (.callReg w) w (fun x l => x.env.src64 w.a l) w.d
  | ret (w : RIWord) : BranchRule (.ret w) w (fun x l => x.env.src64 w.a l) (.idx 0)

/-- The executing lanes whose guard is true (R410). -/
def Guarded (w : RIWord) (x : Ctx) (l : Nat) : Prop := inMask x.ex l = true ∧ x.env.guard w.hdr.guard l = true

/-- The instructions that give a mask register a new value, before it is limited to the live lanes (R503). -/
inductive MaskRule : Instr → RIWord → (Ctx → Half → Half → Half) → Prop where
  | join (w : RIWord) : MaskRule (.join w) w (fun x m _ => m ||| x.ex)
  | leave (w : RIWord) : MaskRule (.leave w) w (fun x m _ => m &&& ~~~x.ex)
  | mov (w : RIWord) : MaskRule (.mskopMov w) w (fun _ _ b => b)
  | and (w : RIWord) : MaskRule (.mskopAnd w) w (fun _ m b => m &&& b)
  | or (w : RIWord) : MaskRule (.mskopOr w) w (fun _ m b => m ||| b)
  | xor (w : RIWord) : MaskRule (.mskopXor w) w (fun _ m b => m ^^^ b)
  | andn (w : RIWord) : MaskRule (.mskopAndn w) w (fun _ m b => m &&& ~~~b)


/-- The layout instructions of a group and what they give of their operands: a register image, or a cause (R505, R507). -/
inductive LayoutRule : Instr → RIWord → (Ctx → State → Byte ⊕ LayBits) → Prop where
  | lset (w : RIWord) : LayoutRule (.lset w) w (fun x _ => lsetOf ((upFrom (srcNum w.a) 32).map x.env.s))
  | lmode (w : RIWord) : LayoutRule (.lmode w) w (fun x s => lmodeOf (x.layout s (srcNum w.a)) w.xf.toNat (x.env.src w.b 0) (x.env.src w.c 0))
  | lchain (w : RIWord) : LayoutRule (.lchain w) w (fun x s => lchainOf (x.layout s (srcNum w.a)) (x.layout s (srcNum w.b)))
  | lpart (w : RIWord) : LayoutRule (.lpart w) w (fun x s => lpartOf (x.layout s (srcNum w.a)) (x.layout s (srcNum w.b)) (x.env.src w.c 0).toNat)
  | ltrans (w : RIWord) : LayoutRule (.ltrans w) w (fun x s => ltransOf (x.layout s (srcNum w.a)) (wordB w x 0))
  | lflat (w : RIWord) : LayoutRule (.lflat w) w (fun x s => lflatOf (x.layout s (srcNum w.a)) w.xf.toNat)
  | lflatAll (w : RIWord) : LayoutRule (.lflatAll w) w (fun x s => lflatAllOf (x.layout s (srcNum w.a)))
  | lswz (w : RIWord) : LayoutRule (.lswz w) w (fun x s => lswzOf (x.layout s (srcNum w.a)) (wordB w x 0))

/-- The layout instructions of a sequencer (R88, R112, R117, R118). -/
inductive SeqLayoutRule : Instr → RIWord → (SeqCtx → Byte ⊕ LayBits) → Prop where
  | lset (w : RIWord) (h : srcNum w.a ≤ 32) : SeqLayoutRule (.lset w) w (fun x => lsetOf ((upFrom (srcNum w.a) 32).map x.env.s))
  | lpart (w : RIWord) : SeqLayoutRule (.lpart w) w (fun x => lpartOf (spGet 0 x.sh.seq.l (srcNum w.a)) (spGet 0 x.sh.seq.l (srcNum w.b)) (x.env.src w.c 0).toNat)
  | ltrans (w : RIWord) : SeqLayoutRule (.ltrans w) w (fun x => ltransOf (spGet 0 x.sh.seq.l (srcNum w.a)) (if w.isImm then w.imm else x.env.src w.b 0))


/-! ### Lane accesses -/

/-- The elements of an access that reach memory: those that a load does not fill (R106). -/
def Access.real (a : Access) : List Elem := a.elems.filter (fun e => !e.fill)

/-- Is the access of a `.prm` word, which drains the line's owner at its issue? A global atomic has it done where it is served (R270). -/
def Access.promoted (a : Access) : Bool :=
  match mWord a.instr with
  | some m => m.prm && (accKind a.instr == .load || a.space != .glb)
  | none => false

/-- Nothing stands in the way of an access at its issue: its elements pass the checks of their space (R205) and are found at the places `ps`, no mark of a page refuses them (R325, R365), nothing holds them back (R214, R221, R239, R262, R267, R268, R270, R393), nothing parks them first (R80, R231), and no line of memory mismatches (R385). -/
structure AccessFree (x : Ctx) (s : State) (a : Access) (ps : List Spot) : Prop where
  checks : firstFail a.real (spaceChecks x.who a.space) = none
  found : a.real.map (fun e => (e, s.find x.who a.space (accKind a.instr).need e)) = ps.map (fun p => (p.e, .spot p.bs p.leaf))
  marks : s.markTrap x.who (accKind a.instr) ps = none
  reach : a.space = .glb → ∀ p ∈ ps, s.reaches (dieOf x.c) p.at_.unit = true
  room : accKind a.instr = .store → a.space = .glb → a.real ≠ [] → s.sqFull x.c = false
  free : s.blocked x.who (accKind a.instr) a.stamp a.promoted ps = false
  slots : accKind a.instr ≠ .load → accKind a.instr ≠ .store → s.slotAbsent x.who a ps = false
  here : s.parksFirst x.who (accKind a.instr) a.space a.real ps = false
  older : x.G.logBefore a = false
  release : accKind a.instr = .atomic → a.space = .peer → (∃ m, mWord a.instr = some m ∧ x.who.relKind m a.space = 2) → s.relDone x.c x.t x.g a.stamp = true
  whole : s.mem.poison = []

/-- The loads: their words, and the step that their access keeps (R291, R372, R511). -/
inductive LoadRule : Instr → MWord → (Ctx → State → DWord) → Prop where
  | ld (w : MWord) : LoadRule (.ld w) w (fun _ _ => 0)
  | ldv (w : MWord) : LoadRule (.ldv w) w (fun x _ => x.env.src64 w.c 0)
  | swld (w : MWord) : LoadRule (.swld w) w (fun x s => s.stepOf x.c)
  | swldRaw (w : MWord) : LoadRule (.swldRaw w) w (fun x s => s.stepOf x.c)

/-- The atomics (R442, R475, R541, R547). -/
inductive AtomicRule : Instr → MWord → Prop where
  | atomAdd (w : MWord) : AtomicRule (.atomAdd w) w
  | atomMin (w : MWord) : AtomicRule (.atomMin w) w
  | atomMax (w : MWord) : AtomicRule (.atomMax w) w
  | atomAnd (w : MWord) : AtomicRule (.atomAnd w) w
  | atomOr (w : MWord) : AtomicRule (.atomOr w) w
  | atomXor (w : MWord) : AtomicRule (.atomXor w) w
  | atomExch (w : MWord) : AtomicRule (.atomExch w) w
  | atomf (w : MWord) : AtomicRule (.atomf w) w
  | acas (w : MWord) : AtomicRule (.acas w) w
  | red (w : MWord) : AtomicRule (.red w) w
  | swadd (w : MWord) : AtomicRule (.swadd w) w
  | enq (w : MWord) : AtomicRule (.enq w) w
  | deq (w : MWord) : AtomicRule (.deq w) w

/-- The lane accesses of one address a lane, each with its access. -/
inductive AccessRule : Instr → MWord → (Ctx → State → Access) → Prop where
  | load (i : Instr) (w : MWord) (step : Ctx → State → DWord) (h : LoadRule i w step) : AccessRule i w (fun x s => loadAccess w x s (step x s))
  | st (w : MWord) : AccessRule (.st w) w (storeAccess w)
  | atomic (i : Instr) (w : MWord) (h : AtomicRule i w) : AccessRule i w (atomAccess w)

/-- What two memories have of every byte, when one has come from the other by the writes `ws` in order: a byte that none of them names is as it was, the others are what the last write to them says. -/
structure WrittenBy (m n : Mem) (ws : List (PAddr × Byte)) : Prop where
  same : ∀ a : PAddr, (∀ y ∈ ws, y.1.key ≠ a.key) → n.byte a = m.byte a
  last : ∀ pre y post, ws = pre ++ y :: post → (∀ z ∈ post, z.1.key ≠ y.1.key) → n.byte y.1 = y.2

/-- Two memories whose bytes are alike. -/
def SameBytes (m n : Mem) : Prop := ∀ a : PAddr, n.byte a = m.byte a


/-- Does the team of a group stand in two states alike? -/
def SameTeam (s t : State) (n : Nat) : Prop := t.team? n = s.team? n

/-- Two states alike in all that no register instruction of group `g` of team `n` touches: memory, residency, windows, links, scheduler, slice threads, the other teams, the other groups, the shares, barriers and stages of the team. -/
structure SameElsewhere (n g : Nat) (s t : State) : Prop where
  mem : t.mem = s.mem
  mmp : t.mmp = s.mmp
  refl : t.refl = s.refl
  links : t.links = s.links
  sched : t.sched = s.sched
  threads : t.threads = s.threads
  teams : ∀ u, u ≠ n → t.team? u = s.team? u
  groups : ∀ h, h ≠ g → t.group? n h = s.group? n h
  shares : ∀ j, (t.team? n).bind (fun T => T.share? j) = (s.team? n).bind (fun T => T.share? j)
  bars : (t.team? n).map (fun T => T.bars) = (s.team? n).map (fun T => T.bars)
  stages : (t.team? n).map (fun T => T.stages) = (s.team? n).map (fun T => T.stages)
  special : (t.team? n).map (fun T => (T.trapvec, T.recbase)) = (s.team? n).map (fun T => (T.trapvec, T.recbase))

/-- Alike as `SameElsewhere` says, but for TRNX of the group's share `j`, which may have been set, or be on its way to be set, where `p` holds (R96). -/
def SameButTrnx (n g j : Nat) (p : Prop) (s t : State) : Prop :=
  ∃ f : Share → Share, (f = id ∨ p ∧ ∃ b l, f = fun sh => { sh with trnx := sh.trnx || b, trnxLate := sh.trnxLate ++ l }) ∧ SameElsewhere n g (s.modShare n j f) t

/-- Is a set of TRNX among a group's results on their way? -/
def Group.trnxDue (G : Group) : Prop := ∃ r, G.run = some r ∧ ∃ p ∈ r.pend, p.w = .trnx

/-- Two states of a group alike in its trap registers and its trap frame (R97, R376). -/
def SameTrapRegs (G H : Group) : Prop :=
  H.cause = G.cause ∧ H.epc = G.epc ∧ H.eaddr = G.eaddr ∧ H.elanes = G.elanes ∧ H.inHandler = G.inHandler ∧ H.frame = G.frame

/-- Two groups alike in every register but those listed. -/
structure SameRegs (but : List Reg) (G H : Group) : Prop where
  v : ∀ r l, Reg.v r ∉ but → spGet 0 (H.lane l).v r = spGet 0 (G.lane l).v r
  s : ∀ r, Reg.s r ∉ but → spGet 0 H.s r = spGet 0 G.s r
  p : ∀ r l, Reg.p r ∉ but → (H.lane l).pred r = (G.lane l).pred r
  m : ∀ r, Reg.m r ∉ but → spGet 0 H.m r = spGet 0 G.m r
  l : ∀ r, Reg.l r ∉ but → spGet 0 H.l r = spGet 0 G.l r
  h : ∀ r, Reg.h r ∉ but → spGet 0 H.h r = spGet 0 G.h r

/-- The words that act on registers alone, with the registers that each writes. -/
inductive RegisterRow : Instr → List Reg → Prop where
  | value (i : Instr) (r : ValueRow) (h : valueRow i = some r) : RegisterRow i (dstRegs r.wide r.w.d)
  | icmp (w : RIWord) : RegisterRow (.icmp w) (if w.xf.getLsbD 3 then [.p (fldN w.xf 0 3)] else dstRegs false w.d)
  | fcmp (w : RIWord) : RegisterRow (.fcmp w) (if w.xf.getLsbD 3 then [.p (fldN w.xf 0 3)] else dstRegs false w.d)
  | plop (w : RIWord) : RegisterRow (.plop w) [.p (fldN w.xf 8 3)]
  | shfl (w : RIWord) : RegisterRow (.shfl w) (dstRegs (wideType w.t) w.d)
  | vote (w : RIWord) : RegisterRow (.vote w) (dstRegs false w.d)
  | matchLanes (w : RIWord) : RegisterRow (.matchLanes w) (dstRegs false w.d)
  | redx (w : RIWord) : RegisterRow (.redx w) (dstRegs (wideType w.t) w.d)
  | prfx (w : RIWord) : RegisterRow (.prfx w) (dstRegs (wideType w.t) w.d)
  | nop (b : Bool) : RegisterRow (.nop b) []

/-- The words that act on registers, and may set TRNX of the executing share (R470, R537). -/
inductive TrnxRow : Instr → List Reg → Prop where
  | cvt (w : RIWord) : TrnxRow (.cvt w) (dstRegs (wideType w.t) w.d)
  | pack (w : RIWord) : TrnxRow (.pack w) (dstRegs false w.d)
  | unpk (w : RIWord) : TrnxRow (.unpk w) (dstRegs false w.d)

/-- What an instruction that has written registers `d` in the lanes `ex` leaves of a group's registers: all others, and of the lanes that do not execute all of them (R20, R78, R441). -/
def RegsKept (noWrite : Bool) (d : List Reg) (ex : Lanes) (G H : Group) : Prop :=
  SameTrapRegs G H ∧ H.settled.lst = G.settled.lst ∧ H.settled.bcd = G.settled.bcd ∧ SameRegs (if noWrite then [] else d) G.settled H.settled ∧
  ∀ l, inMask ex l = false → (∀ r, spGet 0 (H.settled.lane l).v r = spGet 0 (G.settled.lane l).v r) ∧ ∀ r, (H.settled.lane l).pred r = (G.settled.lane l).pred r

end Sys2Proof.Machine
end

