-- ==== Sys2Proof/Certificates/Slice0/Obligations.lean ====
section
/-! DEFINITION. The statements about the machine. -/

open Sys2Proof Sys2Proof.Machine

/-! ### Integer and bitwise instructions -/

/-- R498 (with R152, R140): IADD, ISUB, IMUL without .hi, IMAD and IABS compute their exact value and clamp it to the range of T under .SAT, else take it modulo 2^w. -/
def Obligations.IntegerArithmetic : Prop :=
  ∀ (i : Instr) (w : RIWord) (f : Int → Int → Int → Int), IntRule i w f →
    ResultIs i w.d (wideType w.t) (fun x l => broughtTo w.t w.sat (f (asInt w.t (opA w x l)) (asInt w.t (opB w x l)) (asInt w.t (opC w x l))))

/-- R498: IMUL .hi gives the upper half of the exact product, IMIN the smaller and IMAX the larger operand. -/
def Obligations.IntegerSelections : Prop :=
  (∀ w : RIWord, w.xf.getLsbD 0 = true → ResultIs (.imul w) w.d (wideType w.t) (fun x l =>
    placed w.t ((BitVec.ofInt (2 * typeBits w.t) (asInt w.t (opA w x l) * asInt w.t (opB w x l))).extractLsb' (typeBits w.t) (typeBits w.t)))) ∧
  (∀ w : RIWord, ResultIs (.imin w) w.d (wideType w.t) (fun x l =>
    placed w.t (if asInt w.t (opA w x l) ≤ asInt w.t (opB w x l) then opA w x l else opB w x l))) ∧
  (∀ w : RIWord, ResultIs (.imax w) w.d (wideType w.t) (fun x l =>
    placed w.t (if asInt w.t (opA w x l) ≤ asInt w.t (opB w x l) then opB w x l else opA w x l)))

/-- R450, R532, R533: AND, OR, XOR, SHL, SHR, SHR.a, BFE, BFI and BREV, bit by bit. That an immediate of a 64-bit T is taken sign-extended is the model's choice (log 14). -/
def Obligations.BitOperations : Prop :=
  ∀ (i : Instr) (w : RIWord) (f : ∀ n : Nat, BitVec n → BitVec n → Word → Word → Nat → Bool), BitRule i w f →
    ∃ val : Ctx → Nat → DWord, ResultIs i w.d (wideType w.t) val ∧
      ∀ x l, ∃ r : BitVec (typeBits w.t), val x l = placed w.t r ∧
        ∀ j < typeBits w.t, r.getLsbD j = f _ (opA w x l) (opB w x l) (wordB w x l) (wordC w x l) j

/-- R450, R532: CLZ counts the zero bits above the highest set bit, the width where there is none; POPC counts the set bits; both write one 32-bit register for every T. -/
def Obligations.BitCounts : Prop :=
  (∀ w : RIWord, ∃ n : Ctx → Nat → Nat, ResultIs (.clz w) w.d false (fun x l => BitVec.ofNat 64 (n x l)) ∧
    ∀ x l, n x l ≤ typeBits w.t ∧ (∀ j < typeBits w.t, typeBits w.t - n x l ≤ j → (opA w x l).getLsbD j = false) ∧
      (n x l < typeBits w.t → (opA w x l).getLsbD (typeBits w.t - 1 - n x l) = true)) ∧
  (∀ w : RIWord, ResultIs (.popc w) w.d false (fun x l =>
    BitVec.ofNat 64 (((List.range (typeBits w.t)).filter (fun j => (opA w x l).getLsbD j)).length)))

/-- R441 with the latencies of R74: every word that computes one value a lane is performed, in a group and in a slice thread; its result goes to D, and to the latches where it is a producer. What the latch of a V destination holds for a lane that does not execute is the model's choice: the value computed there (log 64). -/
def Obligations.LaneResults : Prop :=
  ∀ (i : Instr) (r : ValueRow), valueRow i = some r →
    (∀ (s s1 : State) (x : Ctx), GroupIssues i s x s1 → GroupDoes i s x s1 s1 (valueEff r.g r.w r.wide r.lat x.ex (laneList.map (r.val x.env)))) ∧
    (∀ (s : State) (x : ThCtx), ThreadIssues i s x → ThreadDoes i s x s { writes := destWrites r.w.d r.wide 0 0xFFFF (laneList.map (r.val x.env)) })

/-- R524, R535, R450: MOV copies A; MOVI gives the immediate under R140; SEL copies A where its guard is true and B elsewhere; ADDR adds the scaled second operand to the pair A. -/
def Obligations.MoveResults : Prop :=
  (∀ w : RIWord, ResultIs (.mov w) w.d (wideType w.t) (fun x l => x.env.srcT (wideType w.t) w.a l)) ∧
  (∀ w : RIWord, ResultIs (.movi w) w.d (wideType w.t) (fun _ _ => placed w.t ((if isSignedT w.t then w.imm.signExtend 64 else w.imm.setWidth 64).setWidth (typeBits w.t)))) ∧
  (∀ w : RIWord, ResultIs (.sel w) w.d (wideType w.t) (fun x l =>
    if x.env.guard w.hdr.guard l then x.env.srcT (wideType w.t) w.a l else x.env.srcT (wideType w.t) w.b l)) ∧
  (∀ w : RIWord, ResultIs (.addr w) w.d true (fun x l =>
    x.env.src64 w.a l + BitVec.ofInt 64 ((if w.t = 3 then (wordB w x l).toInt else (wordB w x l).toNat) * 2 ^ (w.xf.toNat % 8))))

/-! ### Float instructions -/

/-- R149 for FADD on F32, F16 and BF16: the exact zero sum of opposite numbers is +0, and −0 under RDN; the sum of two zeros of one sign is that zero. -/
def Obligations.FloatZeroSums : Prop :=
  ∀ w : RIWord, ∃ val : Ctx → Nat → Nat, ResultIs (.fadd w) w.d false (fun x l => BitVec.ofNat 64 (val x l)) ∧
    ∀ (x : Ctx) (l : Nat) (a b : Nat), a = fsrcA w x.env l % 2 ^ (fmtT w.t).width → b = fsrcB w x.env l % 2 ^ (fmtT w.t).width →
      isFloatT w.t = true →
      (∀ k, k ≤ (fmtT w.t).maxCode → k ≠ 0 → (a = k ∧ b = k + 2 ^ ((fmtT w.t).width - 1) ∨ b = k ∧ a = k + 2 ^ ((fmtT w.t).width - 1)) →
        val x l = if rmOf w.rm = .rdn then 2 ^ ((fmtT w.t).width - 1) else 0) ∧
      (a = 0 ∧ b = 0 → val x l = 0) ∧
      (a = 2 ^ ((fmtT w.t).width - 1) ∧ b = 2 ^ ((fmtT w.t).width - 1) → val x l = 2 ^ ((fmtT w.t).width - 1)) ∧
      (a = 0 ∧ b = 2 ^ ((fmtT w.t).width - 1) ∨ b = 0 ∧ a = 2 ^ ((fmtT w.t).width - 1) → val x l = if rmOf w.rm = .rdn then 2 ^ ((fmtT w.t).width - 1) else 0)

/-- R148, R483, R485: a NaN source makes FADD, FMUL and FMA give the canonical NaN; FMIN and FMAX give the other operand, and the canonical NaN where both are NaN; FMIN(−0, +0) is −0 and FMAX(−0, +0) is +0 in either order; an FCMP relation with a NaN is false but for .ne and .un. -/
def Obligations.FloatNaNs : Prop :=
  ∀ (w : RIWord) (e : Env) (l : Nat), isFloatT w.t = true →
    let f := fmtT w.t
    let a := fsrcA w e l % 2 ^ f.width
    let b := fsrcB w e l % 2 ^ f.width
    let c := (e.src w.c l).toNat % 2 ^ f.width
    let res (i : Instr) : Option Nat := (valueRow i).map (fun r => (r.val e l).toNat)
    (isNanCode f a = true ∨ isNanCode f b = true → res (.fadd w) = some (canonNan f) ∧ res (.fmul w) = some (canonNan f)) ∧
    (isNanCode f a = true ∨ isNanCode f b = true ∨ isNanCode f c = true → res (.fma w) = some (canonNan f)) ∧
    (isNanCode f a = true ∧ isNanCode f b = true → res (.fmin w) = some (canonNan f) ∧ res (.fmax w) = some (canonNan f)) ∧
    (w.ftz = false → isNanCode f a = true ∧ isNanCode f b = false → res (.fmin w) = some b ∧ res (.fmax w) = some b) ∧
    (w.ftz = false → isNanCode f a = false ∧ isNanCode f b = true → res (.fmin w) = some a ∧ res (.fmax w) = some a) ∧
    (a = 2 ^ (f.width - 1) ∧ b = 0 ∨ a = 0 ∧ b = 2 ^ (f.width - 1) → res (.fmin w) = some (2 ^ (f.width - 1)) ∧ res (.fmax w) = some 0) ∧
    (isNanCode f a = true ∨ isNanCode f b = true →
      fcmpBits f w.ftz w.var.toNat (fsrcA w e l) (fsrcB w e l) = decide (w.var.toNat = 1 ∨ w.var.toNat = 6))

/-- R141, R145: every finite or infinite code of the formats of lane floats is the rounding of the value it stands for, in every mode. -/
def Obligations.RoundingKeepsCodes : Prop :=
  ∀ (t : BitVec 5) (rm : RMode) (x : Nat), isFloatT t = true → x < 2 ^ (fmtT t).width → isNanCode (fmtT t) x = false →
    fencode (fmtT t) rm false false (fdecode (fmtT t) x) = x

/-- R485, R498, R534: ICMP and FCMP with PW write their relation to Pd in the executing lanes; PLOP writes the entry of its table that Pa, Pb and Pc select; a write to P0 is ignored. Without PW the comparisons write 1 or 0 to D. Slice threads perform them in every lane (R358). -/
def Obligations.PredicateResults : Prop :=
  (∀ w : RIWord, w.xf.getLsbD 3 = true → PredIs (.icmp w) (fldN w.xf 0 3) (fun x l => icmpRel w.var.toNat (asInt w.t (opA w x l)) (asInt w.t (opB w x l)))) ∧
  (∀ w : RIWord, w.xf.getLsbD 3 = false → ResultIs (.icmp w) w.d false (fun x l => if icmpRel w.var.toNat (asInt w.t (opA w x l)) (asInt w.t (opB w x l)) then 1 else 0)) ∧
  (∀ w : RIWord, w.xf.getLsbD 3 = true → PredIs (.fcmp w) (fldN w.xf 0 3) (fun x l => fcmpBits (fmtT w.t) w.ftz w.var.toNat (fsrcA w x.env l) (fsrcB w x.env l))) ∧
  (∀ w : RIWord, w.xf.getLsbD 3 = false → ResultIs (.fcmp w) w.d false (fun x l => if fcmpBits (fmtT w.t) w.ftz w.var.toNat (fsrcA w x.env l) (fsrcB w x.env l) then 1 else 0)) ∧
  (∀ w : RIWord, PredIs (.plop w) (fldN w.xf 8 3) (fun x l => w.xf.getLsbD
    ((if x.env.p (srcNum w.a) l then 1 else 0) + 2 * (if x.env.p (srcNum w.b) l then 1 else 0) + 4 * (if x.env.p (srcNum w.c) l then 1 else 0)))) ∧
  (∀ (w : RIWord) (s : State) (x : ThCtx), ThreadIssues (.plop w) s x → ThreadDoes (.plop w) s x s { writes := [(0, .p (fldN w.xf 8 3) 0xFFFF (maskOf (fun l => w.xf.getLsbD
    ((if x.env.p (srcNum w.a) l then 1 else 0) + 2 * (if x.env.p (srcNum w.b) l then 1 else 0) + 4 * (if x.env.p (srcNum w.c) l then 1 else 0)))))] }) ∧
  (∀ (i : Instr) (w : RIWord) (f : Env → Nat → Bool),
    (i = .icmp w ∧ f = (fun e l => icmpRel w.var.toNat (asInt w.t ((e.srcT (wideType w.t) w.a l).setWidth (typeBits w.t)))
        (asInt w.t (if w.isImm then (w.imm.signExtend 64).setWidth (typeBits w.t) else (e.srcT (wideType w.t) w.b l).setWidth (typeBits w.t)))) ∨
      i = .fcmp w ∧ f = (fun e l => fcmpBits (fmtT w.t) w.ftz w.var.toNat (fsrcA w e l) (fsrcB w e l))) →
    ∀ (s : State) (x : ThCtx), ThreadIssues i s x →
      let ws : List (Nat × RegWrite) := if w.xf.getLsbD 3 then [(0, .p (fldN w.xf 0 3) 0xFFFF (maskOf (f x.env)))] else destWrites w.d false 0 0xFFFF (laneList.map (fun l => if f x.env l then 1 else 0))
      ThreadDoes i s x s { writes := ws })

/-! ### Conversions, packing, cross-lane -/

/-- R470, R537: CVT gives the converted value; PACK replaces slots 2h and 2h + 1 of C by the low bits of A and B; UNPK gives slot h of A under R140; under TRN the reserved code reads as 0 and sets TRNX of the executing share at issue + 4 (R96): in a source of CVT, in the low bits of A or B of PACK, in slot h of UNPK's A, and by the model's choice in a slot of PACK's C that stays, which is written as 00 (log 96). All three are performed in every form. -/
def Obligations.Conversions : Prop :=
  (∀ w : RIWord, ResultIs (.cvt w) w.d (wideType w.t) (fun x l =>
    placeBits (isSignedT w.t) (typeBits w.t) (cvtBits w.t w.t2 (rmOf w.rm) w.sat w.ftz (x.env.srcT (wideType w.t2) w.a l).toNat).1)) ∧
  (∀ (w : RIWord) (s : State) (x : ThCtx), ThreadIssues (.cvt w) s x → ThreadDoes (.cvt w) s x s { writes := destWrites w.d (wideType w.t) 0 0xFFFF (laneList.map (fun l =>
    placeBits (isSignedT w.t) (typeBits w.t) (cvtBits w.t w.t2 (rmOf w.rm) w.sat w.ftz (x.env.srcT (wideType w.t2) w.a l).toNat).1)) }) ∧
  (∀ (i : Instr) (w : RIWord), (i = .cvt w ∨ i = .pack w ∨ i = .unpk w) → ∀ (s s1 : State) (x : Ctx), GroupIssues i s x s1 → ∃ t, exec i s = .next t) ∧
  (∀ w : RIWord, ∃ val : Ctx → Nat → Word, ResultIs (.pack w) w.d false (fun x l => (val x l).setWidth 64) ∧
    ((.pack w : Instr).wf = true → ∀ x l j, j < 32 →
      let e := typeBits w.t
      let h := w.xf.toNat % 8
      (val x l).getLsbD j =
        if 2 * h * e ≤ j ∧ j < (2 * h + 1) * e then (slotCode w.t (x.env.src w.a l)).testBit (j - 2 * h * e)
        else if (2 * h + 1) * e ≤ j ∧ j < (2 * h + 2) * e then (slotCode w.t (x.env.src w.b l)).testBit (j - (2 * h + 1) * e)
        else baseBit w.t (x.env.src w.c l) j)) ∧
  (∀ w : RIWord, ResultIs (.unpk w) w.d false (fun x l =>
    placed w.t (BitVec.ofNat (typeBits w.t) (slotCode w.t (x.env.src w.a l >>> (typeBits w.t * (w.xf.toNat % 16))))))) ∧
  (∀ (i : Instr) (w : RIWord) (ten : Ctx → Nat → Prop), ReadsTen i w ten → ∀ (s s1 : State) (x : Ctx), GroupIssues i s x s1 →
    (∃ l, inMask x.ex l = true ∧ ten x l) →
    ∃ t sh H, exec i s = .next t ∧ (t.team? x.t).bind (fun T => T.share? x.G.core) = some sh ∧ t.group? x.t x.g = some H ∧
      (H.run = none → sh.trnx = true ∨ ∃ y ∈ sh.trnxLate, y.gid = x.g) ∧ ∀ r, H.run = some r → ∃ p ∈ r.pend, p.w = .trnx ∧ p.due = x.run.clk + 4)

/-- R539, R517: what SHFL, VOTE and MATCH give each executing lane. -/
def Obligations.CrossLane : Prop :=
  (∀ w : RIWord, ResultIs (.shfl w) w.d (wideType w.t) (fun x l =>
    x.env.srcT (wideType w.t) w.a (shuffled w.var.toNat (x.env.src w.b l).toNat l))) ∧
  (∀ w : RIWord, ∃ val : Ctx → Word, ResultIs (.vote w) w.d false (fun x _ => (val x).setWidth 64) ∧
    ∀ x : Ctx,
      let q (l : Nat) : Prop := x.env.p (srcNum w.a) l ≠ w.xf.getLsbD 0
      (w.var = 0 → (val x = 1 ∧ (∀ l, inMask x.ex l = true → q l)) ∨ (val x = 0 ∧ ∃ l, inMask x.ex l = true ∧ ¬ q l)) ∧
      (w.var = 1 → (val x = 1 ∧ (∃ l, inMask x.ex l = true ∧ q l)) ∨ (val x = 0 ∧ ∀ l, inMask x.ex l = true → ¬ q l)) ∧
      (w.var = 2 → ∀ l < 32, (val x).getLsbD l = true ↔ inMask x.ex l = true ∧ q l) ∧
      (w.var = 3 → (val x = 1 ∧ ((∀ l, inMask x.ex l = true → q l) ∨ (∀ l, inMask x.ex l = true → ¬ q l))) ∨
        (val x = 0 ∧ (∃ l, inMask x.ex l = true ∧ q l) ∧ ∃ l, inMask x.ex l = true ∧ ¬ q l))) ∧
  (∀ w : RIWord, ∃ val : Ctx → Nat → Word, ResultIs (.matchLanes w) w.d false (fun x l => (val x l).setWidth 64) ∧
    ∀ x l, inMask x.ex l = true →
      (w.var = 0 → ∀ k < 32, (val x l).getLsbD k = true ↔ inMask x.ex k = true ∧ x.env.srcT (wideType w.t) w.a k = x.env.srcT (wideType w.t) w.a l) ∧
      (w.var = 1 → (val x l = x.ex.setWidth 32 ∧ ∀ k, inMask x.ex k = true → x.env.srcT (wideType w.t) w.a k = x.env.srcT (wideType w.t) w.a l) ∨
        (val x l = 0 ∧ ∃ k, inMask x.ex k = true ∧ x.env.srcT (wideType w.t) w.a k ≠ x.env.srcT (wideType w.t) w.a l)))

/-- R540, R153: REDX on integers gives the sum of the executing lanes' values modulo 2^w, the least or the greatest of them, or their bits joined by and, or, exclusive or; PRFX gives each lane the sum, the least or the greatest up to it, and under .add.x the sum of those below it. On floats REDX combines neighbours in the fixed tree and PRFX by its levels, a lane that does not execute giving the identity. A lane that PRFX combines with none still has its NaN made canonical and, under .FTZ, its subnormal flushed (R147, R148). Both are performed in every form. That an immediate A of a float type is taken as bits is the model's choice (log 59). -/
def Obligations.Reductions : Prop :=
  (∀ w : RIWord, w.var = 0 → isFloatT w.t = false → ResultIs (.redx w) w.d (wideType w.t) (fun x _ =>
    placed w.t (BitVec.ofInt (typeBits w.t) (((lanesOf x.ex).map (fun l => asInt w.t (opA w x l))).sum)))) ∧
  (∀ w : RIWord, w.var = 0 → isFloatT w.t = false → ResultIs (.prfx w) w.d (wideType w.t) (fun x l =>
    placed w.t (BitVec.ofInt (typeBits w.t) ((((lanesOf x.ex).filter (fun k => decide (k ≤ l))).map (fun k => asInt w.t (opA w x k))).sum)))) ∧
  (∀ w : RIWord, w.var = 1 → isFloatT w.t = false → ResultIs (.prfx w) w.d (wideType w.t) (fun x l =>
    placed w.t (BitVec.ofInt (typeBits w.t) ((((lanesOf x.ex).filter (fun k => decide (k < l))).map (fun k => asInt w.t (opA w x k))).sum)))) ∧
  (∀ w : RIWord, isFloatT w.t = false → ∃ val : Ctx → BitVec (typeBits w.t), ResultIs (.redx w) w.d (wideType w.t) (fun x _ => placed w.t (val x)) ∧
    ∀ x : Ctx,
      (w.var = 1 → x.ex ≠ 0 → (∃ l, inMask x.ex l = true ∧ val x = opA w x l) ∧ ∀ l, inMask x.ex l = true → asInt w.t (val x) ≤ asInt w.t (opA w x l)) ∧
      (w.var = 2 → x.ex ≠ 0 → (∃ l, inMask x.ex l = true ∧ val x = opA w x l) ∧ ∀ l, inMask x.ex l = true → asInt w.t (opA w x l) ≤ asInt w.t (val x)) ∧
      (w.var = 3 → ∀ j < typeBits w.t, (val x).getLsbD j = true ↔ ∀ l, inMask x.ex l = true → (opA w x l).getLsbD j = true) ∧
      (w.var = 4 → ∀ j < typeBits w.t, (val x).getLsbD j = true ↔ ∃ l, inMask x.ex l = true ∧ (opA w x l).getLsbD j = true) ∧
      (w.var = 5 → ∀ j < typeBits w.t, (val x).getLsbD j = decide (((lanesOf x.ex).filter (fun l => (opA w x l).getLsbD j)).length % 2 = 1))) ∧
  (∀ w : RIWord, isFloatT w.t = false → ∃ val : Ctx → Nat → BitVec (typeBits w.t), ResultIs (.prfx w) w.d (wideType w.t) (fun x l => placed w.t (val x l)) ∧
    ∀ x l, inMask x.ex l = true →
      (w.var = 2 → (∃ k ≤ l, inMask x.ex k = true ∧ val x l = opA w x k) ∧ ∀ k ≤ l, inMask x.ex k = true → asInt w.t (val x l) ≤ asInt w.t (opA w x k)) ∧
      (w.var = 3 → (∃ k ≤ l, inMask x.ex k = true ∧ val x l = opA w x k) ∧ ∀ k ≤ l, inMask x.ex k = true → asInt w.t (opA w x k) ≤ asInt w.t (val x l))) ∧
  (∀ (w : RIWord) (k : Nat), isFloatT w.t = true → k < 3 → w.var.toNat = k → ResultIs (.redx w) w.d false (fun x _ => BitVec.ofNat 64 (tree16 (floatOp w k) (floatIn w k x)))) ∧
  (∀ (w : RIWord) (k : Nat), isFloatT w.t = true → (w.var.toNat = 0 ∧ k = 0 ∨ 2 ≤ w.var.toNat ∧ w.var.toNat = k + 1 ∧ k < 3) → ResultIs (.prfx w) w.d false (fun x l =>
    BitVec.ofNat 64 (laneClean w (prefixAt (floatOp w k) (floatIn w k x) 4 l)))) ∧
  (∀ w : RIWord, isFloatT w.t = true → w.var = 1 → ResultIs (.prfx w) w.d false (fun x l =>
    BitVec.ofNat 64 (if l = 0 then floatNeutral w 0 else laneClean w (prefixAt (floatOp w 0) (floatIn w 0 x) 4 (l - 1))))) ∧
  (∀ w : RIWord, ∃ val, ResultIs (.redx w) w.d (wideType w.t) val) ∧
  (∀ w : RIWord, ∃ val, ResultIs (.prfx w) w.d (wideType w.t) val)

/-! ### Control transfer -/

/-- R460, R461, R424: a branch with no lane to take it does nothing; one with an illegal target takes cause 0x03 and branches no lane; otherwise each lane whose guard is true goes to its target, the other executing lanes to the next slot, and the run ends. A branch begins no pair (R76). A target whose line cannot be read until its page is resident is tested at the first fetch there (the model's choice, log 66). R358, R460: BRA of a slice thread whose guard is true in every lane jumps to its label; false in every lane, it goes on; otherwise its task fails with cause 0x02; an illegal target fails it with cause 0x03. -/
def Obligations.Branches : Prop :=
  (∀ (i : Instr) (w : RIWord) (tgt : Ctx → Nat → DWord) (link : Dst), BranchRule i w tgt link →
    ∀ (s s1 : State) (x : Ctx), GroupIssues i s x s1 → x.lead s1 = false →
      ((∀ l, ¬ Guarded w x l) → GroupDoes i s x s1 s1 {}) ∧
      ((∃ l, Guarded w x l ∧ s1.targetBad x.c x.T.asn (tgt x l) = true) → GroupTraps i s x s1 { cause := 0x03 }) ∧
      ((∃ l, Guarded w x l) → (∀ l, Guarded w x l → s1.targetBad x.c x.T.asn (tgt x l) = false) →
        ∃ t H, exec i s = .next t ∧ t.group? x.t x.g = some H ∧ H.run = none ∧
          (∀ l < H.lanes.length, inMask x.ex l = true → (x.G.lane l).hold = .runnable →
            (Guarded w x l → (H.lane l).pc = tgt x l) ∧ (¬ Guarded w x l → (H.lane l).pc = nextSlot x.pc)) ∧
          (∀ l, Guarded w x l → s1.targetFar x.c x.T.asn (tgt x l) = true → tgt x l ∈ H.untested) ∧
          (x.clearFor link true → (formOf i).hdr.noWrite = false →
            DestHolds link true H (maskOf (fun l => inMask x.ex l && x.env.guard w.hdr.guard l)) (fun _ => nextSlot x.pc)))) ∧
  (∀ (w : RIWord) (s : State) (x : ThCtx), ThreadIssues (.bra w) s x →
    ((∀ l < 16, x.env.guard w.hdr.guard l = true) → s.targetBad (1024 + x.th.slice) x.th.asn (x.th.pc + w.imm.signExtend 64) = false →
      ThreadDoes (.bra w) s x s { jump := some (x.th.pc + w.imm.signExtend 64) }) ∧
    ((∀ l < 16, x.env.guard w.hdr.guard l = true) → s.targetBad (1024 + x.th.slice) x.th.asn (x.th.pc + w.imm.signExtend 64) = true →
      exec (.bra w) s = .next (s.failThread x.th.slice x.th.num 0x03).tick) ∧
    ((∀ l < 16, x.env.guard w.hdr.guard l = false) → ThreadDoes (.bra w) s x s {}) ∧
    ((∃ l < 16, x.env.guard w.hdr.guard l = true) → (∃ l < 16, x.env.guard w.hdr.guard l = false) →
      exec (.bra w) s = .next (s.failThread x.th.slice x.th.num 0x02).tick))

/-- R433: NOP is the word with every bit but B zero; any other word of its opcode is faulty with cause 0x02. NOP writes nothing and leaves the latches as they are: it is performed with no effect but its own passing, and counts towards the instructions of its run. -/
def Obligations.NopDoesNothing : Prop :=
  (∀ (b : Bool) (s s1 : State) (x : Ctx), GroupIssues (.nop b) s x s1 → GroupDoes (.nop b) s x s1 s1 {} ∧
    ∀ H r, (x.finish s1 {} s1).group? x.t x.g = some H → H.run = some r → r.count = x.run.count + 1 ∧ (x.cut = false → x.cutPair s1 = false → H.xs = x.G.xs)) ∧
  (∀ u : InstrWord, wordOp u = 0 →
    (∀ b : Bool, u = (if b then 1#96 <<< 79 else 0) → instrOf u = some (.nop b)) ∧
    (u ≠ 0 → u ≠ 1#96 <<< 79 → instrOf u = none ∧ ∀ (T : Team) (G : Group), badFieldGroup T G u = 0x02))

/-- R480, R52: EXIT is performed in a group, its lanes exit and leave every meeting and every mask; in a slice thread it ends the thread. -/
def Obligations.Exits : Prop :=
  (∀ (w : RIWord) (s s1 : State) (x : Ctx), GroupIssues (.exit w) s x s1 →
    let s2 := s1.modGroup x.t x.g (fun G => G.exitLanes x.ex)
    GroupDoes (.exit w) s x s1 (if x.G.allAtBar.isSome then s2 else s2.tryArrive x.t x.g) { ends := true }) ∧
  (∀ (G : Group) (ex : Lanes) (l r : Nat), l < G.lanes.length → inMask ex l = true → r < 12 →
    ((G.exitLanes ex).lane l).hold = .exited ∧ ((G.exitLanes ex).lane l).meet = none ∧ inMask (spGet 0 (G.exitLanes ex).m r) l = false) ∧
  (∀ (w : RIWord) (s : State) (x : ThCtx), ThreadIssues (.exit w) s x → exec (.exit w) s = .next (s.endThread x.th).tick)

/-- R553, R463, R376: TRAP takes cause 0x08 with its code in EADDR, BRK takes cause 0x09 with its code in EADDR; their executing lanes count as performed. -/
def Obligations.TrapInstructions : Prop :=
  (∀ (w : RIWord) (s s1 : State) (x : Ctx), GroupIssues (.trap w) s x s1 →
    GroupTraps (.trap w) s x s1 { cause := 0x08, eaddr := some (w.imm.setWidth 64), performed := x.ex }) ∧
  (∀ (w : RIWord) (s s1 : State) (x : Ctx), GroupIssues (.brk w) s x s1 →
    GroupTraps (.brk w) s x s1 { cause := 0x09, eaddr := some (w.xf.setWidth 64), performed := x.ex })

/-! ### Mask registers and meetings -/

/-- R503, R504: JOIN, LEAVE and the forms of MSKOP give Mx its new value, limited to the live lanes, at issue + 2; MSKOP .rd gives D the mask. R53, R54: a change of Mx that leaves at least one lane enrolled and every enrolled lane held at WAIT Mx sets Mx to zero and lets the lanes held there go on at the next slot, those too whose bit an earlier change has cleared, but not those whose bit it clears itself; any other change leaves the lanes as they are. -/
def Obligations.MaskRegisters : Prop :=
  ((∀ (i : Instr) (w : RIWord) (f : Ctx → Half → Half → Half), MaskRule i w f → ∀ (s s1 : State) (x : Ctx), GroupIssues i s x s1 →
    GroupDoes i s x s1 s1 { writes := [(2, .m (srcNum w.a) (f x (x.mask s1 (srcNum w.a)) ((x.env.src w.b 0).setWidth 16) &&& x.G.live))] }) ∧
  (∀ (w : RIWord) (s s1 : State) (x : Ctx), GroupIssues (.mskopRd w) s x s1 →
    GroupDoes (.mskopRd w) s x s1 s1 (valueEff Sig.mskopRd w false 2 x.ex (laneList.map (fun _ => (x.mask s1 (srcNum w.a)).setWidth 64))))) ∧
  (∀ (G : Group) (r : Nat) (v : Half),
    let H := G.write (.m r v)
    let m := v &&& G.live
    ((m ≠ 0 ∧ ∀ l < 16, inMask m l = true → (G.lane l).hold = .wait r) →
      spGet 0 H.m r = 0 ∧ ∀ l < min 16 G.lanes.length, (G.lane l).hold = .wait r →
        ((inMask m l = true ∨ inMask (spGet 0 G.m r) l = false) → (H.lane l).hold = .runnable ∧ (H.lane l).pc = nextSlot (G.lane l).pc) ∧
        (inMask m l = false → inMask (spGet 0 G.m r) l = true → H.lane l = G.lane l)) ∧
    ((m = 0 ∨ ∃ l < 16, inMask m l = true ∧ (G.lane l).hold ≠ .wait r) → spGet 0 H.m r = m ∧ H.lanes = G.lanes))

/-- R53, R554: WAIT Mx completes in every group that issues it: the executing lanes that Mx does not enrol go on, the enrolled ones are held at the WAIT, and the release test is made at once. R49, R518: MEET, in both forms, completes where every target is a legal branch target, and writes its target into the MEET register of each executing lane; MEET .clr completes in every group that issues it, and clears them. A target that is no legal branch target takes cause 0x03, and no MEET is written; one whose line cannot be read until its page is resident is tested at the first fetch there (the model's choice, log 66). -/
def Obligations.WaitsAndMeetings : Prop :=
  (∀ (w : RIWord) (s s1 : State) (x : Ctx), GroupIssues (.wait w) s x s1 →
    let m := x.mask s1 (srcNum w.a)
    ∃ t s2 e, exec (.wait w) s = .next t ∧ t = (x.finish s1 e s2).tick ∧ e.writes = [] ∧ e.goto = [] ∧ e.stay = false ∧
      s2.group? x.t x.g = some (Group.releaseMask (x.G.modLanes (x.ex &&& m) (fun _ L => { L with hold := .wait (srcNum w.a) })) (srcNum w.a) (spGet 0 x.G.m (srcNum w.a)))) ∧
  ((∀ (w : RIWord) (s s1 : State) (x : Ctx), GroupIssues (.meet w) s x s1 →
    let a := x.pc + w.imm.signExtend 64
    (x.ex = 0 ∨ s1.targetBad x.c x.T.asn a = false →
      ∃ t, exec (.meet w) s = .next t ∧ t = (x.finish s1 {} (setMeet x (s1.testLater x.t x.g (((lanesOf x.ex).map (fun _ => a)).filter (s1.targetFar x.c x.T.asn))) (fun _ => some a))).tick) ∧
    (x.ex ≠ 0 → s1.targetBad x.c x.T.asn a = true → GroupTraps (.meet w) s x s1 { cause := 0x03 })) ∧
  (∀ (w : RIWord) (s s1 : State) (x : Ctx), GroupIssues (.meetReg w) s x s1 →
    ((∀ l < 16, inMask x.ex l = true → s1.targetBad x.c x.T.asn (x.env.src64 w.a l) = false) →
      ∃ t, exec (.meetReg w) s = .next t ∧ t = (x.finish s1 {} (setMeet x (s1.testLater x.t x.g (((lanesOf x.ex).map (x.env.src64 w.a)).filter (s1.targetFar x.c x.T.asn)))
        (fun l => some (x.env.src64 w.a l)))).tick) ∧
    ((∃ l < 16, inMask x.ex l = true ∧ s1.targetBad x.c x.T.asn (x.env.src64 w.a l) = true) → GroupTraps (.meetReg w) s x s1 { cause := 0x03 })) ∧
  (∀ (w : RIWord) (s s1 : State) (x : Ctx), GroupIssues (.meetClr w) s x s1 →
    ∃ t, exec (.meetClr w) s = .next t ∧ t = (x.finish s1 {} (setMeet x s1 (fun _ => none))).tick) ∧
  (∀ (x : Ctx) (s : State) (f : Nat → Option DWord) (G : Group), s.group? x.t x.g = some G → ∃ H, (setMeet x s f).group? x.t x.g = some H ∧
    ∀ l < G.lanes.length, (H.lane l).meet = if inMask x.ex l = true then f l else (G.lane l).meet) ∧
  (∀ (s : State) (t g : Nat) (as : List DWord) (G : Group), s.group? t g = some G → ∃ H, (s.testLater t g as).group? t g = some H ∧ H.lanes = G.lanes ∧
    ∀ a, a ∈ H.untested ↔ a ∈ G.untested ∨ a ∈ as))

/-! ### Travelling groups -/

/-- R306, R307: GRAFT with counts above the role's budget takes cause 0x02; to no valid bed, cause 0x38; into the bed pinned on its core, it branches every executing lane, and takes cause 0x03 where the target is no legal branch target (R409, R461); a target whose line cannot be read until its page is resident is tested at the first fetch there (the model's choice, log 66); to another bed, a group that is not converged takes cause 0x3A, and a converged one parks for its departure. R38, R39, R520: MIGR with bits 31:4 of its operand set takes cause 0x02; to the rank where the group is, it parks and goes on behind it; otherwise the group parks for its departure. -/
def Obligations.GraftsAndMigrations : Prop :=
  (∀ (i : Instr) (w : RIWord) (sc : Nat), (i = .graft w ∧ sc = srcNum w.a ∨ i = .graftReg w ∧ sc = srcNum w.c) →
    ∀ (s s1 : State) (x : Ctx), GroupIssues i s x s1 →
      let a := if w.isImm then x.pc + w.imm.signExtend 64 else x.env.src64 w.a 0
      let b := x.T.launch.budget x.G.role
      (b.1 < w.xf.toNat ∨ b.2.1 < sc → GroupTraps i s x s1 { cause := 0x02 }) ∧
      (w.xf.toNat ≤ b.1 → sc ≤ b.2.1 →
        (x.T.bedAt a = none → GroupTraps i s x s1 { cause := 0x38 }) ∧
        (∀ n bed, x.T.bedAt a = some (n, bed) →
          (bed.cores = [] → GroupTraps i s x s1 { cause := 0x38 }) ∧
          (bed.cores ≠ [] →
            (x.sh.pinned = some n → s1.targetBad x.c x.T.asn a = false →
              GroupDoes i s x s1 (s1.testLater x.t x.g ([a].filter (s1.targetFar x.c x.T.asn))) { goto := (lanesOf x.ex).map (fun l => (l, a)) }) ∧
            (x.sh.pinned = some n → s1.targetBad x.c x.T.asn a = true → GroupTraps i s x s1 { cause := 0x03 }) ∧
            (x.sh.pinned ≠ some n → x.G.converged = false → GroupTraps i s x s1 { cause := 0x3A }) ∧
            (x.sh.pinned ≠ some n → x.G.converged = true →
              GroupDoes i s x s1 (s1.modGroup x.t x.g (fun G => { G with parks := G.parks ++ [.graft a w.xf.toNat sc x.pc] })) { stay := true }))))) ∧
  (∀ (w : RIWord) (s s1 : State) (x : Ctx), GroupIssues (.migr w) s x s1 →
    let d := (x.env.src w.a 0).toNat
    (16 ≤ d → GroupTraps (.migr w) s x s1 { cause := 0x02 }) ∧
    (d < 16 → d = rankOf x.c → GroupDoes (.migr w) s x s1 (s1.modGroup x.t x.g (fun G => { G with parks := G.parks ++ [.done] })) {}) ∧
    (d < 16 → d ≠ rankOf x.c →
      GroupDoes (.migr w) s x s1 (s1.modGroup x.t x.g (fun G => { G with parks := G.parks ++ [.migr d x.pc x.ex] })) { stay := true }))

/-! ### Layouts -/

/-- R111, R507: a layout instruction writes all of Ld at issue + 4 with the layout that R112 to R119 give; where they give a cause, it takes that cause, in a group and in a sequencer. -/
def Obligations.LayoutInstructions : Prop :=
  (∀ (i : Instr) (w : RIWord) (f : Ctx → State → Byte ⊕ LayBits), LayoutRule i w f → ∀ (s s1 : State) (x : Ctx), GroupIssues i s x s1 →
    (∀ v, f x s1 = .inr v → GroupDoes i s x s1 s1 { writes := [(4, .l (dstNum w.d) v)] }) ∧
    (∀ c, f x s1 = .inl c → GroupTraps i s x s1 { cause := c })) ∧
  (∀ (i : Instr) (w : RIWord) (f : SeqCtx → Byte ⊕ LayBits), SeqLayoutRule i w f → ∀ (s : State) (x : SeqCtx), SeqIssues i s x →
    (∀ v, f x = .inr v → SeqDoes i s x s { writes := [(4, .l (dstNum w.d) v)] }) ∧
    (∀ c, f x = .inl c → exec i s = .next (s.seqTrap x.t x.j c).tick))

/-- R112, R114: byte 4j + b of LSET's result is byte b of word j; LSWZ replaces SKW, SKD and SKS and nothing else, and takes cause 0x02 where bits 31:13 of its operand are not zero; a result that is not well formed takes cause 0x02. R103: the layout that an instruction of R112 to R119 gives is well formed. -/
def Obligations.LayoutFields : Prop :=
  ((∀ words : List Word, words.length = 32 → ∃ v : LayBits,
    (∀ j < 32, ∀ b < 4, fldN v (8 * (4 * j + b)) 8 = fldN (words.getD j 0) (8 * b) 8) ∧ lsetOf words = if layWf v then .inr v else .inl 0x02) ∧
  (∀ (x : LayBits) (sw : Word), fldN sw 13 19 ≠ 0 → lswzOf x sw = .inl 0x02) ∧
  (∀ (x : LayBits) (sw : Word), fldN sw 13 19 = 0 → ∃ v : LayBits,
    (∀ k < 1024, v.getLsbD k = if 720 ≤ k ∧ k < 733 then sw.getLsbD (k - 720) else x.getLsbD k) ∧ lswzOf x sw = if layWf v then .inr v else .inl 0x02)) ∧
  (∀ (i : Instr) (w : RIWord) (f : Ctx → State → Byte ⊕ LayBits), LayoutRule i w f → ∀ (x : Ctx) (s : State) (v : LayBits), f x s = .inr v → layWf v = true)

/-- R115: what LGET reads of a layout register (a well-formed one, as R103 has every layout register), and cause 0x02 beyond field 23; LGET is a latch producer. -/
def Obligations.LayoutReads : Prop :=
  ∀ (w : RIWord) (s s1 : State) (x : Ctx), GroupIssues (.lget w) s x s1 →
    let f := (x.env.src w.b 0).toNat
    let y := x.layout s1 (srcNum w.a)
    (23 < f → GroupTraps (.lget w) s x s1 { cause := 0x02 }) ∧
    (f ≤ 23 → ∃ v : Word, GroupDoes (.lget w) s x s1 s1 (valueEff Sig.lget w false 4 x.ex (laneList.map (fun _ => v.setWidth 64))) ∧
      (f < 8 → v = fld y (64 * f) 32) ∧ (8 ≤ f → f < 16 → v = fld y (64 * (f - 8) + 32) 32) ∧
      (16 ≤ f → f < 22 → v = fld y (512 + 32 * (f - 16)) 32) ∧ (f = 22 → v = fld y 704 32) ∧
      (f < 8 → layWf y = true → layCount y ≤ f → v = 0) ∧
      (f = 23 → layWf y = true → v.toNat = (layoutOf y).size)) ∧ Sig.lget.producer w = true

/-! ### Lane accesses -/

/-- R208: where the bytes of private space lie, counted through the frames that the team has for it, and that the two words of a lane's aligned 8-byte access lie 64 bytes apart. -/
def Obligations.PrivateInterleaving : Prop :=
  ∀ (T : Team) (G : Group) (l a b w n : Nat), w = a / 4 → b = a % 4 → n = G.privBase + (w * 16 + l) * 4 + b →
    privPlace T G l a = { store := .sram, unit := T.die, off := 65536 * nth 0 T.homes (n / 65536) + n % 65536 } ∧
    (l < 16 → G.privBase % 128 = 0 → a % 8 = 0 → (privPlace T G l (a + 4)).off = (privPlace T G l a).off + 64)

/-- R205, R209, R212, R215, R217: the checks of a lane access of one address a lane, over all its active lanes in the fixed order: alignment (0x16); the form of a peer address (0x10), peer presence (0x15), the bounds of private space (0x13), team space and a peer's allocation (0x14); bits 63:52 of a global address (0x10). The first that some lane fails is taken, with the failing lanes in ELANES and the address of the lowest in EADDR. R205: what a cause of several lanes reports: ELANES names them, EADDR holds the address of the lowest. -/
def Obligations.AccessChecks : Prop :=
  (∀ (i : Instr) (w : MWord) (acc : Ctx → State → Access), AccessRule i w acc → ∀ (s s1 : State) (x : Ctx), GroupIssues i s x s1 →
    let s2 := s1.bumpStamp
    let a := acc x s2
    let bad (f : Elem → Bool) : Prop := ∃ e ∈ a.elems, f e = true
    let mis (e : Elem) : Bool := e.addr.toNat % e.size != 0
    let trap (c : Byte) (f : Elem → Bool) : Prop := GroupTraps i s x s2 (elemTrap c (a.elems.filter f))
    (bad mis → trap 0x16 mis) ∧
    (¬ bad mis →
      (a.space = .priv → bad (fun e => decide (x.T.launch.privb < e.addr.toNat + e.size)) → trap 0x13 (fun e => decide (x.T.launch.privb < e.addr.toNat + e.size))) ∧
      (a.space = .team → bad (fun e => decide (x.sh.scratchLen < e.addr.toNat + e.size)) → trap 0x14 (fun e => decide (x.sh.scratchLen < e.addr.toNat + e.size))) ∧
      (a.space = .glb → bad (fun e => fldN e.addr 52 12 != 0) → trap 0x10 (fun e => fldN e.addr 52 12 != 0)) ∧
      (a.space = .peer → bad (fun e => fldN e.addr 28 4 != 0) → trap 0x10 (fun e => fldN e.addr 28 4 != 0)) ∧
      (a.space = .peer → ¬ bad (fun e => fldN e.addr 28 4 != 0) → bad (fun e => (x.T.peerShare e.addr).isNone) → trap 0x15 (fun e => (x.T.peerShare e.addr).isNone)) ∧
      (a.space = .peer → ¬ bad (fun e => fldN e.addr 28 4 != 0) → ¬ bad (fun e => (x.T.peerShare e.addr).isNone) →
        bad (fun e => !x.T.peerIn e) → trap 0x14 (fun e => !x.T.peerIn e)))) ∧
  (∀ (c : Byte) (es : List Elem), es ≠ [] →
    ∃ e ∈ es, (∀ f ∈ es, e.lane ≤ f.lane) ∧ (elemTrap c es).cause = c ∧ (elemTrap c es).eaddr = some e.addr ∧
      ∃ m, (elemTrap c es).names = some m ∧ ∀ l < 16, inMask m l = true ↔ ∃ f ∈ es, f.lane = l)

/-- R511, R291, R372: a load in whose way nothing stands is performed; in team and peer space it leaves every byte of memory as it was. R511 with R140: LD gives each lane the bytes at its address, little-endian, placed under T: sign-extended for I8 and I16, zero above otherwise; as the lanes of the core see those bytes: private space through L1, global space from the store queue of the core first (R267). R358 to R360: a slice thread loads from resident pages of its die, and of memory changes no more than the A bits that its walks set (R230); it fails with the cause of its first check otherwise. -/
def Obligations.Loads : Prop :=
  (∀ (i : Instr) (w : MWord) (step : Ctx → State → DWord), LoadRule i w step → ∀ (s s1 : State) (x : Ctx) (ps : List Spot), GroupIssues i s x s1 →
    let s2 := s1.bumpStamp
    let a := loadAccess w x s2 (step x s2)
    AccessFree x s2 a ps →
    (∀ w', i = .ldv w' → s2.versionFollows a.step ps = false) →
    (∀ w', i = .swld w' → ∀ p ∈ ps, (stampedOf (BitVec.ofNat 64 (s2.laneNum x.c a.space (w.ord == 0) p))).stale a.step = false) →
    ∃ s3 e, GroupDoes i s x s1 s3 e ∧ (a.space = .team ∨ a.space = .peer → SameBytes s.mem s3.mem)) ∧
  (∀ (w : MWord) (s s1 : State) (x : Ctx) (ps : List Spot), GroupIssues (.ld w) s x s1 →
    let s2 := s1.bumpStamp
    let a := loadAccess w x s2 0
    AccessFree x s2 a ps →
    let val (p : Spot) : DWord := placed w.t (BitVec.ofNat (typeBits w.t) (bytesNat (p.bs.map (s2.laneByte x.c a.space (w.ord == 0 && p.leaf.getLsbD 5)))))
    ∃ t, exec (.ld w) s = .next t ∧ (w.hdr.noWrite = false → x.clearFor w.d (wideType w.t) → ∃ H, t.group? x.t x.g = some H ∧
      ∀ p ∈ ps, match w.d with
        | .v d => p.e.lane < H.lanes.length → H.vreg d.toNat p.e.lane = (val p).setWidth 32 ∧ (wideType w.t = true → H.vreg (d.toNat + 1) p.e.lane = (val p >>> 32).setWidth 32)
        | .s d => H.sreg d.toNat = (val p).setWidth 32 ∧ (wideType w.t = true → H.sreg (d.toNat + 1) = (val p >>> 32).setWidth 32)
        | .idx _ => True)) ∧
  (∀ (i : Instr) (w : MWord), i = .ld w ∨ i = .swld w ∨ i = .swldRaw w → ∀ (s : State) (x : ThCtx), ThreadIssues i s x →
    let es := laneList.map (fun l => plainElem l (x.env.addr w l) (typeBits w.t / 8) 0 0)
    let found := s.threadSpots x.th Need.load es
    let s3 := s.threadTouch x.th es false
    (∀ c, found = .inl c → exec i s = .next (s.failThread x.th.slice x.th.num c).tick) ∧
    (∀ ps, found = .inr ps → s.threadHeld ps = false → s.mem.poison = [] →
      (i = .swld w → ∀ p ∈ ps, (stampedOf (BitVec.ofNat 64 (bytesNat (p.bs.map s3.mem.byte)))).stale s.pkg.gstep = false) →
      ∃ s2 e, ThreadDoes i s x s2 e ∧ SameBytes s3.mem s2.mem))

/-- R544, R267, R211: ST in whose way nothing stands is performed. In team space, and in peer space where it is no release wider than its core, memory takes the bytes it stores, in lane order, and keeps every other byte; in global space memory keeps every byte and the core's store queue takes the bytes, and so it is for such a release to peer space, by the model's choice (log 31); in private space memory keeps every byte, and the lanes of the core then read the bytes stored, and every other private byte as before. R358 to R360: a slice thread stores into resident pages of its die at once, the A and D bits of its walks set before (R230). -/
def Obligations.Stores : Prop :=
  (∀ (w : MWord) (s s1 : State) (x : Ctx) (ps : List Spot), GroupIssues (.st w) s x s1 →
    let s2 := s1.bumpStamp
    let a := storeAccess w x s2
    AccessFree x s2 a ps →
    ∃ t, exec (.st w) s = .next t ∧
      (a.space = .team ∨ a.space = .peer ∧ x.who.relKind w a.space ≠ 2 → WrittenBy s.mem t.mem (storeBytes ps)) ∧
      (a.space = .glb ∨ a.space = .peer ∧ x.who.relKind w a.space = 2 → SameBytes s.mem t.mem ∧ ∃ es, (t.core x.c).sq = (s.core x.c).sq ++ es ∧ ∀ y, (∃ e ∈ es, y ∈ e.bytes) ↔ y ∈ storeBytes ps) ∧
      (a.space = .priv → SameBytes s.mem t.mem ∧
        (∀ b : PAddr, (∀ y ∈ storeBytes ps, y.1.unit ≠ b.unit ∨ y.1.off ≠ b.off) → t.laneByte x.c .priv false b = s.laneByte x.c .priv false b) ∧
        (∀ pre y post, storeBytes ps = pre ++ y :: post → (∀ z ∈ post, z.1.unit ≠ y.1.unit ∨ z.1.off ≠ y.1.off) → t.laneByte x.c .priv false y.1 = y.2))) ∧
  (∀ (w : MWord) (s : State) (x : ThCtx), ThreadIssues (.st w) s x →
    let es := (lanesOf (x.active w.hdr.guard)).map (fun l => plainElem l (x.env.addr w l) (typeBits w.t / 8) (x.env.srcT (wideType w.t) w.b l) 0)
    let found := s.threadSpots x.th Need.store es
    (∀ c, found = .inl c → exec (.st w) s = .next (s.failThread x.th.slice x.th.num c).tick) ∧
    (∀ ps, found = .inr ps → s.threadHeld ps = false →
      (∀ p ∈ ps, s.loggedRegion p.at_ = none ∧ (s.marks p.at_).unmapped = false ∧ s.additive p.at_ = false) →
      (∀ p ∈ ps, ∀ b ∈ p.bs, (s.marks b).tx = false) → ∃ s2, ThreadDoes (.st w) s x s2 {} ∧ WrittenBy (s.threadTouch x.th es true).mem s2.mem (storeBytes ps)))

/-- R515, R516, R544: LDT and STT through a layout of team space or of a record that is cached: a tile of more than 4096 bytes or beyond the budget takes cause 0x02, a record of another space than the word names, or a layout that the lanes do not accept, cause 0x20, and one that passes every check is performed. STT then changes, in team space and in peer space, the bytes it stores and no other; in global space memory keeps every byte and the core's store queue takes the bytes, and so it is for a release to peer space wider than its core, by the model's choice (log 31). LDT leaves every byte of memory as it was in team and peer space. -/
def Obligations.TileAccesses : Prop :=
  ∀ (i : Instr) (w : MWord) (load : Bool) (k : BitVec 12), (i = .ldt w ∧ load = true ∨ i = .stt w ∧ load = false) → w.b = .idx k →
    ∀ (s s1 : State) (x : Ctx), GroupIssues i s x s1 →
      let y := x.layout s1 (sideOf k).lay.toNat
      let n := (layoutOf y).size
      let e := typeBits w.t / 8
      let first := if load then dstNum w.d else srcNum w.c
      let act := if load then x.ex else activeLanes x.env w.hdr.guard x.ex
      (4096 < n * e ∨ (x.T.launch.budget x.G.role).1 < first + ceilDiv (n * e) 64 → GroupTraps i s x s1 { cause := 0x02 }) ∧
      (∀ (t1 : State) (r : RecBits), n * e ≤ 4096 → first + ceilDiv (n * e) 64 ≤ (x.T.launch.budget x.G.role).1 → (sideOf k).sel ≠ 0 →
        s1.useRecord x.c x.T.asn (recordAddr x.T.recbase (x.handle s1 (sideOf k).num.toNat)) x.t (.group x.t x.g) = .image t1 r → laneSpace (recOf r).space ≠ some (spaceOf w.space) →
        GroupTraps i s x t1 { cause := 0x20 }) ∧
      (∀ (t1 : State) (v : TileView) (ps : List Spot), n * e ≤ 4096 → first + ceilDiv (n * e) 64 ≤ (x.T.launch.budget x.G.role).1 →
        ((sideOf k).sel = 0 ∧ t1 = s1 ∧ v = teamTile x.sh.scratchLen (typeBits w.t) y ∨
          (sideOf k).sel ≠ 0 ∧ ∃ r, s1.useRecord x.c x.T.asn (recordAddr x.T.recbase (x.handle s1 (sideOf k).num.toNat)) x.t (.group x.t x.g) = .image t1 r ∧
            laneSpace (recOf r).space = some (spaceOf w.space) ∧ v = recordTile (typeBits w.t) y (recOf r)) →
        let acc := classify 0 0 v.L v.V v.ok
        let s2 := t1.modGroup x.t x.g (fun G => G.write (.lst (lstWord acc 0)))
        let es := tileElems v (spaceOf w.space) e act (fun j => if load then 0 else tileDatum x.env.v first e j) load
        let a := tileAccess w (ceilDiv (n * e) 64) act x s2.bumpStamp (es.map (·.1))
        (acc.cls = 2 → GroupTraps i s x s2 { cause := 0x20 }) ∧
        (acc.cls ≠ 2 → tileCheck x (spaceOf w.space) v es = none → AccessFree x s2.bumpStamp a ps →
          ∃ t, exec i s = .next t ∧
            (load = false → a.space = .team ∨ a.space = .peer ∧ x.who.relKind w a.space ≠ 2 → WrittenBy t1.mem t.mem (storeBytes ps)) ∧
            (load = false → a.space = .glb ∨ a.space = .peer ∧ x.who.relKind w a.space = 2 →
              SameBytes t1.mem t.mem ∧ ∃ es, (t.core x.c).sq = (t1.core x.c).sq ++ es ∧ ∀ y, (∃ e ∈ es, y ∈ e.bytes) ↔ y ∈ storeBytes ps) ∧
            (load = true → a.space = .team ∨ a.space = .peer → SameBytes t1.mem t.mem)))

/-- R277, R280: an atomic other than RED whose active lanes name overlapping bytes takes cause 0x31, after the checks of R205, and no lane is performed; in private space each lane has its own bytes. -/
def Obligations.OverlappingAtomics : Prop :=
  ∀ (i : Instr) (w : MWord), AtomicRule i w → (∀ w', i ≠ .red w') → ∀ (s s1 : State) (x : Ctx), GroupIssues i s x s1 →
    let a := atomAccess w x s1.bumpStamp
    a.space ≠ .priv → firstFail a.elems (spaceChecks x.who a.space) = none →
    (∃ e ∈ a.elems, ∃ f ∈ a.elems, e.lane ≠ f.lane ∧ e.addr.toNat < f.addr.toNat + f.size ∧ f.addr.toNat < e.addr.toNat + e.size) →
    ∃ es, GroupTraps i s x s1.bumpStamp { cause := 0x31, names := some (elemLanes es) } ∧ ∀ e, e ∈ es ↔ e ∈ a.elems ∧
      ∃ f ∈ a.elems, e.lane ≠ f.lane ∧ e.addr.toNat < f.addr.toNat + f.size ∧ f.addr.toNat < e.addr.toNat + e.size

/-- R275, R280, R294, R358, R444: an atomic in whose way nothing stands, and whose lanes do not overlap, is performed; in global space it goes to the core's queue and memory keeps every byte, and so does a RED to team or peer space that has to wait there: one that releases more widely than its core, which is the model's choice (log 31), or that comes behind a queued write of its group to the same bytes (R262). Where one lane of an ATOM, ATOMF, ACAS or RED acts on a word of team space, the word takes the new value, every other byte stays, and an atomic other than RED has the old value for its reply. The new values of the integer atomics and of ACAS are those of R444. A SWADD of one lane of a slice thread writes a word with the thread's factor and the current stamp, and no other byte, the A and D bits of its walk set before (R230). -/
def Obligations.Atomics : Prop :=
  (∀ (i : Instr) (w : MWord), AtomicRule i w → ∀ (s s1 : State) (x : Ctx) (ps : List Spot), GroupIssues i s x s1 →
    let s2 := s1.bumpStamp
    let a := atomAccess w x s2
    let k := atomKindOf i w
    AccessFree x s2 a ps → ((∃ w', i = .red w') ∨ a.space = .priv ∨ overlapTrap a.elems = none) →
    ∃ t, exec i s = .next t ∧
      (a.space = .glb ∨ (a.space = .team ∨ a.space = .peer) ∧ s2.redWaits x.who a (x.who.relKind w a.space) ps = true →
        SameBytes s.mem t.mem ∧ ∃ es, (t.core x.c).sq = queueAll (s.core x.c).sq es ∧ es.length = ps.length) ∧
      (∀ p, a.space = .team → ps = [p] → s2.redWaits x.who a (x.who.relKind w a.space) ps = false → k ≠ .enq → k ≠ .deq → k ≠ .swadd →
        let n := typeBits w.t / 8
        let old := s.mem.num p.at_ n
        let o := atomWord k w.t (fun _ _ => 0) 0 old p.e.data p.e.data2
        (∀ b : PAddr, (∀ j < n, b.key ≠ (p.at_.add j).key) → t.mem.byte b = s.mem.byte b) ∧
        (∀ v, o.new = some v → ∀ j < n, t.mem.byte (p.at_.add j) = BitVec.ofNat 8 (v / 256 ^ j % 256)) ∧
        (o.new = none → SameBytes s.mem t.mem) ∧
        ∃ H, t.group? x.t x.g = some H ∧ ((∀ w', i ≠ .red w') → spFind H.slots p.e.lane = some o.done))) ∧
  (∀ (t : BitVec 5) (F : Nat → Nat → Nat) (step : DWord) (old : Nat) (x y : DWord),
    let n := typeBits t
    let b := x.toNat % 2 ^ n
    let new (k : AtomKind) : Option Nat := (atomWord k t F step old x y).new
    let val (v : Nat) : Int := asInt t (BitVec.ofNat n v)
    old < 2 ^ n →
    new .add = some ((old + b) % 2 ^ n) ∧ new .and = some (old &&& b) ∧ new .or = some (old ||| b) ∧ new .xor = some (old ^^^ b) ∧ new .exch = some b ∧
    new .min = some (if val b < val old then b else old) ∧ new .max = some (if val old < val b then b else old) ∧
    new .cas = (if old = b then some (y.toNat % 2 ^ n) else none) ∧
    ∀ k, k ≠ .swadd → (atomWord k t F step old x y).done = .value (BitVec.ofNat 64 old) 0) ∧
  (∀ (w : MWord) (s : State) (x : ThCtx) (p : Spot), ThreadIssues (.swadd w) s x → (∀ k, w.c ≠ .s k) →
    let es := (lanesOf (x.active w.hdr.guard)).map (fun l => plainElem l (x.env.addr w l) 8 ((x.env.src w.b l).setWidth 64) ((x.env.src w.c l).setWidth 64))
    let m := (s.threadTouch x.th es true).mem
    let old := stampedOf (BitVec.ofNat 64 (m.num p.at_ 8))
    (∀ e ∈ es, e.misaligned = false) → overlapTrap es = none → s.threadSpots x.th Need.atomic es = .inr [p] → s.threadHeld [p] = false → s.mem.poison = [] →
    s.rowUnlogged x.th p.at_ = false → (s.marks p.at_).tx = false → (s.marks p.at_).unmapped = false →
    (old.sv = true → old.factor = p.e.data2.toNat % 256 ∧ old.stale s.pkg.gstep = false) →
    ∃ t, exec (.swadd w) s = .next t ∧ (∀ b : PAddr, (∀ j < 8, b.key ≠ (p.at_.add j).key) → t.mem.byte b = m.byte b) ∧
      let new := stampedOf (BitVec.ofNat 64 (t.mem.num p.at_ 8))
      new.sv = true ∧ new.factor = p.e.data2.toNat % 256 ∧ new.stamp = s.pkg.gstep.toNat % 65536)

/-! ### Reset, steps, decoding -/

/-- R284, R91, R401, R404: before bring-up memory is canonical and empty, nothing runs, TIME and GSTEP are 0 and doorbells are not accepted; the power-on step brings the package up where there are images and each verifies with a version at or above the fused minimum, with memory zero, TIME and GSTEP 0, the ports open and the images measured; otherwise it holds the package in reset. The debug port is open where every image enables it (R400). By the model's choice bytes of LPDDR read 0 (log 5), the first step is the bring-up (log 1), a flash with no image is refused, of more than eight images the first eight are measured, and every image has a word in the debug policy (log 54). -/
def Obligations.ResetAndBringUp : Prop :=
  State.reset.MemOk ∧ State.reset.LayoutsOk ∧ (∀ a : PAddr, State.reset.mem.byte a = 0) ∧ State.reset.pkg.time = 0 ∧ State.reset.pkg.gstep = 0 ∧
  State.reset.teams = [] ∧ State.reset.threads = [] ∧ State.reset.refl.windows = [] ∧ State.reset.sched.queues = [] ∧ State.reset.pkg.power = .inReset ∧
  (∀ (port q : Nat) (n : Word), exec (.doorbell port q n) State.reset = .next State.reset.tick) ∧
  (∀ (s : State) (images : List Image), ∃ t, exec (.powerOnReset images) s = .next t ∧ t.MemOk ∧ (∀ a : PAddr, t.mem.byte a = 0) ∧
    t.pkg.time = 0 ∧ t.pkg.gstep = 0 ∧ t.teams = [] ∧ t.threads = [] ∧ t.pkg.frozen = false ∧
    ((images ≠ [] ∧ ∀ x ∈ images, x.sigOk = true ∧ s.pkg.svn ≤ x.svn) → t.pkg.power = .on ∧ t.pkg.bars = true ∧ t.pkg.meas = (images.take 8).map (·.meas) ∧ t.pkg.debugOn = images.all (·.debug)) ∧
    (¬ (images ≠ [] ∧ ∀ x ∈ images, x.sigOk = true ∧ s.pkg.svn ≤ x.svn) → t.pkg.power = .refused ∧ t.pkg.bars = false)) ∧
  (∀ s : State, s.pkg.frozen = false → s.pkg.power = .inReset → step s = exec (.powerOnReset s.pkg.flash) s)

/-- R406, R411, R432: when it is the turn of a party and the word at its PC decodes, the step executes that instruction. Beside it a group's fetch at a branch target that was left to be tested takes it off the list, and a slice thread's fetch sets A in the page's leaf (R230), corrects what single-bit error it finds in the line (R399) and takes the thread's turn (R359); the step adds nothing else. An instruction with an OP that its party does not execute takes cause 0x07 in a sequencer, and 0x01 in a slice thread (R423, R358). -/
def Obligations.StepRunsDecoded : Prop :=
  (∀ (s : State) (t g : Nat) (w : Who) (r : Run) (x : ILine) (i : Instr), s.pkg.frozen = false → s.pkg.power = .on → s.ctl.actor = some (.group t g) →
    s.who t g = some w → w.G.run = some r →
    let pc := (w.G.lane ((lowestLane r.act).getD 0)).pc
    isSlot pc = true → (w.T.launch.graft = true → w.T.inBed w.sh.pinned pc = true) → s.lineAt w pc = .inr x → slotFault w.G r x pc = none →
    decode (x.slot (slotOf pc)) = .ok i → step s = exec i (if w.G.untested.contains pc then s.modGroup t w.G.gid (fun G => { G with untested := G.untested.filter (· != pc) }) else s)) ∧
  (∀ (s : State) (t j : Nat) (T : Team) (sh : Share) (x : ILine) (i : Instr), s.pkg.frozen = false → s.pkg.power = .on → s.ctl.actor = some (.seq t j) →
    s.team? t = some T → T.share? j = some sh → sh.seq.st = .running → isSlot sh.seq.pc = true →
    (T.launch.graft = true → T.inBed sh.pinned sh.seq.pc = true) → s.iline sh.core T.asn sh.seq.pc = some x → x.fault = none → fldN x.word 5 4 = 0 →
    decode (x.slot (slotOf sh.seq.pc)) = .ok i →
    (seqOp (wordOp (x.slot (slotOf sh.seq.pc))) = true → step s = exec i s) ∧
    (seqOp (wordOp (x.slot (slotOf sh.seq.pc))) = false → step s = .next (s.seqTrap t j 0x07).tick)) ∧
  (∀ (s : State) (a b : Nat) (th : Thread) (pa : PAddr) (i : Instr), s.pkg.frozen = false → s.pkg.power = .on → s.ctl.actor = some (.thread a b) →
    s.thread? a b = some th → isSlot th.pc = true → s.threadPlace th Need.fetch (lineAddr th.pc) = .inr pa →
    let x := s.lineOf th.asn th.pc pa
    x.bad = false → fldN x.word 5 4 = 0 → decode (x.slot (slotOf th.pc)) = .ok i →
    (threadOp (wordOp (x.slot (slotOf th.pc))) = true → step s = exec i (((s.touch th.asn (lineAddr th.pc) false).scrub [pa.line]).rotate a b)) ∧
    (threadOp (wordOp (x.slot (slotOf th.pc))) = false → step s = .next (s.failThread a b 0x01).tick))

/-- A step of a package that is neither frozen nor held in reset goes on, whatever its state, where the requests that wait are events; and nothing that it executes is refused. -/
def Obligations.StepsGoOn : Prop :=
  (∀ s : State, s.pkg.frozen = false → s.pkg.power ≠ .refused → (∀ i ∈ s.ctl.inputs, (match formOf i with | .event => True | _ => False)) → ∃ t, step s = .next t) ∧
  (∀ (i : Instr) (s : State) (r : Refusal), exec i s ≠ .refused r) ∧
  (∀ (i : Instr) (s : State) (f : Fault), exec i s = .fault f → f = .noParty ∧ (match formOf i with | .event => False | _ => True))

/-- R439: an unassigned opcode takes cause 0x01 in the group or sequencer that issues it, and fails the task of a slice thread with it. -/
def Obligations.UnassignedOpcodes : Prop :=
  (∀ (u : InstrWord) (s : State) (t g : Nat) (G : Group) (r : Run), s.ctl.actor = some (.group t g) → s.group? t g = some G → G.run = some r →
    exec (.unassignedOpcode u) s = .next (s.takeTrap t g { cause := 0x01 } r.act (G.lane ((lowestLane r.act).getD 0)).pc).tick) ∧
  (∀ (u : InstrWord) (s : State) (t j : Nat), s.ctl.actor = some (.seq t j) → exec (.unassignedOpcode u) s = .next (s.seqTrap t j 0x01).tick) ∧
  (∀ (u : InstrWord) (s : State) (a b : Nat), s.ctl.actor = some (.thread a b) → exec (.unassignedOpcode u) s = .next (s.failThread a b 0x01).tick) ∧
  (∀ u : InstrWord, instrOf u = some (.unassignedOpcode u) ↔ decode u = .error .unassigned)

/-- R410 to R423: decoding the word of a well-formed instruction gives the instruction back. -/
def Obligations.EncodeThenDecode : Prop := ∀ (i : Instr) (w : InstrWord), i.wf = true → encode i = some w → instrOf w = some i

/-- R411: a word that decodes is well formed, and is the word of the instruction that it decodes to: no bit of it goes unread. -/
def Obligations.DecodeThenEncode : Prop := ∀ (w : InstrWord) (i : Instr), decode w = .ok i → i.wf = true ∧ encode i = some w

/-- The words that the spec writes out stand for the instructions that it says: two of arithmetic, one of control, of memory, of layouts, of copies, of the matrix stream, of slice threads, and an unassigned one. -/
def Obligations.DecodesWords : Prop :=
  (match decode 0x200000040046008000C00000 with | .ok (.iadd w) => w.isImm = false ∧ w.hdr.guard = 0 | _ => False) ∧
  (match decode 0x33800001800000001F41C000 with | .ok (.movi w) => w.isImm = true ∧ w.imm = 1000 | _ => False) ∧
  (match decode 0x410000028000008004100000 with | .ok (.fmul w) => w.rm = 1 | _ => False) ∧
  (match decode 0x0200000020A0000000000000 with | .ok (.jmp _) => True | _ => False) ∧
  (match decode 0x710100000030020001C00000 with | .ok (.st w) => w.space = 1 | _ => False) ∧
  (match decode 0xA40000008006008000000000 with | .ok (.ltrans _) => True | _ => False) ∧
  (match decode 0xB0030200A320100808A00000 with | .ok (.cpy w) => w.stg = true ∧ w.tdec = true ∧ w.sts = false | _ => False) ∧
  (match decode 0xC00000040082200252000000 with | .ok (.mma _) => True | _ => False) ∧
  (match decode 0xE00300040020000000000000 with | .ok (.nmld _) => True | _ => False) ∧
  decode 0 = .ok (.nop false) ∧ decode 0xFF0000000000000000000000 = .error .unassigned

/-- The canonical form of memory is an invariant of every step. -/
def Obligations.MemoryStaysCanonical : Prop := ∀ s t : State, s.MemOk → Steps s t → t.MemOk

/-- R103: every layout register holds a well-formed layout at all times: an invariant of every step. -/
def Obligations.LayoutsStayWellFormed : Prop := ∀ s t : State, s.LayoutsOk → Steps s t → t.LayoutsOk

/-! ### Frames -/

/-- R20, R78, R441: an instruction that acts on registers alone leaves memory, residency, windows, links, the scheduler, slice threads, the other teams, groups, shares, barriers and stages as they were, and of its own group every register but its destination, the trap registers, LST and BCD, and every register of the lanes that do not execute; with N it leaves the destination too. TRNX of its share may be set, or be on its way to be set after the run's end, by a set among the results of the run (R96), or by CVT, PACK and UNPK themselves. -/
def Obligations.RegisterFrame : Prop :=
  (∀ (i : Instr) (d : List Reg), RegisterRow i d → ∀ (s s1 t : State) (x : Ctx), GroupIssues i s x s1 → exec i s = .next t →
    ∃ G H, s.group? x.t x.g = some G ∧ SameButTrnx x.t x.g G.core G.trnxDue s t ∧ t.group? x.t x.g = some H ∧ RegsKept (formOf i).hdr.noWrite d x.ex G H) ∧
  (∀ (i : Instr) (d : List Reg), TrnxRow i d → ∀ (s s1 t : State) (x : Ctx), GroupIssues i s x s1 → exec i s = .next t →
    ∃ G H, s.group? x.t x.g = some G ∧ SameButTrnx x.t x.g G.core True s t ∧ t.group? x.t x.g = some H ∧ RegsKept (formOf i).hdr.noWrite d x.ex G H)

/-- R68 to R73, R78: what follows a performed instruction of a group changes nothing but that group, and of it no register but those that its effect names: the results due, its lanes' PCs, its run; and TRNX of its share where a set of it is among the results. What comes before it writes only the results that are due. -/
def Obligations.PerformedFrame : Prop :=
  (∀ (t g : Nat) (i : Instr) (s s1 : State) (x : Ctx), groupCtx t g i s = some (x, s1) →
    s1.cores = s.cores ∧ s1.pkg = s.pkg ∧
    ∃ G, s.group? t g = some G ∧ SameButTrnx t g G.core G.trnxDue s s1 ∧ s1.group? t g = some x.G ∧ SameTrapRegs G x.G ∧ SameRegs [] G.settled x.G.settled) ∧
  (∀ (x : Ctx) (s1 s2 : State) (e : Eff) (G : Group), s2.group? x.t x.g = some G →
    let t := (x.finish s1 e s2).tick
    SameButTrnx x.t x.g G.core ((∃ p ∈ x.run.pend, p.w = .trnx) ∨ ∃ y ∈ e.writes, y.2 = .trnx) s2 t ∧ ∃ H, t.group? x.t x.g = some H ∧ SameTrapRegs G H ∧
      SameRegs (if (formOf x.i).hdr.noWrite then [] else e.writes.filterMap (·.2.reg)) (G.commitAll x.run.pend) H.settled)

/-! ### Traps -/

/-- R374, R376, R377: a cause taken outside a handler, with TRAPVEC a slot: the frame records each lane's PC (EPC for an executing lane not performed, the slot after it for one performed), MEET, hold and predicates; CAUSE, EPC, EADDR and ELANES hold the cause; every live lane is runnable at TRAPVEC with MEET clear; the registers keep their values; what the group waited for it goes on waiting for, but a CWAIT, which the frame keeps, and its arrival at a BAR; where TRAPVEC lies in another bed, it then leaves for that (R318). Cause 0x04 and TRAPVEC 0 kill the team with the cause (R374), and so does a cause in a handler (R378); TRAPVEC that is no slot kills it with 0x03 (R409; that the kill comes before the entry is made is the model's reading, log 13). -/
def Obligations.TrapEntry : Prop :=
  ∀ (s : State) (t g : Nat) (x : Trap) (ex : Lanes) (epc : DWord) (T : Team) (G : Group), s.team? t = some T → T.group? g = some G → T.phase = .running →
    let u := s.takeTrap t g x ex epc
    let pinned := ((T.share? G.core).map (·.pinned)).getD none
    (x.cause = 0x04 ∨ G.inHandler = true ∨ T.trapvec = 0 → (u.team? t).map (·.phase) = some (.killed x.cause false)) ∧
    (x.cause ≠ 0x04 → G.inHandler = false → T.trapvec ≠ 0 → isSlot T.trapvec = false → (u.team? t).map (·.phase) = some (.killed 0x03 false)) ∧
    (x.cause ≠ 0x04 → G.inHandler = false → T.trapvec ≠ 0 → isSlot T.trapvec = true →
      SameButTrnx t g G.core G.trnxDue s u ∧ ∃ H fr, u.group? t g = some H ∧ H.frame = some fr ∧
        H.cause = causeWord x ∧ H.epc = epc ∧ (∀ a, x.eaddr = some a → H.eaddr = a) ∧
        H.elanes = (if x.src = .own ∨ x.src = .replay then (x.names.getD ex).setWidth 32 else 0) ∧
        H.inHandler = true ∧ H.run = none ∧ H.xs = [] ∧ H.counted = false ∧ H.log = G.log ∧
        H.parks = G.parks.filter (fun p => !p.isCwait && !p.isArrive) ++ (if T.launch.graft = true ∧ T.inBed pinned T.trapvec = false then [.away T.trapvec] else []) ∧ SameRegs [] G.settled H ∧
        (∀ l < 16, l < G.lanes.length → (G.settled.lane l).hold ≠ .exited → (H.lane l).pc = T.trapvec ∧ (H.lane l).hold = .runnable ∧ (H.lane l).meet = none) ∧
        fr.held = G.parks.filter Park.isCwait ∧ fr.counted = G.counted ∧ fr.epc = epc ∧ fr.xs = G.xs.take 8 ∧ fr.lanes.length = G.lanes.length ∧
        ∀ l < G.lanes.length, ∃ r, fr.lanes[l]? = some r ∧ r.meet = (G.settled.lane l).meet ∧ r.hold = (G.settled.lane l).hold ∧ r.p = (G.settled.lane l).p ∧
          r.pc = if inMask ex l = true then (if inMask x.performed l = true then nextSlot epc else epc) else (G.settled.lane l).pc)

/-- R379, R318: TRET outside a handler takes cause 0x02; in one the group waits for its outstanding accesses, and then, where it stays on its core, each lane that has not exited takes back the PC (the current EPC for a lane at the EPC of the entry), MEET, hold and predicates of the frame, and the latches come back. The releases that its masks and meetings then complete are made (R51, R54), and a group whose lanes are all held at one BAR arrives there (R58). -/
def Obligations.TrapReturn : Prop :=
  (∀ (w : RIWord) (s s1 : State) (x : Ctx), GroupIssues (.tret w) s x s1 →
    (x.G.inHandler = false → GroupTraps (.tret w) s x s1 { cause := 0x02 }) ∧
    (x.G.inHandler = true → GroupDoes (.tret w) s x s1 (s1.modGroup x.t x.g (fun G => { G with parks := G.parks ++ [.tret] })) { stay := true, ends := true })) ∧
  (∀ (s : State) (t g : Nat) (w : Who) (r : List Park) (fr : TrapFrame), s.who t g = some w → w.parked = true → w.G.parks = .tret :: r → w.G.log = [] →
    w.G.frame = some fr → (w.T.launch.graft = true → w.T.inBed w.sh.pinned w.G.epc = true) →
    Happens (.groupResume t g) s ((s.setTeam (w.T.setGroup (w.G.restore fr))).tryArrive t g)) ∧
  (∀ (G : Group) (fr : TrapFrame), ∃ H : Group, G.restore fr = H.settleMasks ∧
    H.inHandler = false ∧ H.frame = none ∧ H.run = none ∧ H.counted = fr.counted ∧ H.m = G.m ∧ H.lanes.length = G.lanes.length ∧ H.xs.map (fun y => (y.uni, y.vals)) = fr.xs.map (fun y => (y.uni, y.vals)) ∧
    ∀ l r, fr.lanes[l]? = some r → l < G.lanes.length →
      ((G.lane l).hold = .exited → H.lane l = G.lane l) ∧
      ((G.lane l).hold ≠ .exited → (H.lane l).pc = (if r.pc = fr.epc then G.epc else r.pc) ∧ (H.lane l).meet = r.meet ∧ (H.lane l).hold = r.hold ∧ (H.lane l).p = r.p ∧
        (H.lane l).v = (G.lane l).v)) ∧
  (∀ (G : Group) (l : Nat), (G.lane l).hold ≠ .meet → (∀ r, (G.lane l).hold ≠ .wait r) → G.settleMasks.lane l = G.lane l) ∧
  (∀ (G : Group) (r : Nat), r < 12 → spGet 0 G.m r ≠ 0 → (∀ l < 16, inMask (spGet 0 G.m r) l = true → (G.lane l).hold = .wait r) →
    spGet 0 G.settleMasks.m r = 0 ∧ ∀ l < 16, l < G.lanes.length → (G.lane l).hold = .wait r →
      (G.settleMasks.lane l).hold = .runnable ∧ (G.settleMasks.lane l).pc = nextSlot (G.lane l).pc)

/-! ### Slice threads and near memory -/

/-- R362, R364, R367, R369, R370, R528: NMLD loads a row of 256 bytes into four registers; NMST stores one and changes no other byte, in a row that no window sends; NMLOG copies the row and its address into a new undo entry and puts the step into the row's tag, once a step; NMCOMMIT clears the tags of every step up to its own; NMABORT aborts a step after its thread's, and fails with 0x02 otherwise; a misaligned row address fails with 0x16. The walk of a row's address sets A in its leaf, and for NMST D, before (R230). -/
def Obligations.NearMemory : Prop :=
  (∀ (i : Instr) (w : MWord), i = .nmld w ∨ i = .nmst w ∨ i = .nmlog w → ∀ (s : State) (x : ThCtx), ThreadIssues i s x → (x.env.addr w 0).toNat % 256 ≠ 0 →
    exec i s = .next (s.failThread x.th.slice x.th.num 0x16).tick) ∧
  (∀ (w : MWord) (s : State) (x : ThCtx) (pa : PAddr), ThreadIssues (.nmld w) s x → x.row w Need.load s = .inr pa → s.rowHeld pa = false → s.rowPoisoned pa = false →
    let m := (s.touch x.th.asn (x.env.addr w 0) false).mem
    ∃ t th, exec (.nmld w) s = .next t ∧ SameBytes m t.mem ∧ t.thread? x.th.slice x.th.num = some th ∧ th.pc = nextSlot x.th.pc ∧
      ∀ k < 4, ∀ l < 16, th.vreg (dstNum w.d + k) l = BitVec.ofNat 32 (m.num (pa.add (4 * (16 * k + l))) 4)) ∧
  (∀ (w : MWord) (s : State) (x : ThCtx) (pa : PAddr), ThreadIssues (.nmst w) s x → x.row w Need.store s = .inr pa → (s.marks pa).unmapped = false →
    s.tagPoisoned pa = false → s.rowUnlogged x.th pa = false → s.rowHeld pa = false → (∀ k < 256, (s.marks (pa.add k)).tx = false) →
    ∃ t, exec (.nmst w) s = .next t ∧ (∀ a : PAddr, (∀ k < 256, a.key ≠ (pa.add k).key) → t.mem.byte a = (s.touch x.th.asn (x.env.addr w 0) true).mem.byte a) ∧
      ∀ m < 4, ∀ l < 16, ∀ b < 4, t.mem.byte (pa.add (4 * (16 * m + l) + b)) = fld (x.env.v (srcNum w.b + m) l) (8 * b) 8) ∧
  (∀ (w : MWord) (s : State) (x : ThCtx) (pa : PAddr) (r : Region) (va : DWord), ThreadIssues (.nmlog w) s x → x.row w Need.load s = .inr pa →
    s.loggedRegion pa = some (r, va) → s.rowHeld pa = false → s.tagPoisoned pa = false → s.rowPoisoned pa = false →
    let tag := r.tagAt pa.unit va
    let u := s.undoOf x.th.slice
    let s2 := s.touch x.th.asn (x.env.addr w 0) false
    (s.tagStep tag = x.th.step.toNat + 1 → ThreadDoes (.nmlog w) s x s {}) ∧
    (∀ k, s.tagStep tag ≠ x.th.step.toNat + 1 → u.freeSlot = some k → x.th.step.toNat + 1 < 2 ^ 64 → u.slot k + 320 ≤ 2 ^ 30 → tag.off + 16 ≤ 2 ^ 30 → pa.store = .sram → pa.off + 256 ≤ 2 ^ 30 →
      pa.unit = x.th.slice / 128 → (tag.off + 16 ≤ u.slot k ∨ u.slot k + 320 ≤ tag.off) →
      ∃ t, exec (.nmlog w) s = .next t ∧ t.tagStep tag = x.th.step.toNat + 1 ∧ t.tagPtr tag = u.slot k ∧
        (let e := entryAt (x.th.slice / 128) (u.slot k)
         t.entryRow e = (x.env.addr w 0).toNat ∧ t.entryStep e = x.th.step.toNat ∧ t.entryPrev e = s2.tagPtr tag ∧ ∀ n < 256, t.mem.byte ((entryData e).add n) = s2.mem.byte (pa.add n))) ∧
    (s.tagStep tag ≠ x.th.step.toNat + 1 → u.freeSlot = none → exec (.nmlog w) s = .next (s.failThread x.th.slice x.th.num 0x4A).tick)) ∧
  (∀ (w : RIWord) (s : State) (x : ThCtx), ThreadIssues (.nmcommit w) s x →
    let n := (x.stepArg w).toNat
    ThreadDoes (.nmcommit w) s x (s.commitSteps n) {} ∧
    ∀ y ∈ s.loggedRows, s.tagStep (y.2.1.tagAt y.1 y.2.2) ≤ n + 1 → (s.commitSteps n).tagStep (y.2.1.tagAt y.1 y.2.2) = 0) ∧
  (∀ (w : RIWord) (s : State) (x : ThCtx), ThreadIssues (.nmabort w) s x →
    ((x.stepArg w).toNat ≤ x.th.step.toNat → exec (.nmabort w) s = .next (s.failThread x.th.slice x.th.num 0x02).tick) ∧
    (x.th.step.toNat < (x.stepArg w).toNat → ThreadDoes (.nmabort w) s x (s.abortStep x.th.task (x.stepArg w).toNat) {}))

/-! ### Fences, window counters, barriers, stages -/

/-- R268, R490, R265, R172, R495: a FENCE of release order at CLU scope or wider parks its group until its release work is done, where it is not; any other FENCE, and one whose work is done, only passes. One of release order makes the group's later relaxed stores and atomics releases: of CORE scope (1), or of a wider one (2; R265). HFLUSH whose release work is done takes the record out of the record caches in its scope, and out of no other; a fill of it that is in progress there goes on and is not kept. It is held until then. Three things are the model's choice: the hold at CORE scope too (log 69), that a fill in progress on the core of the HFLUSH goes on as one elsewhere does, and that what an HBIND's fill has come to is dropped (log 30). -/
def Obligations.Fences : Prop :=
  (∀ (w : RIWord) (s s1 : State) (x : Ctx), GroupIssues (.fence w) s x s1 →
    let s2 := s1.bumpStamp
    let n := if w.var.getLsbD 1 = false ∨ fldN w.var 2 3 < 2 then 0 else if fldN w.var 2 3 = 2 then 1 else 2
    let s3 := s2.modGroup x.t x.g (fun G => { G with relFence := max G.relFence n })
    (w.var.getLsbD 1 = false ∨ fldN w.var 2 3 < 3 ∨ s3.relDone x.c x.t x.g s3.ctl.stamp = true → GroupDoes (.fence w) s x s1 s3 {}) ∧
    (w.var.getLsbD 1 = true → 3 ≤ fldN w.var 2 3 → s3.relDone x.c x.t x.g s3.ctl.stamp = false →
      GroupDoes (.fence w) s x s1 (s3.modGroup x.t x.g (fun G => { G with parks := G.parks ++ [.release s3.ctl.stamp] })) {})) ∧
  (∀ (w : RIWord) (s s1 : State) (x : Ctx), GroupIssues (.hflush w) s x s1 →
    let a := recordAddr x.T.recbase (x.handle s1 (srcNum w.a))
    (s1.relDone x.c x.t x.g (s1.ctl.stamp + 1) = true → ∃ s2, GroupDoes (.hflush w) s x s1 s2 {} ∧ s2.mem = s1.mem ∧ ∀ k,
      (∀ e, e ∈ (s2.core k).recs ↔ e ∈ (s1.core k).recs ∧ (inScope w.var.toNat x.c k = true → ¬ (e.asn = x.T.asn ∧ e.addr = a))) ∧
      (∀ e, inScope w.var.toNat x.c k = false ∨ e.asn ≠ x.T.asn ∨ e.addr ≠ a → (e ∈ (s2.core k).fills ↔ e ∈ (s1.core k).fills)) ∧
      (inScope w.var.toNat x.c k = true → (∀ e ∈ (s1.core k).fills, e.asn = x.T.asn → e.addr = a → e.open_ = true → { e with keep := false } ∈ (s2.core k).fills) ∧
        ∀ e ∈ (s2.core k).fills, e.asn = x.T.asn → e.addr = a → e.keep = false ∧ (e.by_ ≠ none ∨ e.open_ = true))) ∧
    (s1.relDone x.c x.t x.g (s1.ctl.stamp + 1) = false → GroupHolds (.hflush w) s x s1))

/-- R336, R473, R555: WCNT, CWAIT and RFENCE take cause 0x02 for a window number above 4095 and 0x58 for one not mapped; a selector beyond 67, or 65 for CWAIT, takes cause 0x02; WCNT gives its counter, and cause 0x02 for one that the window does not have; CWAIT gives 0 where the counter has reached the target, 2 where the member is lost, 1 where it is late, and parks its group otherwise; RFENCE, its release work done and all captures sent, gives the lost destinations, and parks its group while its release work is not done. Read from the manual by inference, and the model's: that 0x58 comes before a test of the selector, be it in a register or not (log 24, 25), that RFENCE asks of the window's own counters (log 34), and that when a result that needs no park is written, within the run, is open (log 84). -/
def Obligations.WindowCounters : Prop :=
  (∀ (w : RIWord) (s s1 : State) (x : Ctx), GroupIssues (.wcnt w) s x s1 →
    let sel := (x.env.src w.b 0).toNat
    let n := (x.env.src w.a 0).toNat
    (4096 ≤ n → GroupTraps (.wcnt w) s x s1 { cause := 0x02 }) ∧
    (n < 4096 → s1.window? n = none → GroupTraps (.wcnt w) s x s1 { cause := 0x58 }) ∧
    (∀ win, n < 4096 → s1.window? n = some win →
      (67 < sel → GroupTraps (.wcnt w) s x s1 { cause := 0x02 }) ∧
      ((win.copyOf (dieOf x.c)).value win sel = none → GroupTraps (.wcnt w) s x s1 { cause := 0x02 }) ∧
      (∀ v, sel ≤ 67 → (win.copyOf (dieOf x.c)).value win sel = some v → GroupDoes (.wcnt w) s x s1 s1 { writes := destWrites w.d true 12 x.ex (laneList.map (fun _ => v)) }))) ∧
  (∀ (w : RIWord) (s s1 : State) (x : Ctx), GroupIssues (.cwait w) s x s1 →
    let sel := (x.env.src w.b 0).toNat
    let n := (x.env.src w.a 0).toNat
    let target := x.env.src64 w.c 0
    let expires := expiryOf s1.pkg.time (x.env.s w.xf.toNat)
    (4096 ≤ n → GroupTraps (.cwait w) s x s1 { cause := 0x02 }) ∧
    (n < 4096 → s1.window? n = none → GroupTraps (.cwait w) s x s1 { cause := 0x58 }) ∧
    (∀ win, n < 4096 → s1.window? n = some win → 65 < sel ∨ win.counters.value win sel = none → GroupTraps (.cwait w) s x s1 { cause := 0x02 }) ∧
    (∀ win v, sel ≤ 65 → n < 4096 → s1.window? n = some win → win.counters.value win sel = some v →
      let c := win.copyOf (dieOf x.c)
      let hit : Prop := ∃ y, c.value win sel = some y ∧ reached y target = true
      let lost : Prop := sel < 64 ∧ c.rxLive.getLsbD sel = false
      let late : Prop := expires ≠ BitVec.allOnes 64 ∧ expires.toNat ≤ s1.pkg.time.toNat
      let gives (r : DWord) : Prop := GroupDoes (.cwait w) s x s1 s1 { writes := destWrites w.d true (waitLatency s1) x.ex (laneList.map (fun _ => r)) }
      (hit → gives 0) ∧ (¬ hit → lost → gives 2) ∧ (¬ hit → ¬ lost → late → gives 1) ∧
      (¬ hit → ¬ lost → ¬ late →
        GroupDoes (.cwait w) s x s1 (s1.modGroup x.t x.g (fun G => { G with parks := G.parks ++ [.cwait win.id sel target expires (dstNum w.d) x.pc x.ex] })) { stay := true }))) ∧
  (∀ (w : RIWord) (s s1 : State) (x : Ctx), GroupIssues (.rfence w) s x s1 →
    let n := (x.env.src w.a 0).toNat
    let s2 := s1.bumpStamp
    (4096 ≤ n → GroupTraps (.rfence w) s x s1 { cause := 0x02 }) ∧
    (n < 4096 → s1.window? n = none → GroupTraps (.rfence w) s x s1 { cause := 0x58 }) ∧
    (∀ win, n < 4096 → s1.window? n = some win →
      (win.tx = false → GroupTraps (.rfence w) s x s1 { cause := 0x02 }) ∧
      (win.tx = true → win.mode ≠ 2 → s2.relDone x.c x.t x.g s2.ctl.stamp = true → reached win.sent win.captured = true →
        GroupDoes (.rfence w) s x s1 s2 { writes := destWrites w.d true (waitLatency s1) x.ex (laneList.map (fun _ => win.lostMask)) }) ∧
      (win.tx = true → s2.relDone x.c x.t x.g s2.ctl.stamp = false →
        GroupDoes (.rfence w) s x s1 (s2.modGroup x.t x.g (fun G => { G with parks := G.parks ++ [.rfence win.id s2.ctl.stamp none (dstNum w.d)] })) {})))

/-- R57 to R61: BAR with a count outside 1 to 4112 takes cause 0x02. A group's lanes are held at it; lanes of the group held at another BAR, or a count that differs from the barrier's, give cause 0x30. A group makes its arrival once its release work is done. An arrival below the count is counted; the one that completes it flips the generation, and lets every group that has arrived go on, in a handler those lanes that its trap frame records as held. -/
def Obligations.Barriers : Prop :=
  (∀ (w : RIWord) (s s1 : State) (x : Ctx), GroupIssues (.bar w) s x s1 →
    let c := (x.env.src w.b 0).toNat
    let b := srcNum w.a
    let others (l : Nat) : Prop := l < 16 ∧ (x.G.lane l).hold ≠ .exited ∧ inMask x.ex l = false
    let held := s1.modGroup x.t x.g (fun G => G.modLanes x.ex (fun _ L => { L with hold := .bar b c }))
    (c < 1 ∨ 4112 < c → GroupTraps (.bar w) s x s1 { cause := 0x02 }) ∧
    (1 ≤ c → c ≤ 4112 →
      ((∃ l b' c', others l ∧ (x.G.lane l).hold = .bar b' c' ∧ (b' ≠ b ∨ c' ≠ c)) → GroupTraps (.bar w) s x s1 { cause := 0x30 }) ∧
      ((∀ l, others l → ∀ b' c', (x.G.lane l).hold = .bar b' c' → b' = b ∧ c' = c) →
        ((∃ l, others l ∧ (x.G.lane l).hold ≠ .bar b c) → GroupDoes (.bar w) s x s1 held { drop := x.ex }) ∧
        ((∀ l, others l → (x.G.lane l).hold = .bar b c) →
          (s1.relDone x.c x.t x.g (s1.ctl.stamp + 1) = true → (x.T.bar b).refuses c = true → GroupTraps (.bar w) s x s1 { cause := 0x30 }) ∧
          (s1.relDone x.c x.t x.g (s1.ctl.stamp + 1) = false ∨ (x.T.bar b).refuses c = false →
            GroupDoes (.bar w) s x s1 (held.arriveWith x.t x.g x.ex x.pc) { drop := x.ex }))))) ∧
  (∀ (s : State) (t g b c : Nat) (ls : Lanes) (pc : DWord) (T : Team) (G : Group) (sh : Share), s.team? t = some T → T.group? g = some G → T.share? G.core = some sh →
    G.allAtBar = some (b, c) → G.counted = false → G.parks.any Park.isArrive = false →
    (s.relDone sh.core t g (s.ctl.stamp + 1) = false →
      s.arriveWith t g ls pc = s.modGroup t g (fun G => { G with parks := G.parks ++ [.arrive (s.ctl.stamp + 1) ls pc] })) ∧
    (s.relDone sh.core t g (s.ctl.stamp + 1) = true → (T.bar b).refuses c = false → s.arriveWith t g ls pc = s.setTeam ((T.setGroup { G with counted := true }).arrive b c)) ∧
    (s.relDone sh.core t g (s.ctl.stamp + 1) = true → (T.bar b).refuses c = true →
      s.arriveWith t g ls pc = (s.modGroup t g (fun G => G.modLanes ls (fun _ L => { L with hold := .runnable }))).takeTrap t g { cause := 0x30 } ls pc)) ∧
  (∀ (w : RIWord) (s : State) (x : SeqCtx), SeqIssues (.bar w) s x →
    let c := (x.env.src w.b 0).toNat
    (c < 1 ∨ 4112 < c → exec (.bar w) s = .next (s.seqTrap x.t x.j 0x02).tick) ∧
    (1 ≤ c → c ≤ 4112 → exec (.bar w) s = .next ((s.modSeq x.t x.j (fun q => { q with st := .bar (srcNum w.a) c false })).seqArrive x.t x.j).tick)) ∧
  (∀ (T : Team) (b c : Nat),
    let n := if (T.bar b).count = 0 then 1 else (T.bar b).arrived + 1
    (n < c → (T.arrive b c).bar b = { T.bar b with count := c, arrived := n } ∧ (T.arrive b c).groups = T.groups) ∧
    (c ≤ n → (T.arrive b c).bar b = { count := 0, arrived := 0, gen := !(T.bar b).gen } ∧
      (T.arrive b c).groups = T.groups.map (fun G => G.barRelease b c)) ∧
    ∀ b', b' ≠ b → (T.arrive b c).bar b' = T.bar b') ∧
  (∀ (G : Group) (b c : Nat),
    (G.counted = true → G.allAtBar = some (b, c) → (G.barRelease b c).lanes = (G.freeLanes (.bar b c)).lanes ∧ (G.barRelease b c).counted = false) ∧
    (G.counted = false ∨ G.allAtBar ≠ some (b, c) → (G.barRelease b c).lanes = G.lanes ∧ (G.barRelease b c).counted = G.counted) ∧
    (∀ f, G.frame = some f → f.counted = true → G.frameAtBar = some (b, c) → (G.barRelease b c).frame = some { f.freeLanes (.bar b c) with counted := false }) ∧
    (∀ f, G.frame = some f → f.counted = false → (G.barRelease b c).frame = some f)) ∧
  (∀ (G : Group) (h : Hold) (l : Nat), l < 16 → l < G.lanes.length → (G.lane l).hold = h → ((G.free h).lane l).hold = .runnable ∧ ((G.free h).lane l).pc = nextSlot (G.lane l).pc)

/-- R63, R64, R549: a ring above 7 or a stage above 15 takes cause 0x02. STGWAIT passes where its stage is what it waits for (FULL; or EMPTY with no copy bound to it on the way), and holds the executing lanes, or the sequencer, otherwise. STGFREE of a stage that is not FULL takes cause 0x32; one of a FULL stage whose release work is done makes it EMPTY, that of a sequencer once the matrix instructions before it have read their operands (R65). Where a group's release work is not done, the emptying waits for it in the core's queue, and until it is made the stage counts as freed, for a STGFREE and a STGWAIT alike (the model's choice, log 31). -/
def Obligations.Stages : Prop :=
  (∀ (i : Instr) (w : RIWord) (full : Bool), (i = .stgwaitEmpty w ∧ full = false ∨ i = .stgwaitFull w ∧ full = true) →
    (∀ (s s1 : State) (x : Ctx), GroupIssues i s x s1 →
      let r := (x.env.src w.a 0).toNat
      let k := (x.env.src w.b 0).toNat
      let here : Prop := if full then (x.T.stage r k).full = true ∧ s1.stageFreed x.T.id r k = false else (x.T.stage r k).full = false ∧ (x.T.stage r k).pending = 0
      (7 < r ∨ 15 < k → GroupTraps i s x s1 { cause := 0x02 }) ∧
      (r ≤ 7 → k ≤ 15 → here → GroupDoes i s x s1 s1 {}) ∧
      (r ≤ 7 → k ≤ 15 → ¬ here → GroupDoes i s x s1 (s1.modGroup x.t x.g (fun G => G.modLanes x.ex (fun _ L => { L with hold := .stg r k full }))) {})) ∧
    (∀ (s : State) (x : SeqCtx), SeqIssues i s x →
      let r := (x.env.src w.a 0).toNat
      let k := (x.env.src w.b 0).toNat
      let here : Prop := if full then (x.T.stage r k).full = true ∧ s.stageFreed x.T.id r k = false else (x.T.stage r k).full = false ∧ (x.T.stage r k).pending = 0
      (r ≤ 7 → k ≤ 15 → here → SeqDoes i s x s {}) ∧
      (r ≤ 7 → k ≤ 15 → ¬ here → exec i s = .next (s.modSeq x.t x.j (fun q => { q with st := .stg r k full })).tick))) ∧
  (∀ (w : RIWord) (s s1 : State) (x : Ctx), GroupIssues (.stgfree w) s x s1 →
    let r := (x.env.src w.a 0).toNat
    let k := (x.env.src w.b 0).toNat
    (7 < r ∨ 15 < k → GroupTraps (.stgfree w) s x s1 { cause := 0x02 }) ∧
    (r ≤ 7 → k ≤ 15 → (x.T.stage r k).full = false ∨ s1.stageFreed x.t r k = true → GroupTraps (.stgfree w) s x s1 { cause := 0x32 }) ∧
    (r ≤ 7 → k ≤ 15 → (x.T.stage r k).full = true → s1.stageFreed x.t r k = false → s1.relDone x.c x.t x.g (s1.ctl.stamp + 1) = false →
      ∃ t e, exec (.stgfree w) s = .next t ∧ (t.core x.c).sq = (s.core x.c).sq ++ [e] ∧ e.stage = some (r, k) ∧ e.rel = true ∧
        (t.team? x.t).map (fun T => T.stage r k) = some (x.T.stage r k)) ∧
    (r ≤ 7 → k ≤ 15 → (x.T.stage r k).full = true → s1.stageFreed x.t r k = false → s1.relDone x.c x.t x.g (s1.ctl.stamp + 1) = true →
      ∃ t, exec (.stgfree w) s = .next t ∧ (t.team? x.t).map (fun T => T.stage r k) = some { x.T.stage r k with full := false } ∧
        ∀ r' k', r' ≤ 7 → k' ≤ 15 → (r', k') ≠ (r, k) → (t.team? x.t).map (fun T => T.stage r' k') = some (x.T.stage r' k'))) ∧
  (∀ (w : RIWord) (s : State) (x : SeqCtx), SeqIssues (.stgfree w) s x →
    let read : Prop := x.sh.mul.waiting = none ∧ x.sh.drain.waiting = none ∧ (∀ m, x.sh.mul.started = some m → m.held = false) ∧ ∀ m, x.sh.drain.started = some m → m.held = false
    let r := (x.env.src w.a 0).toNat
    let k := (x.env.src w.b 0).toNat
    (7 < r ∨ 15 < k → exec (.stgfree w) s = .next (s.seqTrap x.t x.j 0x02).tick) ∧
    (r ≤ 7 → k ≤ 15 → ¬ read → exec (.stgfree w) s = .next s.tick) ∧
    (r ≤ 7 → k ≤ 15 → read → (x.T.stage r k).full = false ∨ s.stageFreed x.t r k = true → exec (.stgfree w) s = .next (s.seqTrap x.t x.j 0x32).tick) ∧
    (r ≤ 7 → k ≤ 15 → read → (x.T.stage r k).full = true → s.stageFreed x.t r k = false → SeqDoes (.stgfree w) s x (s.emptyStage x.t r k) {}))

/-! ### Handles, ranges and tiles -/

/-- R162, R171, R494, R496, R131, R137, R506, R508: HBIND takes cause 0x02 for a handle above 65535; else it writes its register, and starts a fill of the record where that is neither cached nor being filled for it (that it leaves the order of use of a cached record alone is the model's choice, log 68, and so is that it begins none where an earlier fill of its team has failed and no use has reported it yet, log 95). HINFO takes cause 0x02 for a number above 47; of a cached record it gives the word; a failed fill that its group waits for gives its cause. LCHK and LBCD take cause 0x02 for a type that is not their table's (which types those are is the model's reading, log 35) and for a handle number above 15; LCHK writes the class to LST and LBCD the degree to BCD. -/
def Obligations.HandlesAndChecks : Prop :=
  (∀ (b : DWord) (h : Half), b.toNat % 64 = 0 → recordAddr b h = b + BitVec.ofNat 64 (192 * h.toNat)) ∧
  (∀ (w : RIWord) (s s1 : State) (x : Ctx), GroupIssues (.hbind w) s x s1 →
    let v := if w.isImm then w.imm else x.env.src w.a 0
    let a := recordAddr x.T.recbase (v.setWidth 16)
    let known : Prop := (∃ e ∈ (s1.core x.c).recs, e.asn = x.T.asn ∧ e.addr = a) ∨ (∃ f ∈ (s1.core x.c).fills, f.asn = x.T.asn ∧ f.addr = a ∧ f.t = x.t ∧ f.by_ = none ∧ f.keep = true)
    (65536 ≤ v.toNat → GroupTraps (.hbind w) s x s1 { cause := 0x02 }) ∧
    (v.toNat < 65536 → ∃ s2, GroupDoes (.hbind w) s x s1 s2 { writes := [(1, .h (dstNum w.d) (v.setWidth 16))] } ∧
      (known → s2 = s1) ∧
      (¬ known → (s2.core x.c).fills = (s1.core x.c).fills ++ [{ asn := x.T.asn, addr := a, t := x.t, by_ := none, keep := true, cause := none, image := none }] ∧ (s2.core x.c).recs = (s1.core x.c).recs ∧ s2.mem = s1.mem))) ∧
  (∀ (w : RIWord) (s : State) (x : SeqCtx), SeqIssues (.hbind w) s x →
    let v := if w.isImm then w.imm else x.env.src w.a 0
    (65536 ≤ v.toNat → exec (.hbind w) s = .next (s.seqTrap x.t x.j 0x02).tick) ∧
    (v.toNat < 65536 → ∃ t, exec (.hbind w) s = .next t ∧
      ((t.team? x.t).bind (fun T => T.share? x.j)).map (fun sh => (sh.seq.pc, sh.seq.h, sh.seq.q, sh.seq.l)) =
        some (nextSlot x.pc, spPut 0 x.sh.seq.h (dstNum w.d) (v.setWidth 16), x.sh.seq.q, x.sh.seq.l) ∧
      let a := recordAddr x.T.recbase (v.setWidth 16)
      ((∀ e ∈ (s.core x.sh.core).recs, ¬ (e.asn = x.T.asn ∧ e.addr = a)) → (∀ f ∈ (s.core x.sh.core).fills, ¬ (f.asn = x.T.asn ∧ f.addr = a ∧ f.t = x.t ∧ f.by_ = none ∧ f.keep = true)) →
        (t.core x.sh.core).fills = (s.core x.sh.core).fills ++ [{ asn := x.T.asn, addr := a, t := x.t, by_ := none, keep := true, cause := none, image := none }]))) ∧
  (∀ (w : RIWord) (s s1 : State) (x : Ctx), GroupIssues (.hinfo w) s x s1 →
    let f := (x.env.src w.b 0).toNat
    let a := recordAddr x.T.recbase (x.handle s1 (srcNum w.a))
    (47 < f → GroupTraps (.hinfo w) s x s1 { cause := 0x02 }) ∧
    (∀ e, f ≤ 47 → (s1.core x.c).recs.find? (·.isFor x.T.asn a) = some e →
      ∃ s2, s2.mem = s1.mem ∧ GroupDoes (.hinfo w) s x s1 s2 { writes := destWrites w.d false 4 x.ex (laneList.map (fun _ => BitVec.ofNat 64 (recNum e.image (4 * f) 4))) }) ∧
    (∀ e c, f ≤ 47 → (s1.core x.c).recs.find? (·.isFor x.T.asn a) = none → (s1.core x.c).fills.find? (·.serves x.T.asn a x.t (.group x.t x.g)) = some e → e.cause = some c → c ≠ 0x50 →
      ∃ s2, s2.mem = s1.mem ∧ GroupTraps (.hinfo w) s x s2 { cause := c })) ∧
  (∀ (i : Instr) (w : RIWord) (lst : Bool), (i = .lchk w ∧ lst = true ∨ i = .lbcd w ∧ lst = false) → ∀ (s s1 : State) (x : Ctx), GroupIssues i s x s1 →
    let y := x.layout s1 (srcNum w.a)
    let L := layoutOf y
    let table := w.xf.toNat
    let t := w.t.toNat
    let bits := if L.esz = 0 then codeBits t else eszBits L.esz
    let gives (s2 : State) (r : RegWrite) : Prop := GroupDoes i s x s1 s2 { writes := [(6, r)] }
    (L.kind = 0 → 15 < srcNum w.b → GroupTraps i s x s1 { cause := 0x02 }) ∧
    (checkType table t L.esz = false → GroupTraps i s x s1 { cause := 0x02 }) ∧
    ((L.kind = 0 → srcNum w.b ≤ 15) → checkType table t L.esz = true →
      (L.kind = 1 → lst = true → gives s1 (.lst (lstWord (classify table (kOfType t) L (linearView x.sh.scratchLen bits) true) table))) ∧
      (L.kind = 3 → lst = false → gives s1 (.bcd (bcdWord 1 0))) ∧
      (∀ s2 v, checkSide w x s1 y = .ok s2 v →
        let o := checkOperand v table t x.sh.scratchLen
        (lst = true → gives s2 (.lst (lstWord (classify table (kOfType t) o.L o.V o.ok) table))) ∧
        (lst = false → L.kind ≠ 3 → gives s2 (.bcd (bcdWord (v.degree o x.T x.sh (tableBeat table o.bits) ((upFrom 0 L.size).map (L.pos o.V))) 0)))) ∧
      (∀ s2 c, checkSide w x s1 y = .cause s2 c → c ≠ 0x50 → GroupTraps i s x s2 { cause := c })))

/-- R174 to R176, R179, R195, R455, R456: OBRES takes cause 0x02 for a type that is not listed and 0x41 for an unlawful range; a lawful one becomes reserved, its bytes zero, and no other byte of memory and no other range changes. OBREL takes cause 0x41 for a range that is not reserved; it makes the range releasing while a command names it, and free otherwise. AXFR takes cause 0x02 for a row above 63 and 0x41 for a tile that the share does not have; AXFR.RD gives the words of the row, AXFR.WR writes those of its executing lanes and no other byte. -/
def Obligations.RangesAndTiles : Prop :=
  (∀ (w : RIWord) (s s1 : State) (x : Ctx), GroupIssues (.obres w) s x s1 →
    let v (i : Nat) : Nat := (x.env.s (srcNum w.a + i)).toNat
    let n := dstNum w.d
    let form := x.env.s (srcNum w.a + 2)
    let base := x.sh.obufBase + v 0
    let scale (bit : Nat) (o : Nat) : Prop := (form.getLsbD bit = true → o % 16 = 0 ∧ o < v 1) ∧ (form.getLsbD bit = false → o = 0)
    let lawful : Prop := (x.sh.range n).st = .free ∧ v 0 % 512 = 0 ∧ v 1 % 512 = 0 ∧ v 1 ≠ 0 ∧ v 0 + v 1 ≤ x.sh.obufLen ∧
      (∀ q ∈ x.sh.ranges, q.2.st = .free ∨ q.2.base + q.2.len ≤ base ∨ base + v 1 ≤ q.2.base) ∧ scale 16 (v 3) ∧ scale 17 (v 4) ∧ scale 18 (v 5) ∧
      (fldN form 8 3 = 0 ∨ fldN form 8 3 = 5) ∧ (form.getLsbD 16 = true ↔ fldN form 8 3 = 5) ∧ fldN form 5 3 = 0 ∧ fldN form 11 5 = 0 ∧ fldN form 19 13 = 0
    (typeListed (fldN form 0 5) = false → GroupTraps (.obres w) s x s1 { cause := 0x02 }) ∧
    (typeListed (fldN form 0 5) = true → ¬ lawful → GroupTraps (.obres w) s x s1 { cause := 0x41 }) ∧
    (typeListed (fldN form 0 5) = true → lawful → ∃ t sh, exec (.obres w) s = .next t ∧ (t.team? x.t).bind (fun T => T.share? x.G.core) = some sh ∧
      sh.range n = { base := base, len := v 1, form := form, bsoff := v 3, rsoff := v 4, csoff := v 5, st := .reserved } ∧
      (∀ m, m ≠ n → sh.range m = x.sh.range m) ∧
      (∀ k < v 1, t.mem.byte { store := .obuf, unit := x.c, off := base + k } = 0) ∧
      (∀ a : PAddr, (∀ k < v 1, a.key ≠ ({ store := .obuf, unit := x.c, off := base + k } : PAddr).key) → t.mem.byte a = s.mem.byte a))) ∧
  (∀ (w : RIWord) (s s1 : State) (x : Ctx), GroupIssues (.obrel w) s x s1 →
    let n := srcNum w.a
    ((x.sh.range n).st ≠ .reserved → GroupTraps (.obrel w) s x s1 { cause := 0x41 }) ∧
    ((x.sh.range n).st = .reserved → spWf RangeRec.free x.sh.ranges = true → ∃ t sh, exec (.obrel w) s = .next t ∧ (t.team? x.t).bind (fun T => T.share? x.G.core) = some sh ∧
      SameBytes s.mem t.mem ∧
      (s1.rangeBusy x.t x.G.core x.sh n = true → sh.range n = { x.sh.range n with st := .releasing }) ∧
      (s1.rangeBusy x.t x.G.core x.sh n = false → sh.range n = RangeRec.free) ∧
      ∀ m, m ≠ n → (x.sh.range m).st ≠ .releasing → sh.range m = x.sh.range m)) ∧
  (∀ (i : Instr) (w : RIWord), i = .axfrRd w ∨ i = .axfrWr w → ∀ (s s1 : State) (x : Ctx), GroupIssues i s x s1 →
    let n := (x.env.src w.a 0).toNat
    let r := (x.env.src w.b 0).toNat
    (63 < r → GroupTraps i s x s1 { cause := 0x02 }) ∧
    (r ≤ 63 → x.sh.tiles.length ≤ n → GroupTraps i s x s1 { cause := 0x41 })) ∧
  (∀ (w : RIWord) (s s1 : State) (x : Ctx), GroupIssues (.axfrRd w) s x s1 →
    let n := (x.env.src w.a 0).toNat
    let r := (x.env.src w.b 0).toNat
    r ≤ 63 → n < x.sh.tiles.length →
      GroupDoes (.axfrRd w) s x s1 s1 { writes := (upFrom 0 4).map (fun m => (8 + m, .v (dstNum w.d + m) x.ex
        (laneList.map (fun l => BitVec.ofNat 32 (s1.mem.num { store := .acc, unit := x.c, off := 16384 * nth 0 x.sh.tiles n + 256 * r + 4 * (16 * m + l) } 4))))) }) ∧
  (∀ (w : RIWord) (s s1 : State) (x : Ctx), GroupIssues (.axfrWr w) s x s1 →
    let n := (x.env.src w.a 0).toNat
    let r := (x.env.src w.b 0).toNat
    let at_ (m l b : Nat) : PAddr := { store := .acc, unit := x.c, off := 16384 * nth 0 x.sh.tiles n + 256 * r + 4 * (16 * m + l) + b }
    r ≤ 63 → n < x.sh.tiles.length → 16384 * nth 0 x.sh.tiles n + 16384 ≤ 2 ^ 30 → ∃ t, exec (.axfrWr w) s = .next t ∧
      (∀ m < 4, ∀ l < 16, inMask x.ex l = true → ∀ b < 4, t.mem.byte (at_ m l b) = fld (x.env.v (srcNum w.c + m) l) (8 * b) 8) ∧
      (∀ a : PAddr, (∀ m < 4, ∀ l < 16, inMask x.ex l = true → ∀ b < 4, a.key ≠ (at_ m l b).key) → t.mem.byte a = s.mem.byte a))


/-! ### Copy commands -/

/-- R244, R246, R253, R254, R466, R468: a CPYF of 8-byte elements whose fill register names no pair takes cause 0x02 first (R411); a copy command whose sides are open takes the first cause of its checks, with LST written, also where it traps; one that finds its queue full is held in its slot, with LST as it was; one that passes them joins its core's queue with what it read, counts on its stage, and changes no byte of memory. The command at the head of a queue starts once its group's earlier accesses, and the earlier stores of its core (R258, R264), are performed and the command before it has ended. A CPYF into team space leaves the fill value in every element in bounds and changes no other byte. Completion writes the last beat and BCD, takes the command's count off its stage, which is full at zero, and frees the engine. -/
def Obligations.Copies : Prop :=
  (∀ (i : Instr) (w : EWord) (k : CopyOp),
    (i = .cpy w ∧ k = .cpy ∨ i = .cpygGth w ∧ k = .gth ∨ i = .cpygSct w ∧ k = .sct ∨ i = .cpyz w ∧ k = .cpyz ∨ i = .cpyf w ∧ k = .cpyf) →
    ∀ (s s1 : State) (x : Ctx), GroupIssues i s x s1 →
      let sf := suffixesOf w x.env
      let fr := fillReg w
      let none_ : SideVal := { sel := 0, num := 0, lay := 0, recAddr := 0, image := none, range := none }
      let m0 : CopyCmd := { plainCmd i x.t x.g x.G.core x.T.asn none_ with
        dim := w.dim.toNat, fill := x.env.s (fr + 1) ++ x.env.s fr, ver := sf.ver, stage := sf.stage, tdec := sf.tdec.map BitVec.toNat, sts := sf.sts.map BitVec.toNat }
      let odd : Prop := k = .cpyf ∧ eszBits (layoutOf (x.layout s1 w.dside.lay.toNat)).esz = 64 ∧ (fr % 2 = 1 ∨ (x.T.launch.budget x.G.role).2.1 < fr + 2)
      (odd → GroupTraps i s x s1 { cause := 0x02 }) ∧
      (∀ c, ¬ odd → sf.cause x.sh.scratchLen = some c → GroupTraps i s x s1 { cause := c }) ∧
      (¬ odd → sf.cause x.sh.scratchLen = none →
        (∀ s2 c, copyOpen w k x s1 m0 = .cause s2 c → c ≠ 0x50 → GroupTraps i s x s2 { cause := c }) ∧
        (∀ s2, copyOpen w k x s1 m0 = .stall s2 → GroupHolds i s x s2) ∧
        (∀ s2 m, copyOpen w k x s1 m0 = .ok s2 m →
          let chk := s2.copyChecks x.T x.sh m
          (∀ c, chk.2 = some c → GroupTraps i s x (s2.modGroup x.t x.g (fun G => G.write (.lst chk.1))) { cause := c }) ∧
          (chk.2 = none → 64 ≤ (s2.core x.c).cq.length + (if (s2.core x.c).cur.isSome then 1 else 0) → GroupHolds i s x s2) ∧
          (chk.2 = none → (s2.core x.c).cq.length + (if (s2.core x.c).cur.isSome then 1 else 0) < 64 →
            ∃ t n, exec i s = .next t ∧ SameBytes s.mem t.mem ∧ (t.core x.c).cq = (s2.core x.c).cq ++ [n] ∧
              n = { m with order := n.order, owned := n.owned, absent := n.absent } ∧
              (∀ r g, sf.stage = some (r, g) → (t.team? x.t).map (fun T => T.stage r g) = some { x.T.stage r g with pending := (x.T.stage r g).pending + 1 }))))) ∧
  (∀ (s : State) (core : Nat) (m : CopyCmd) (rest : List CopyCmd) (T : Team) (sh : Share), (s.core core).cq = m :: rest → (s.core core).cur = none →
    s.team? m.t = some T → T.share? m.j = some sh →
    ((T.phase ≠ .running ∨ s.relDone core m.t m.g m.order = false) → Happens (.copyStart core) s s) ∧
    (T.phase = .running → s.relDone core m.t m.g m.order = true → ∀ s2,
      (∀ f, s.runCopy T sh m = .started s2 f → Happens (.copyStart core) s (s2.modCore core (fun k => { k with cq := rest, cur := some f }))) ∧
      (∀ c a, s.runCopy T sh m = .fault s2 c a → Happens (.copyStart core) s (s2.engineTrap core m c a)) ∧
      (s.runCopy T sh m = .gone s2 → Happens (.copyStart core) s s2) ∧
      (s.runCopy T sh m = .wait s2 → Happens (.copyStart core) s s2))) ∧
  (∀ (s s2 : State) (T : Team) (sh : Share) (m : CopyCmd) (f : InFlight), copyOpOf m.op = .cpyf → m.src = none → m.index = none →
    m.dst.sel = 0 → m.dst.image = none → m.dst.range = none → s.runCopy T sh m = .started s2 f →
    let d := m.dstOp sh.scratchLen
    let at_ (i b : Nat) : PAddr := (sh.place (BitVec.ofInt 64 (d.L.pos d.V i).off).toNat).add b
    let mem := (s2.engineWrite f.last).mem
    8 ≤ d.bits →
      (∀ i < d.L.size, (d.L.pos d.V i).inb = true → ∀ b < d.bits / 8, mem.byte (at_ i b) = fld m.fill (8 * b) 8) ∧
      (∀ a : PAddr, (∀ i < d.L.size, (d.L.pos d.V i).inb = true → ∀ b < d.bits / 8, a.key ≠ (at_ i b).key) → mem.byte a = s.mem.byte a)) ∧
  (∀ (s : State) (core : Nat) (f : InFlight) (T : Team) (sh : Share), (s.core core).cur = some f → s.team? f.cmd.t = some T → T.share? f.cmd.j = some sh →
    ∃ t, exec (.copyCompletion core) s = .next t ∧ (t.core core).cur = none ∧ (t.core core).cq = (s.core core).cq ∧
      (f.captures = [] → f.cmd.sts = none → SameBytes (s.engineWrite f.last).mem t.mem) ∧
      (∀ G, T.group? f.cmd.g = some G → (t.group? f.cmd.t f.cmd.g).map (fun H => H.bcd) = some (bcdWord f.degree 2)) ∧
      (∀ r g, f.cmd.stage = some (r, g) → (t.team? f.cmd.t).map (fun T => T.stage r g) =
        some { full := decide ((T.stage r g).pending - 1 = 0), pending := (T.stage r g).pending - 1 }))

/-! ### The matrix engine -/

/-- R182, R184, R186, R189, R194, R423, R448, R453, R519, R523: a matrix instruction is held while its unit has a waiting one; a cause of its checks stops the stream (0x50, a record whose line mismatches, kills the team, R385); for ADRN the tile and the ranges come before anything is read; one that passes them becomes its unit's waiting instruction, with the tile and the operands it names. MLOOP counts its register down and jumps unless it has come to zero; MJMP jumps; in graft mode a target outside the bed takes cause 0x38 (which of two causes comes first is the model's choice, log 25), and one that is no legal target 0x03; for a target on a page that is not resident the jump is held (log 66). MEND ends the stream once the units are idle. IADD and MOVI write their Q register. Each leaves the rest of the stream's registers as they were. -/
def Obligations.MatrixIssue : Prop :=
  (∀ (i : Instr) (w : QWord), i = .mma w ∨ i = .mmab w ∨ i = .mmat w ∨ i = .aclr w → ∀ (s : State) (x : SeqCtx), SeqIssues i s x → x.sh.mul.waiting ≠ none → exec i s = .next s.tick) ∧
  (∀ (w : QWord) (s : State) (x : SeqCtx), SeqIssues (.adrn w) s x → x.sh.drain.waiting ≠ none → exec (.adrn w) s = .next s.tick) ∧
  (∀ (i : Instr) (w : QWord) (k : MatOp), (i = .mma w ∧ k = .mma ∨ i = .mmab w ∧ k = .mmab ∨ i = .mmat w ∧ k = .mmat) → ∀ (s : State) (x : SeqCtx), SeqIssues i s x → x.sh.mul.waiting = none →
    (∀ s2 c, x.openSide s w.x = .cause s2 c → exec i s = .next (if c = 0x50 then s2.killIntegrity x.t else s2.seqTrap x.t x.j c).tick) ∧
    (∀ s2 s3 a b, x.openSide s w.x = .ok s2 a → x.openSide s2 w.y = .ok s3 b →
      (∀ c, mulCause x k w (tileOf w x.env) a b = some c → exec i s = .next (s3.seqTrap x.t x.j c).tick) ∧
      (mulCause x k w (tileOf w x.env) a b = none → ∃ t sh n, exec i s = .next t ∧ (t.team? x.t).bind (fun T => T.share? x.j) = some sh ∧ SameBytes s.mem t.mem ∧
        sh.seq = { x.sh.seq with pc := nextSlot x.pc } ∧ sh.drain = x.sh.drain ∧
        sh.mul = { x.sh.mul with waiting := some { instr := i, pc := x.pc, tile := tileOf w x.env, count := 1, a := some a, b := some b, z := none, order := n } }))) ∧
  (∀ (w : QWord) (s : State) (x : SeqCtx), SeqIssues (.aclr w) s x → x.sh.mul.waiting = none →
    let n := w.cnt.toNat + 1
    let tile := if w.tq then (spGet 0 x.sh.seq.q w.tile.toNat).toNat else w.tile.toNat
    (x.sh.tiles.length < tile + n → exec (.aclr w) s = .next (s.seqTrap x.t x.j 0x41).tick) ∧
    (tile + n ≤ x.sh.tiles.length → ∃ t sh o, exec (.aclr w) s = .next t ∧ (t.team? x.t).bind (fun T => T.share? x.j) = some sh ∧ SameBytes s.mem t.mem ∧
      sh.seq = { x.sh.seq with pc := nextSlot x.pc } ∧ sh.drain = x.sh.drain ∧
      sh.mul = { x.sh.mul with waiting := some { instr := .aclr w, pc := x.pc, tile := tile, count := n, a := none, b := none, z := none, order := o } })) ∧
  (∀ (w : QWord) (s : State) (x : SeqCtx), SeqIssues (.adrn w) s x → x.sh.drain.waiting = none → x.drainEarly w = true → exec (.adrn w) s = .next (s.seqTrap x.t x.j 0x41).tick) ∧
  (∀ (w : QWord) (s : State) (x : SeqCtx), SeqIssues (.adrn w) s x → x.sh.drain.waiting = none → x.drainEarly w = false → w.tr = false → w.z = Side.none →
    (∀ s2 c, x.openSide s w.x = .cause s2 c → exec (.adrn w) s = .next (if c = 0x50 then s2.killIntegrity x.t else s2.seqTrap x.t x.j c).tick) ∧
    (∀ s2 d, x.openSide s w.x = .ok s2 d →
      (∀ c, s2.drainCause x (tileOf w x.env) [(d, w.ta.toNat)] = some c → exec (.adrn w) s = .next (s2.seqTrap x.t x.j c).tick) ∧
      (s2.drainCause x (tileOf w x.env) [(d, w.ta.toNat)] = none → ∃ t sh n, exec (.adrn w) s = .next t ∧ (t.team? x.t).bind (fun T => T.share? x.j) = some sh ∧ SameBytes s.mem t.mem ∧
        sh.seq = { x.sh.seq with pc := nextSlot x.pc } ∧ sh.mul = x.sh.mul ∧
        sh.drain = { x.sh.drain with waiting := some { instr := .adrn w, pc := x.pc, tile := tileOf w x.env, count := 1, a := some d, b := none, z := none, order := n } }))) ∧
  (∀ (i : Instr) (w : RIWord), i = .mloop w ∨ i = .mjmp w → ∀ (s : State) (x : SeqCtx), SeqIssues i s x →
    let v := spGet 0 x.sh.seq.q (dstNum w.d) - 1
    let a := x.pc + w.imm.signExtend 64
    let q := if i = .mloop w then spPut 0 x.sh.seq.q (dstNum w.d) v else x.sh.seq.q
    let jumps : Prop := i = .mjmp w ∨ v ≠ 0
    let inside : Prop := x.T.launch.graft = true → x.T.inBed x.sh.pinned a = true
    let gives (pc : DWord) : Prop := ∃ t sh, exec i s = .next t ∧ (t.team? x.t).bind (fun T => T.share? x.j) = some sh ∧ sh.seq = { x.sh.seq with pc := pc, q := q } ∧ t.mem = s.mem
    (¬ jumps → gives (nextSlot x.pc)) ∧
    (jumps → ¬ inside → exec i s = .next (s.seqTrap x.t x.j 0x38).tick) ∧
    (jumps → inside → s.targetBad x.sh.core x.T.asn a = true → exec i s = .next (s.seqTrap x.t x.j 0x03).tick) ∧
    (jumps → inside → s.targetFar x.sh.core x.T.asn a = true → exec i s = .next (s.engineFault x.sh.core x.T.asn false (lineAddr a)).tick) ∧
    (jumps → inside → s.targetOk x.sh.core x.T.asn a = true → gives a)) ∧
  (∀ (w : RIWord) (s : State) (x : SeqCtx), SeqIssues (.mend w) s x →
    (x.sh.matrixIdle = false → exec (.mend w) s = .next s.tick) ∧
    (x.sh.matrixIdle = true → ∃ t sh, exec (.mend w) s = .next t ∧ (t.team? x.t).bind (fun T => T.share? x.j) = some sh ∧ sh.seq = { x.sh.seq with st := .ended })) ∧
  (∀ (i : Instr) (r : ValueRow) (d : BitVec 10), valueRow i = some r → r.w.d = .s d → ∀ (s : State) (x : SeqCtx), SeqIssues i s x →
    ∃ t sh, exec i s = .next t ∧ (t.team? x.t).bind (fun T => T.share? x.j) = some sh ∧ t.mem = s.mem ∧
      sh.seq = { x.sh.seq with pc := nextSlot x.pc, q := spPut 0 x.sh.seq.q d.toNat ((r.val x.env 0).setWidth 32) })

/-- R184, R185, R191, R194, R157, R159, R95, R200, R202, R448, R454, R556: a waiting matrix instruction starts only when its unit is free and R185 lets it; starting it changes no tile; a drain that waits for a page is started, held, and tried again. Its commit, where no line of the tile that it adds to mismatches, gives every element of its tile the old word (0 under .Z) with what the instruction adds, an integer sum held within 32 bits and a float sum rounded at each add, and changes no other byte; an ACLR zeroes its tiles. The completion of an ADRN zeroes its tile under .CLR and writes BCDM. The reset of a hung engine zeroes the tiles of its share and empties both units. -/
def Obligations.MatrixProgress : Prop :=
  (∀ (s : State) (t j : Nat) (drain : Bool) (T : Team) (sh : Share), s.team? t = some T → T.share? j = some sh →
    let u := if drain then sh.drain else sh.mul
    (∀ r, u.started = some r → r.held = true → T.phase = .running → Happens (.matrixInstructionStart t j drain) s (s.startDrain T j sh r.cmd)) ∧
    ∀ m, u.waiting = some m →
    ((∃ r, u.started = some r ∧ r.held = false) ∨ T.phase ≠ .running ∨ (u.started = none ∧ sh.mayStart drain m = false) → Happens (.matrixInstructionStart t j drain) s s) ∧
    (u.started = none → T.phase = .running → sh.mayStart drain m = true →
      (drain = false → (matWord m.instr).1 = .aclr → ∃ u y r, Happens (.matrixInstructionStart t j drain) s u ∧ u.mem = s.mem ∧ (u.team? t).bind (fun T => T.share? j) = some y ∧
        y.mul = { started := some r, waiting := none } ∧ r.cmd = m ∧ y.drain = sh.drain) ∧
      (drain = false → (matWord m.instr).1 ≠ .aclr → Happens (.matrixInstructionStart t j drain) s (s.startMul T j sh m) ∧ SameBytes s.mem (s.startMul T j sh m).mem) ∧
      (drain = true → Happens (.matrixInstructionStart t j drain) s (s.startDrain T j sh m)))) ∧
  (∀ (s : State) (t j : Nat) (T : Team) (sh : Share) (r : MatRun), s.team? t = some T → T.share? j = some sh → sh.mul.started = some r → (∀ b c, sh.seq.st ≠ .bar b c false) → s.mem.poisoned (r.oldLines sh) = false →
    let k := (matWord r.cmd.instr).1
    let w := (matWord r.cmd.instr).2
    let at_ (n i j b : Nat) : PAddr := { store := .acc, unit := sh.core, off := 16384 * nth 0 sh.tiles n + 256 * i + 4 * j + b }
    ∃ u y, exec (.matrixCommit t j) s = .next u ∧ (u.team? t).bind (fun T => T.share? j) = some y ∧ y.mul = { sh.mul with started := none } ∧ y.drain = sh.drain ∧ y.bcdm = sh.bcdm ∧
      y.trnx = (sh.trnx || r.trnx) ∧
      (k = .aclr → (∀ n i j b, r.cmd.tile ≤ n → n < r.cmd.tile + r.cmd.count → i < 64 → j < 64 → b < 4 → u.mem.byte (at_ n i j b) = 0) ∧
        (∀ a : PAddr, (∀ n i j b, r.cmd.tile ≤ n → n < r.cmd.tile + r.cmd.count → i < 64 → j < 64 → b < 4 → a.key ≠ (at_ n i j b).key) → u.mem.byte a = s.mem.byte a)) ∧
      (k ≠ .aclr → r.adds.length = 4096 →
        let old (i j : Nat) : Word := if w.zc then 0 else BitVec.ofNat 32 (s.mem.num (at_ r.cmd.tile i j 0) 4)
        let new (i j : Nat) : Word := if w.ta = 1 then
            BitVec.ofInt 32 (max (-(2 ^ 31)) (min (2 ^ 31 - 1) ((old i j).toInt + (nth 0 (nth [] r.adds (64 * i + j)) 0).toInt)))
          else (nth [] r.adds (64 * i + j)).foldl (fun a x => BitVec.ofNat 32 (add32 a.toNat x.toNat)) (old i j)
        (∀ i < 64, ∀ j < 64, ∀ b < 4, u.mem.byte (at_ r.cmd.tile i j b) = fld (new i j) (8 * b) 8) ∧
        (∀ a : PAddr, (∀ i < 64, ∀ j < 64, ∀ b < 4, a.key ≠ (at_ r.cmd.tile i j b).key) → u.mem.byte a = s.mem.byte a) ∧
        (y.asat = true ↔ sh.asat = true ∨ (w.ta = 1 ∧ ∃ i < 64, ∃ j < 64, let v := (old i j).toInt + (nth 0 (nth [] r.adds (64 * i + j)) 0).toInt
          v < -(2 ^ 31) ∨ 2 ^ 31 - 1 < v)))) ∧
  (∀ (s : State) (t j : Nat) (T : Team) (sh : Share) (r : MatRun), s.team? t = some T → T.share? j = some sh → sh.drain.started = some r → r.held = false → (∀ b c, sh.seq.st ≠ .bar b c false) →
    ∃ u y, exec (.adrnCompletion t j) s = .next u ∧ (u.team? t).bind (fun T => T.share? j) = some y ∧ y.drain = { sh.drain with started := none } ∧ y.mul = sh.mul ∧ y.bcdm = bcdWord r.degree 5 ∧
      (r.captures = [] → (matWord r.cmd.instr).2.zc = false → SameBytes (s.engineWrite r.outs).mem u.mem) ∧
      (r.captures = [] → (matWord r.cmd.instr).2.zc = true → ∀ i < 64, ∀ k < 64, u.tileWord sh r.cmd.tile i k = 0)) ∧
  (∀ (s : State) (core : Nat) (T : Team) (j : Nat) (sh : Share), s.team? T.id = some T → T.share? j = some sh → sh.core = core → sh.hung s.pkg.time.toNat = true →
    (∀ T' ∈ s.teams, ∀ j' sh', T'.share? j' = some sh' → sh'.core = core → sh'.hung s.pkg.time.toNat = true → T' = T ∧ j' = j) →
    ∃ u y, exec (.matrixEngineReset core) s = .next u ∧ (u.team? T.id).bind (fun T => T.share? j) = some y ∧ y.mul = { started := none, waiting := none } ∧ y.drain = { started := none, waiting := none } ∧
      (∀ n < sh.tiles.length, ∀ i < 64, ∀ k < 64, u.tileWord sh n i k = 0))

/-! ### Stamped words, system registers, tasks -/

/-- R284 to R286, R289, R290, R292, R293, R393, R546, R563: STEPRD gives the core's copy of GSTEP, and takes cause 0x02 for a register that is not an even S register within the budget (R546). STEPADV takes cause 0x06 in a group that is neither of a step owner's task nor privileged; else it gives 1 and leaves GSTEP where the sweep of the 8192 steps before is not complete, and gives 0 and adds 1 to GSTEP and to the copy of every core otherwise (in the step of the STEPADV itself, with the sweep: the model's reading of R563, log 20); it is held until its release work is done, and a team whose core cannot reach the I/O die is killed with cause 0x50 (R393, which the model reads so of every request to the I/O die, log 53). SWFOLD and SWMRG take cause 0x49 for a stale word and SWMRG first 0x48 for two factors; else they give the folded and the merged words, and kill the team where a line of the factor table that they read mismatches (R385). A folded word with SV set holds the decayed value and the current stamp, another is as it was; a merged word holds the sum with the later stamp; bits 63:57 are clear. -/
def Obligations.StampedWords : Prop :=
  (∀ (w : RIWord) (s s1 : State) (x : Ctx) (d : BitVec 10), GroupIssues (.steprd w) s x s1 → w.d = .s d →
    GroupDoes (.steprd w) s x s1 s1 { writes := [(4, .s d.toNat ((s1.stepOf x.c).setWidth 32)), (4, .s (d.toNat + 1) ((s1.stepOf x.c >>> 32).setWidth 32))] }) ∧
  (∀ (w : RIWord) (s s1 : State) (t g : Nat) (x : Ctx), s.ctl.actor = some (.group t g) → groupCtx t g (.steprd w) s = some (x, s1) →
    (∀ d : BitVec 10, w.d = .s d → d.toNat % 2 = 0 → (x.T.launch.budget x.G.role).2.1 ≤ d.toNat + 1) → GroupTraps (.steprd w) s x s1 { cause := 0x02 }) ∧
  (∀ (w : RIWord) (s s1 : State) (x : Ctx), GroupIssues (.stepadv w) s x s1 →
    let n := s1.pkg.gstep + 1
    let refused : Prop := n.toNat % 8192 = 0 ∧ ∃ y ∈ s1.pkg.sweeps, y.1 = n - 8192
    let owner : Prop := x.T.launch.stepown = true ∨ x.G.priv = true
    let ready : Prop := s1.relDone x.c x.t x.g (s1.ctl.stamp + 1) = true
    let near : Prop := s1.reachesIo (dieOf x.c) 0 = true
    let answer (s2 : State) (v : DWord) : Prop := GroupDoes (.stepadv w) s x s1 s2 { writes := destWrites w.d false 4 x.ex (laneList.map (fun _ => v)) }
    (¬ owner → GroupTraps (.stepadv w) s x s1 { cause := 0x06 }) ∧
    (owner → ¬ ready → GroupHolds (.stepadv w) s x s1) ∧
    (owner → ready → ¬ near → exec (.stepadv w) s = .next (s1.killTeam x.t 0x50).tick) ∧
    (owner → ready → near → refused → answer s1 1) ∧
    (owner → ready → near → ¬ refused → ∃ s2, answer s2 0 ∧ s2.pkg.gstep = n ∧ (∀ c < 512, s2.stepOf c = n) ∧ s2.mem = s1.mem ∧ s2.teams = s1.teams ∧
      s2.pkg.sweeps.length = s1.pkg.sweeps.length + (if n.toNat % 8192 = 0 ∧ n ≠ 0 then 1 else 0))) ∧
  (∀ (w : RIWord) (s s1 : State) (x : Ctx), GroupIssues (.swfold w) s x s1 →
    let g := s1.stepOf x.c
    let stale (l : Nat) : Prop := inMask x.ex l = true ∧ (stampedOf (x.env.src64 w.a l)).stale g = true
    ((∃ l < 16, stale l) → ∃ m : Lanes, GroupTraps (.swfold w) s x s1 { cause := 0x49, names := some m } ∧ ∀ l < 16, inMask m l = true ↔ stale l) ∧
    let fs := factorsOf ((lanesOf x.ex).map (fun l => x.env.src64 w.a l))
    (¬ (∃ l < 16, stale l) → s1.factorBad x.c fs = true → exec (.swfold w) s = .next (s1.killIntegrity x.t).tick) ∧
    (¬ (∃ l < 16, stale l) → s1.factorBad x.c fs = false → ∃ s2, SameBytes s1.mem s2.mem ∧ s2.teams = s1.teams ∧
      GroupDoes (.swfold w) s x s1 s2 { writes := destWrites w.d true 4 x.ex (laneList.map (fun l => foldWord (s1.factor x.c) g (x.env.src64 w.a l))) })) ∧
  (∀ (w : RIWord) (s s1 : State) (x : Ctx), GroupIssues (.swmrg w) s x s1 →
    let g := s1.stepOf x.c
    let a (l : Nat) := stampedOf (x.env.src64 w.a l)
    let b (l : Nat) := stampedOf (x.env.src64 w.b l)
    let clash (l : Nat) : Prop := inMask x.ex l = true ∧ (a l).sv = true ∧ (b l).sv = true ∧ (a l).factor ≠ (b l).factor
    let stale (l : Nat) : Prop := inMask x.ex l = true ∧ ((a l).stale g = true ∨ (b l).stale g = true)
    ((∃ l < 16, clash l) → ∃ m : Lanes, GroupTraps (.swmrg w) s x s1 { cause := 0x48, names := some m } ∧ ∀ l < 16, inMask m l = true ↔ clash l) ∧
    (¬ (∃ l < 16, clash l) → (∃ l < 16, stale l) → ∃ m : Lanes, GroupTraps (.swmrg w) s x s1 { cause := 0x49, names := some m } ∧ ∀ l < 16, inMask m l = true ↔ stale l) ∧
    let fs := factorsOf ((lanesOf x.ex).map (fun l => x.env.src64 w.a l) ++ (lanesOf x.ex).map (fun l => x.env.src64 w.b l))
    (¬ (∃ l < 16, clash l) → ¬ (∃ l < 16, stale l) → s1.factorBad x.c fs = true → exec (.swmrg w) s = .next (s1.killIntegrity x.t).tick) ∧
    (¬ (∃ l < 16, clash l) → ¬ (∃ l < 16, stale l) → s1.factorBad x.c fs = false → ∃ s2, SameBytes s1.mem s2.mem ∧ s2.teams = s1.teams ∧
      GroupDoes (.swmrg w) s x s1 s2 { writes := destWrites w.d true 4 x.ex (laneList.map (fun l => mergeWords (s1.factor x.c) g (x.env.src64 w.a l) (x.env.src64 w.b l))) })) ∧
  (∀ (F : Nat → Nat → Nat) (g w : DWord),
    let x := stampedOf w
    let r := foldWord F g w
    fldN r 57 7 = 0 ∧
    (x.sv = true → stampedOf r = { value := mul32 x.value (decayPow (F x.factor) ((g.toNat + 65536 - x.stamp) % 65536)), stamp := g.toNat % 65536, factor := x.factor, sv := true }) ∧
    (x.sv = false → stampedOf r = x)) ∧
  (∀ (F : Nat → Nat → Nat) (g wa wb : DWord), factorsClash wa wb = false →
    let a := stampedOf wa
    let b := stampedOf wb
    let r := mergeWords F g wa wb
    let one (f : Nat) : Nat := decayPow (F f) 0
    fldN r 57 7 = 0 ∧
    (a.sv = false → b.sv = false → stampedOf r = { value := add32 a.value b.value, stamp := 0, factor := 0, sv := false }) ∧
    (a.sv = true → b.sv = false → stampedOf r = { a with value := add32 (mul32 a.value (one a.factor)) b.value }) ∧
    (a.sv = false → b.sv = true → stampedOf r = { b with value := add32 a.value (mul32 b.value (one b.factor)) }) ∧
    (a.sv = true → b.sv = true → a.elapsed g ≤ b.elapsed g →
      stampedOf r = { a with value := add32 (mul32 a.value (one a.factor)) (mul32 b.value (decayPow (F a.factor) (b.elapsed g - a.elapsed g))) }) ∧
    (a.sv = true → b.sv = true → b.elapsed g < a.elapsed g →
      stampedOf r = { b with value := add32 (mul32 a.value (decayPow (F b.factor) (a.elapsed g - b.elapsed g))) (mul32 b.value (one b.factor)) }))

/-- R4, R95 to R98, R299, R316, R550, R551, R563: SYSRD and SYSWR take cause 0x02 for a number that is not in the map, for a handler register outside a handler, and for a SYSWR of a register that cannot be written; 0x06 for a SYSWR of a privileged register by a group that is not privileged. SYSRD gives the register; SYSWR writes it and nothing else: LST, BCD and BCDM but for their reserved bits (R4; that a write drops them is the model's reading, log 43), a flag cleared by a 0 in bit 0 and otherwise kept (which sets of TRNX by earlier runs still come after the clear R96 leaves open in part, log 88), ARR of the pinned bed; GSTEP and the copies of all cores, its release work done, with a sweep; FACTBASE with the address space of the writer. -/
def Obligations.SystemRegisters : Prop :=
  (∀ (w : RIWord) (s s1 : State) (x : Ctx), GroupIssues (.sysrd w) s x s1 →
    let n := sysNum w
    let listed : Prop := n ∈ [0x000, 0x001, 0x002, 0x004, 0x005, 0x010, 0x011, 0x020, 0x021, 0x022, 0x030, 0x031, 0x032, 0x033, 0x040]
    let handler : Prop := n ∈ [0x030, 0x031, 0x032, 0x033]
    (¬ listed ∨ (handler ∧ x.G.inHandler = false) → GroupTraps (.sysrd w) s x s1 { cause := 0x02 }) ∧
    (∀ c, sysrdCause n (dstNum w.d) x = some c → c = 0x02 ∧ GroupTraps (.sysrd w) s x s1 { cause := c }) ∧
    (sysrdCause n (dstNum w.d) x = none → ∃ e : Eff, GroupDoes (.sysrd w) s x s1 s1 e ∧ e.goto = [] ∧ e.drop = 0 ∧ e.stay = false ∧ e.ends = false ∧
      e.writes = destWrites w.d (n ∈ [0x004, 0x005, 0x010, 0x011, 0x020, 0x021, 0x022, 0x031, 0x032, 0x040]) 2 x.ex (laneList.map (fun _ => sysValue s1 x n)))) ∧
  (∀ (i : Instr) (w : RIWord), (i = .syswr w ∨ i = .syswrGstep w ∨ i = .syswrFactbase w ∨ i = .syswrRecbase w ∨ i = .syswrTrapvec w ∨ i = .syswrTrnxAsat w ∨ i = .syswrArr w) →
    ∀ (s s1 : State) (x : Ctx), GroupIssues i s x s1 →
      let n := sysNum w
      let r := srcNum w.a
      let v := x.env.s (r + 1) ++ x.env.s r
      let v32 := x.env.s r
      let ok : Prop := syswrCause n r x = none
      (n ∈ [0x011, 0x030, 0x032, 0x033] → GroupTraps i s x s1 { cause := 0x02 }) ∧
      (n = 0x031 → x.G.inHandler = false → GroupTraps i s x s1 { cause := 0x02 }) ∧
      (n ∈ [0x010, 0x020, 0x021, 0x040] → x.G.priv = false → r % 2 = 0 → r + 1 < x.sBudget → GroupTraps i s x s1 { cause := 0x06 }) ∧
      (∀ c, syswrCause n r x = some c → GroupTraps i s x s1 { cause := c }) ∧
      (ok → n = 0x000 → GroupDoes i s x s1 (s1.modGroup x.t x.g (fun G => { G with lst := v32 &&& 0xFF1F })) {}) ∧
      (ok → n = 0x001 → GroupDoes i s x s1 (s1.modGroup x.t x.g (fun G => { G with bcd := v32 &&& 0x73F })) {}) ∧
      (ok → n = 0x002 → GroupDoes i s x s1 (s1.modShare x.t x.G.core (fun sh => { sh with bcdm := v32 &&& 0x73F })) {}) ∧
      (ok → n = 0x031 → GroupDoes i s x s1 (s1.modGroup x.t x.g (fun G => { G with epc := v })) {}) ∧
      (ok → n = 0x004 → GroupDoes i s x s1 (if v.getLsbD 0 then s1 else s1.modShare x.t x.G.core (fun sh => { sh with trnx := false, trnxLate := sh.trnxLate.filter (x.late s1) })) {}) ∧
      (ok → n = 0x005 → GroupDoes i s x s1 (if v.getLsbD 0 then s1 else s1.modShare x.t x.G.core (fun sh => { sh with asat := false })) {}) ∧
      (ok → n = 0x020 → ∃ t, exec i s = .next t ∧ t.mem = s.mem ∧ (t.team? x.t).map (fun T => (T.recbase, T.trapvec)) = some (v, x.T.trapvec)) ∧
      (ok → n = 0x022 → ∃ t, exec i s = .next t ∧ t.mem = s.mem ∧ (t.team? x.t).map (fun T => (T.recbase, T.trapvec)) = some (x.T.recbase, v)) ∧
      (ok → n = 0x021 → ∃ t, exec i s = .next t ∧ t.mem = s.mem ∧ t.pkg.factBase = v ∧ t.pkg.factAsn = x.T.asn ∧ t.pkg.factCopy = [] ∧ t.pkg.gstep = s.pkg.gstep) ∧
      (ok → n = 0x010 → s1.relDone x.c x.t x.g (s1.ctl.stamp + 1) = true →
        s1.reachesIo (dieOf x.c) 0 = true → ∃ t, exec i s = .next t ∧ t.mem = s.mem ∧ t.pkg.gstep = v ∧ (∀ c < 512, t.stepOf c = v) ∧ t.pkg.sweeps.map (·.1) = s.pkg.sweeps.map (·.1) ++ [v &&& ~~~8191#64]) ∧
      (ok → n = 0x040 → ∃ t, exec i s = .next t ∧ t.mem = s.mem ∧
        (t.team? x.t).map (fun T => T.arr) = some (match x.sh.pinned with | some b => spPut 0 x.T.arr b v | none => x.T.arr)))

/-- R341, R342, R346 to R348, R350, R352, R353: TDEC takes cause 0x02 for an id above 65535 and 0x11 for one outside its queue's window; it is held until its release work is done, and sends one decrement; a team whose core cannot reach the I/O die is killed with cause 0x50 (R393, read so of every request to the I/O die, log 53). TLAUNCH takes cause 0x16 for an address that is no multiple of 128 and the cause of its translation, is held while its page is not resident, and gives 0, 1 or 2 as admission decides. A doorbell beyond the ring stops its queue; another sets the count of its records. What the scheduler does with a page of a record, a bed map or a done record that is not resident, and with a done record that has lost its mapping, is the model's reading (log 38). A decrement lowers one counter, and makes a waiting entry ready that comes to zero. Admission enters or refuses the record at the head of a queue. A waiting task that is killed, and a task whose teams are gone, free their entry and keep its counter; a completion takes 1 off the counter of SUCC. -/
def Obligations.Tasks : Prop :=
  (∀ (w : RIWord) (s s1 : State) (x : Ctx), GroupIssues (.tdec w) s x s1 →
    let n := (x.env.src w.a 0).toNat
    let q := s1.queue x.T.queue
    (65536 ≤ n → GroupTraps (.tdec w) s x s1 { cause := 0x02 }) ∧
    (n < 65536 → (n < q.tidBase ∨ q.tidBase + q.tidCount ≤ n) → GroupTraps (.tdec w) s x s1 { cause := 0x11 }) ∧
    let window : Prop := n < 65536 ∧ q.tidBase ≤ n ∧ n < q.tidBase + q.tidCount
    let ready : Prop := s1.relDone x.c x.t x.g (s1.ctl.stamp + 1) = true
    (window → ¬ ready → GroupHolds (.tdec w) s x s1) ∧
    (window → ready → s1.reachesIo (dieOf x.c) 0 = false → exec (.tdec w) s = .next (s1.killTeam x.t 0x50).tick) ∧
    (window → ready → s1.reachesIo (dieOf x.c) 0 = true →
      ∃ s2, GroupDoes (.tdec w) s x s1 s2 {} ∧ s2.sched.decs = s1.sched.decs ++ [{ task := n }] ∧ s2.mem = s1.mem ∧ s2.teams = s1.teams ∧ s2.sched.tasks = s1.sched.tasks)) ∧
  (∀ (w : RIWord) (s s1 : State) (x : Ctx), GroupIssues (.tlaunch w) s x s1 →
    let a := x.env.src64 w.a 0
    let q := s1.queue x.T.queue
    let gives (s2 : State) (v : DWord) : Prop := GroupDoes (.tlaunch w) s x s1 s2 { writes := destWrites w.d false 4 x.ex (laneList.map (fun _ => v)) }
    (a.toNat % 128 ≠ 0 → GroupTraps (.tlaunch w) s x s1 { cause := 0x16 }) ∧
    (∀ c, a.toNat % 128 = 0 → s1.translate x.T.asn Need.load false a = .cause c → GroupTraps (.tlaunch w) s x s1 { cause := c }) ∧
    (a.toNat % 128 = 0 → s1.translate x.T.asn Need.load false a = .resid → GroupHolds (.tlaunch w) s x (s1.engineFault x.c x.T.asn false a)) ∧
    (∀ pa leaf, a.toNat % 128 = 0 → s1.translate x.T.asn Need.load false a = .ok pa leaf → s1.mem.poisoned [pa.line, pa.line + 1] = false →
      s1.relDone x.c x.t x.g (s1.ctl.stamp + 1) = true → s1.reachesIo (dieOf x.c) 0 = true →
        let seen (L : Launch) : State := s1.touchLaunch q.asn a L
        (s1.admission q a = .unreadable → gives s1 1) ∧
        (∀ L, s1.admission q a = .busy L → gives (seen L) 2) ∧
        (∀ L r s2, s1.admission q a = .refused L r → (seen L).writeDone q.asn L.done 1 r 0 = (s2, true) → gives s2 1) ∧
        (∀ L, s1.admission q a = .ok L → gives ((seen L).enterTask x.T.queue L) 0))) ∧
  (∀ (s : State) (q : Nat) (L : Launch),
    let e := (s.enterTask q L).task L.task
    let c := (s.task L.task).counter + BitVec.ofNat 16 L.deps
    e.counter = c ∧ e.launch = some L ∧ e.queue = q ∧ (c = 0 → e.st = .ready) ∧ (c ≠ 0 → e.st = .waiting)) ∧
  (∀ (s : State) (port q : Nat) (count : Word), s.pkg.bars = true → port < 2 → q < 2 ^ 17 →
    let x := s.queue q
    let beyond : Prop := 2 ^ x.log2n < (count - x.head).toNat
    (x.en = false → Happens (.doorbell port q count) s s) ∧
    (x.en = true → beyond → ∃ t, Happens (.doorbell port q count) s t ∧ t.queue q = { x with err := true, en := false } ∧ t.pkg.irqs = s.pkg.irqs ++ [(s.irqPort 0, 0)] ∧ ∀ p, p ≠ q → t.queue p = s.queue p) ∧
    (x.en = true → ¬ beyond → ∃ t, Happens (.doorbell port q count) s t ∧ t.queue q = { x with bell := count } ∧ ∀ p, p ≠ q → t.queue p = s.queue p)) ∧
  (∀ (s : State) (q : Nat) (d : BitVec 512), q < 2 ^ 17 → ∃ t, Happens (.queueDescriptorWrite q d) s t ∧ (∀ p, p ≠ q → t.queue p = s.queue p) ∧
    let x := t.queue q
    x.ring = fld d 0 64 ∧ x.log2n = fldN d 64 8 ∧ x.en = d.getLsbD 72 ∧ x.priv = d.getLsbD 73 ∧ x.priomax = fldN d 80 3 ∧ x.asn = fldN d 96 16 ∧ x.tidBase = fldN d 112 16 ∧
      x.tidCount = fldN d 128 32 ∧ x.head = fld d 160 32 ∧ x.recbase = fld d 192 64) ∧
  (∀ (s : State) (d : Dec) (r : List Dec), s.sched.decs = d :: r → ∃ t, Happens .taskDecrement s t ∧ t.sched.decs = r ∧
    (t.task d.task).counter = (s.task d.task).counter - 1 ∧
    ((s.task d.task).st = .waiting → (s.task d.task).killed = false → (s.task d.task).counter = 1 → (t.task d.task).st = .ready) ∧
    (¬ ((s.task d.task).st = .waiting ∧ (s.task d.task).killed = false ∧ (s.task d.task).counter = 1) → (t.task d.task).st = (s.task d.task).st) ∧
    ∀ n, n ≠ d.task → t.task n = s.task n) ∧
  (∀ (s : State) (q : Nat), (s.queue q).waiting = true → (∀ y ∈ s.sched.queues, y.2.waiting = true → turnBefore s.sched.turn y.1 q = true → s.queueHeld y.2 = true) →
    let x := s.queue q
    let found := s.admission x x.slot
    (found = .unreadable → ∃ t, Happens (.admission q) s t ∧ t.queue q = { x with err := true, en := false } ∧ t.pkg.irqs = s.pkg.irqs ++ [(s.irqPort 0, 0)]) ∧
    (∀ L, found = .busy L → Happens (.admission q) s s) ∧
    (∀ va, found = .wait va → Happens (.admission q) s (s.schedFault x.asn false va)) ∧
    (∀ L, found = .ok L → ∃ t, Happens (.admission q) s t ∧ t.queue q = { x with head := x.head + 1 } ∧ t.sched.turn = q ∧ t.task L.task = (s.enterTask q L).task L.task) ∧
    (∀ L r s2, found = .refused L r → (s.touchLaunch x.asn x.slot L).writeDone x.asn L.done 1 r 0 = (s2, true) → ∃ t, Happens (.admission q) s t ∧ t.queue q = { s2.queue q with head := (s2.queue q).head + 1 } ∧ t.mem = s2.mem)) ∧
  (∀ (s : State) (n : Nat) (L : Launch), (s.task n).launch = some L →
    let e := s.task n
    (∀ s2, e.st = .waiting → s.writeDone (s.queue e.queue).asn L.done 3 0 0 = (s2, true) →
      ∃ t, Happens (.taskKill n) s t ∧ t.mem = s2.mem ∧ t.task n = { Task.free with counter := (s2.task n).counter }) ∧
    (e.st = .ready → e.killed = false → e.failed = none → ∃ t, Happens (.taskKill n) s t ∧ (t.task n).killed = true ∧
      ∀ T ∈ t.teams, T.task = n → ∃ c b, T.phase = .killed c b) ∧
    (e.st = .ready → s.taskLives n = false → L.kind = 0 → e.killed = false → e.failed = none → e.nextTeam = L.teams + 1 → ∀ s2, s.writeDone (s.queue e.queue).asn L.done 0 0 0 = (s2, true) →
      ∃ t, Happens (.taskCompletion n) s t ∧ t.mem = s2.mem ∧ t.task n = { Task.free with counter := (t.task n).counter } ∧
        ∀ m, (t.task m).counter = (s2.task m).counter - if L.succv = true ∧ L.succ = m then 1 else 0))

/-! ### Events of groups and of memory -/

/-- R35, R47, R50, R71, R81, R83, R84, R242, R243, R336, R375 to R378, R473, R559: a ready group that comes first in its free quadrant is given a run of the runnable lanes at the PC it chooses. A group whose lines are all at hand becomes ready. A wait that has ended leaves the group, and a CWAIT past its time gives 1 and lets its lanes go on. A logged access whose pages are resident is performed and leaves the log; one that has lost its mapping fails, for all its lanes (R243; that an entry which meets another cause fails so too, for the lanes that have it, is the model's reading, log 99). A cause that waits is taken at a boundary outside a handler. A group whose lanes have exited and whose work is done retires. -/
def Obligations.RunEvents : Prop :=
  (∀ (s : State) (t g q : Nat) (w : Who), s.who t g = some w → w.G.place = .slot q → s.pkg.halt = none → ((spFind (s.core w.c).quads q).bind (·.holder)) = none →
    s.groupReady w = true → s.serviceFirst w.c q = false →
    (∀ y ∈ s.quadReady w.c q, ¬ (y.1 = t ∧ y.2.gid = g) → quadBefore (quadForced (s.quadReady w.c q)) y.2 w.G = false) →
    ∃ u H r pc, Happens (.runIssue t g) s u ∧ u.mem = s.mem ∧ u.group? t g = some H ∧ H.run = some r ∧ r.count = 0 ∧ r.pend = [] ∧ w.G.meetHold.choose = some pc ∧
      (∀ l < 16, inMask r.act l = true ↔ (inMask w.G.meetHold.runnable l = true ∧ (w.G.meetHold.lane l).pc = pc)) ∧
      ((spFind (u.core w.c).quads q).map (·.holder)) = some (some (t, g))) ∧
  (∀ (s : State) (t g : Nat) (w : Who) (pc : DWord), s.who t g = some w → s.wantsLines w = true → w.G.meetHold.choose = some pc → s.missingLine w pc = none →
    ∃ u H, Happens (.instructionLineFetch t g) s u ∧ u.mem = s.mem ∧ u.cores = s.cores ∧ u.group? t g = some H ∧ H = { w.G with ready := true }) ∧
  (∀ (s : State) (t g : Nat) (w : Who) (p : Park) (ps : List Park), s.who t g = some w → w.G.parks = p :: ps → w.parked = true →
    (∀ s2, s.resume w p = some s2 → Happens (.groupResume t g) s s2) ∧
    (s.resume w p = none → Happens (.groupResume t g) s s) ∧
    (∀ upTo, p = .release upTo → s.relDone w.c t g upTo = true → ∃ u H, Happens (.groupResume t g) s u ∧ u.mem = s.mem ∧ u.group? t g = some H ∧ H = { w.G with parks := ps, ready := false }) ∧
    (∀ win sel target expires d pc ls, p = .cwait win sel target expires d pc ls → s.cwaitTest (dieOf w.c) win sel target expires = some 1 →
      ∃ u H, Happens (.cwaitTimeout t g) s u ∧ u.mem = s.mem ∧ u.group? t g = some H ∧ H.parks = ps ∧ spGet 0 H.s d = 1 ∧ spGet 0 H.s (d + 1) = 0 ∧
        (∀ r, r ≠ d → r ≠ d + 1 → spGet 0 H.s r = spGet 0 w.G.s r) ∧
        ∀ l < 16, l < w.G.lanes.length → (H.lane l).pc = if inMask ls l = true then nextSlot (w.G.lane l).pc else (w.G.lane l).pc)) ∧
  (∀ (s : State) (t g : Nat) (w : Who) (e : LogEntry) (r : List LogEntry), s.who t g = some w → w.G.log = e :: r → e.failed = none → w.T.phase = .running →
    s.logAwaits w e = [] →
    let out := s.access w e.acc false none (e.acc.moreHolds w) (e.acc.performAny false [] 0)
    (∀ s2 wr lg f, out = .done s2 wr lg f → Happens (.operandLogReplay t g) s ((s2.writeAll t g (wr.map (·.2))).modLog t g (fun l => l.drop 1))) ∧
    (∀ s2 x, out = .trap s2 x → x.cause = 0x10 ∨ accKind e.acc.instr ≠ .atomic → s2.group? t g = some w.G →
      ∃ u H f, Happens (.operandLogReplay t g) s u ∧ u.mem = s2.mem ∧ u.group? t g = some H ∧ H = { w.G with log := { e with failed := some f } :: r } ∧ f.cause = x.cause ∧ (x.cause = 0x10 → f.names = e.mask))) ∧
  (∀ (s : State) (t g : Nat) (w : Who) (a : Async) (r : List Async), s.who t g = some w → w.G.causes = a :: r →
    (w.G.inHandler = true ∨ w.atBoundary = false ∨ s.pkg.halt ≠ none → Happens (.asyncCauseDelivery t g) s s) ∧
    (w.G.inHandler = false → w.atBoundary = true → s.pkg.halt = none →
      let v := (s.modGroup t g (fun G => { G with causes := r })).takeTrap t g { cause := a.cause, src := a.src, rank := a.rank, eaddr := a.eaddr } 0 w.G.nextPc
      ∃ u, Happens (.asyncCauseDelivery t g) s u ∧ u.mem = v.mem ∧ u.group? t g = v.group? t g ∧ (a.src ≠ .sequencer → u = v))) ∧
  (∀ (s : State) (t g q : Nat) (w : Who), s.who t g = some w → w.G.place = .slot q → w.T.phase = .running → w.G.live = 0 → w.G.run = none → w.G.parks = [] → w.G.log = [] →
    s.ownDone t g (s.ctl.stamp + 1) = true → w.G.causes = [] →
    ∃ u H, Happens (.groupRetire t g) s u ∧ u.mem = s.mem ∧ u.group? t g = some H ∧ H = { w.G with place := .retired, causes := [], ready := false })

/-- R168, R169, R235 to R239, R267, R275, R276, R295 to R297, R365, R366, R389, R396: a store of a core's queue that may be performed leaves the queue and its bytes are in memory, an STGFREE empties its stage; an atomic goes on to its service group, over the die links where that lies on another die, which performs it in its turn at its word and fills the group's slot, or sends the answer back; an entry whose slice is out of reach leaves the queue and kills its team (R393; that it leaves the queue is the model's reading, log 53). A fill keeps the record it has read, unless an HFLUSH has come meanwhile (R495), or the cause. A fault on a page of LPDDR brings the page into a frame, and its leaf says so; a host page that is late or refused gives its slot and its fault up. Writes through an aperture slot reach the slot's frame. A page is moved in two events, the lines held between (where the first ends and what the second waits for is the model's reading, log 85; which page gives way where no frame is free, and that a page under a window or a region stays, its choice, log 47). Regions are registered with their pages, a stamped one not over a window, the tags of a logged region zero; an undo area takes a new size, only with no entry in use (the model's reading, log 41); a sweep folds the words of its lines and ends. -/
def Obligations.MemoryEvents : Prop :=
  (∀ (s : State) (core idx : Nat) (e : SqEntry), (s.core core).sq[idx]? = some e →
    (s.mayPerform core ((s.core core).sq.take idx) e = false → Happens (.storePerform core idx) s s) ∧
    (s.mayPerform core ((s.core core).sq.take idx) e = true → s.entryCut core e = true → Happens (.storePerform core idx) s ((s.dropSq core idx).killTeam e.t 0x50)) ∧
    (s.mayPerform core ((s.core core).sq.take idx) e = true → s.entryCut core e = false →
      ∃ u, Happens (.storePerform core idx) s u ∧ (u.core core).sq = (s.core core).sq.eraseIdx idx ∧
        (∀ r k, e.stage = some (r, k) → u.mem = s.mem ∧ ∀ T, u.team? e.t = some T → (T.stage r k).full = false) ∧
        (e.stage = none → e.red = none → (s.marks e.at_).tx = false → WrittenBy s.mem u.mem e.bytes) ∧
        (∀ r, e.stage = none → e.red = some r → e.scratch = false → u.mem = s.mem ∧
          (routeHops (dieOf r.core) r.pa.unit = [] → (spFind u.pkg.svc (serviceOf r.pa)).getD [] = (spFind s.pkg.svc (serviceOf r.pa)).getD [] ++ [r]) ∧
          (∀ h hs m, routeHops (dieOf r.core) r.pa.unit = h :: hs → s.moduleOf h.1 r.core (1024 + serviceCore (serviceOf r.pa)) = some m →
            ((u.link h.1 m).dir h.2).queue = ((s.link h.1 m).dir h.2).queue ++ [.request r])))) ∧
  (∀ (s : State) (cl : Nat) (r : AtomReq) (rest : List AtomReq), spFind s.pkg.svc cl = some (r :: rest) → s.svcDrains r = false →
    ((s.svcHeld r = true ∨ s.serviceTurn cl = false) → Happens (.atomicServiceRequest cl) s s) ∧
    (s.svcHeld r = false → s.serviceTurn cl = true → s.mem.poisoned [r.pa.line] = false → r.kind ≠ .enq → r.kind ≠ .deq → r.kind ≠ .swadd →
    let n := typeBits r.ty / 8
    let o := atomWord r.kind r.ty (fun _ _ => 0) 0 (s.mem.num r.pa n) r.x r.y
    ∃ u, Happens (.atomicServiceRequest cl) s u ∧ (spFind u.pkg.svc cl).getD [] = rest ∧ (spFind (u.core (coreId (cl / 4) (cl % 4) 0)).quads 0).map (·.lastSvc) = some true ∧
      (∀ b : PAddr, (∀ j < n, b.key ≠ (r.pa.add j).key) → u.mem.byte b = s.mem.byte b) ∧
      (∀ v, o.new = some v → ∀ j < n, u.mem.byte (r.pa.add j) = BitVec.ofNat 8 (v / 256 ^ j % 256)) ∧
      (o.new = none → SameBytes s.mem u.mem) ∧
      (r.reply = true → (FlitLoad.answer r o.done).hops = [] → ∀ G, s.group? r.t r.g = some G → ∃ H, u.group? r.t r.g = some H ∧ spFind H.slots r.lane = some o.done) ∧
      (∀ h hs m, r.reply = true → (FlitLoad.answer r o.done).hops = h :: hs → s.moduleOf h.1 r.core (1024 + serviceCore (serviceOf r.pa)) = some m →
        ((u.link h.1 m).dir h.2).queue = ((s.link h.1 m).dir h.2).queue ++ [.answer r o.done]))) ∧
  (∀ (s : State) (core asn : Nat) (a : DWord) (f : Fill), (s.core core).fills.find? (fun y => y.isFor asn a && y.open_) = some f →
    (∀ y, s.readRecord core asn a = .image y → ∃ u, Happens (.recordFill core asn a) s u ∧
      (f.keep = true → (u.core core).recs.head? = some { asn := asn, addr := a, image := y } ∧ ∀ z ∈ (u.core core).fills, z.asn = asn → z.addr = a → z.keep = true → z.open_ = false) ∧
      (f.keep = false → (u.core core).recs = (s.core core).recs ∧ (f.by_ ≠ none → { f with image := some y } ∈ (u.core core).fills))) ∧
    (∀ c, s.readRecord core asn a = .cause c → ∃ u, Happens (.recordFill core asn a) s u ∧ (u.core core).recs = (s.core core).recs ∧ { f with cause := some c } ∈ (u.core core).fills)) ∧
  (∀ (s : State) (die idx : Nat) (f : FaultEntry) (at_ : PAddr) (w : DWord) (big : Bool), (s.faultTable die)[idx]? = some f → f.slot = none →
    (∀ x ∈ s.mmp.slots, ¬ (x.2.asn = f.asn ∧ x.2.page = f.page)) → s.walk f.asn (BitVec.ofNat 64 (65536 * f.page)) = .leaf at_ w big →
    (leafPresent w = true → homeBit w = true → ∃ u, Happens (.residencyFaultService die idx) s u ∧ u.mem = s.mem ∧ ∀ x ∈ u.faultTable die, ¬ (x.asn = f.asn ∧ x.page = f.page)) ∧
    (∀ n, leafPresent w = true → homeBit w = false → big = false → die < 8 → s.freeFrames die 1 = some n → s.MemOk →
      let old := placeOf w false 0
      let new := framePlace die n true
      s.inUse old 1 = false → s.heldAt old = false → (at_.key + 8 ≤ new.key ∨ new.key + 65536 ≤ at_.key) →
      ∃ u, Happens (.residencyFaultService die idx) s u ∧ (∀ k < 65536, u.mem.byte (new.add k) = s.mem.byte (old.add k)) ∧
        u.mem.num at_ 8 = (leafAt w new clearAD).toNat ∧ ∀ x ∈ u.faultTable die, ¬ (x.asn = f.asn ∧ x.page = f.page))) ∧
  (∀ (s : State) (slot : Nat) (x : ApSlot), spFind s.mmp.slots slot = some x →
    let limit := ((s.mmp.spaces.find? (·.asn == x.asn)).map (·.deadline)).getD 0
    let failed (u : State) : Prop := u.mem = s.mem ∧ spFind u.mmp.slots slot = none ∧ ∀ f ∈ u.faultTable x.die, ¬ (f.asn = x.asn ∧ f.page = x.page)
    (s.pkg.time.toNat < x.posted + limit → Happens (.hostPageDeadline slot) s s) ∧
    (x.posted + limit ≤ s.pkg.time.toNat → ∃ u, Happens (.hostPageDeadline slot) s u ∧ failed u) ∧
    (∀ resp : Word, s.pkg.bars = true → resp ≠ 1 → ∃ u, Happens (.pageResponse slot resp) s u ∧ failed u) ∧
    (∀ at_ w, s.pkg.bars = true → s.walk x.asn (BitVec.ofNat 64 (65536 * x.page)) = .leaf at_ w false → leafPresent w = false →
      ∃ u, Happens (.pageResponse slot 1) s u ∧ spFind u.mmp.slots slot = none ∧ u.mem.num at_ 8 = (leafAt w (framePlace x.die x.frame true) clearAD).toNat ∧
        ∀ f ∈ u.faultTable x.die, ¬ (f.asn = x.asn ∧ f.page = x.page))) ∧
  (∀ (s : State) (slot off : Nat) (data : List Byte), s.pkg.bars = true → slot < 16 → off + data.length ≤ 65536 →
    (∀ x, spFind s.mmp.slots slot = some x → ∃ u, Happens (.apertureWrite slot off data) s u ∧
      WrittenBy s.mem u.mem (data.zipIdx.map (fun b => ((framePlace x.die x.frame true).add (off + b.2), b.1)))) ∧
    (spFind s.mmp.slots slot = none → ∃ u, Happens (.apertureWrite slot off data) s u ∧ u.mem = s.mem ∧ u.pkg.errs.apDropped = s.pkg.errs.apDropped + 1)) ∧
  (∀ (s : State) (asn die : Nat) (va : DWord) (at_ : PAddr) (w : DWord) (big : Bool), die < 8 → s.walk asn va = .leaf at_ w big → leafPresent w = true →
    let n := if big then 4096 else 1
    let page := vpage va / n * n
    let old := placeOf w big (BitVec.ofNat 64 (65536 * page))
    (∀ b, s.heldAt old = false → s.roomAt die n (homeBit w) = some b → s.movable asn page n old = true → s.engineUse old n = false →
      ∃ u, Happens (.pageMove asn va die) s u ∧ u.heldAt old = true ∧ SameBytes s.mem u.mem) ∧
    (∀ new, s.heldAt old = true → s.requestsTo old n = false → s.target? asn page die old = some new → s.MemOk → (at_.key + 8 ≤ new.key ∨ new.key + 65536 * n ≤ at_.key) →
      ∃ u, Happens (.pageMove asn va die) s u ∧ u.heldAt old = false ∧ (∀ k < 65536 * n, u.mem.byte (new.add k) = s.mem.byte (old.add k)) ∧
        u.mem.num at_ 8 = (leafAt w new keepAll).toNat)) ∧
  (∀ (s : State) (asn : Nat) (base : DWord) (len : Nat), s.overWindow asn base len = true → Happens (.registerStampedRegion asn base len) s s) ∧
  (∀ (s : State) (asn : Nat) (base : DWord) (len : Nat) (ps : List (DWord × PAddr)), s.overWindow asn base len = false → base.toNat % 65536 = 0 → len % 65536 = 0 → len ≠ 0 → s.regionPages asn base len = some ps →
    let table (d : Nat) : List Region := (spFind s.mmp.stamped d).getD []
    (∀ y ∈ ps, (table y.2.unit).length < 256) → ∃ u, Happens (.registerStampedRegion asn base len) s u ∧ u.mem = s.mem ∧
      ∀ y ∈ ps, spFind u.mmp.stamped y.2.unit = some (table y.2.unit ++ [{ asn := asn, base := base, len := len, tags := 0 }])) ∧
  (∀ (s : State) (die asn : Nat) (base : DWord) (len f : Nat) (ps : List (DWord × PAddr)), base.toNat % 65536 = 0 → len % 65536 = 0 → len ≠ 0 → s.regionClash asn base len = false →
    s.regionPages asn base len = some ps → (s.pinPages asn ps (1#49 <<< 48)).freeFrames die (ceilDiv (len / 16) 65536) = some f → (∀ y ∈ ps, y.2.unit = die ∧ s.inUse y.2 1 = false) →
    let table : List Region := (spFind s.mmp.logged die).getD []
    let tag (i : Nat) : PAddr := { store := .sram, unit := die, off := 65536 * f + i }
    table.length < 64 → ∃ u, Happens (.registerLoggedRegion die asn base len) s u ∧
      spFind u.mmp.logged die = some (table ++ [{ asn := asn, base := base, len := len, tags := 65536 * f }]) ∧
      (∀ i < len / 16, u.mem.byte (tag i) = 0) ∧ (∀ a : PAddr, (∀ i < len / 16, a.key ≠ (tag i).key) → u.mem.byte a = s.mem.byte a)) ∧
  (∀ (s : State) (slice size : Nat), slice < 1024 → size % 65536 = 0 → 65536 ≤ size → size ≤ 2 ^ 24 →
    let x := s.undoOf slice
    (x.used ≠ [] → Happens (.undoAreaSize slice size) s s) ∧
    (x.used = [] → size ≤ x.size → ∃ u, Happens (.undoAreaSize slice size) s u ∧ u.undoOf slice = { base := x.base, size := size, used := [], next := 0 }) ∧
    (∀ f, x.used = [] → x.size < size → s.freeFrames (slice / 128) (size / 65536) = some f →
      ∃ u, Happens (.undoAreaSize slice size) s u ∧ u.undoOf slice = { base := 65536 * f, size := size, used := [], next := 0 })) ∧
  (∀ (s : State) (slice line : Nat) (T : DWord), s.pkg.sweeps = [(T, [(slice, line)])] → s.mem.poison = [] →
    let a := sramLine line
    s.heldAt a = false → s.ownedAt a = false → (∀ k < 64, (s.marks (a.add k)).tx = false) → ∃ u, Happens (.pruneSweep slice) s u ∧ u.pkg.sweeps = [(T, [])] ∧
      (∀ i < 8, let old : DWord := BitVec.ofNat 64 (s.mem.num (a.add (8 * i)) 8)
        u.mem.num (a.add (8 * i)) 8 = match sweepWord (s.factor (sliceExec slice)) T old with
          | some v => v.toNat
          | none => old.toNat) ∧
      (∀ b : PAddr, (∀ k < 64, b.key ≠ (a.add k).key) → u.mem.byte b = s.mem.byte b)) ∧
  (∀ (s : State) (T : DWord) (r : List (DWord × List (Nat × Nat))), s.pkg.sweeps = (T, []) :: r → ∃ u, Happens .sweepCompletion s u ∧ u.mem = s.mem ∧ u.pkg.sweeps = r)

/-! ### Teams -/

/-- R29 to R37, R43, R44, R86, R201, R257, R303, R311, R314, R317, R344, R345, R351, R354 to R356, R380 to R382, R384: the group whose message waits with the lowest SEQ is installed, as its message brings it, in the first quadrant with room that no aged gang has reserved; one whose lanes are all held at a BAR then arrives there. A cutting is added for every team of the launch, with its entry read from the map and written anew. What waits is placed in its turn: a team with a new name, its groups at their start state and its regions and tiles zero, in frames that have been pinned for it; the threads of a slice launch start at once, in the places of the slice units that no thread has. What fits nowhere asks for the removal of the victims R356 names. A gang ages after 50 µs and takes the cluster that lacks the least. A binding after the other is executed once the core's engine has no command in flight, and a team whose bindings are done starts. A share retires, and with the last one the team. A killed team is gone, and its task has failed. A request for pre-emption halts the package and gives the abandoned matrix instructions back to their streams; a victim goes into its save area with the bytes R382 gives, and comes back with the registers it had; an area whose CHECK does not match fails its task. The model's choices, not the manual's: the group's state that travels beside its message, the room an arriving group looks for, and for whom a cutting is added (log 44); when an installed group's target is tested (log 66); the cluster among equals that lack as little, and how what is lacking is weighed and kept (log 45, 77); how long a core's sequencer is taken and when a share with a stopped stream retires (log 46); when a save begins, and where a restored team's frames lie (log 48); the stopped stream that a halt sets going again (log 78); where regions and frames lie (log 23); the bytes of a save area whose layout R382 leaves open, which are free values (log 22). -/
def Obligations.TeamEvents : Prop :=
  (∀ (s : State) (t j n q : Nat) (T : Team) (sh : Share) (G : Group), s.team? t = some T → T.share? j = some sh → T.phase = .running → sh.retired = false → s.pkg.halt = none →
    firstMsg (T.waitingFor j sh) = some (n, G) →
    let k := (T.groups.filter (fun x => x.core == j && decide (x.gid < G.gid) && (match x.place with | .slot _ => true | _ => false))).length
    (s.usageArriving sh.core).quadFor (T.launch.budget G.role) (k % 4) = some q →
    let H := G.install j q (s.ctl.stamp + 1)
    (H.allAtBar = none → ∃ u, Happens (.messageInstallation t j) s u ∧ u.mem = s.mem ∧ u.group? t G.gid = some H ∧ ∀ g, g ≠ G.gid → u.group? t g = s.group? t g) ∧
    (H.allAtBar ≠ none → ∃ u : State, u.mem = s.mem ∧ u.group? t G.gid = some H ∧ (∀ g, g ≠ G.gid → u.group? t g = s.group? t g) ∧
      Happens (.messageInstallation t j) s (u.tryArrive t G.gid))) ∧
  (∀ (s s2 : State) (t bed core : Nat) (T : Team) (b : Bed) (pa : PAddr) (leaf : DWord), s.team? t = some T → T.phase = .running → T.launch.graft = true → bed < 4096 →
    let va := T.launch.bedmap + BitVec.ofNat 64 (32 * bed)
    let all := s.teams.filter (fun x => x.task == T.task)
    let new : Bed := { b with cores := b.cores ++ [core] }
    (∀ x ∈ all, s.bedRoom core x = true) → (∀ x ∈ s.sched.saved, x.team.task = T.task → x.team.idleCore core = true) →
    s.translate T.asn Need.load false va = .ok pa leaf → bedEntry (s.mem.bytes pa 32) T.launch.cores = some (some b) → b.cores.length < 8 → core ∉ b.cores →
    s.mem.poisoned [pa.line] = false → s.pinEach core b (all.filter (·.phase == .running)) = .ok s2 →
    ∃ u, Happens (.addCutting t bed core) s u ∧ u.teams = s2.teams.map (fun x => if x.task == T.task then x.withCutting bed core new else x) ∧
      (∀ k < 32, some (u.mem.byte (pa.add k)) = (bedBytes new)[k]?) ∧
      ∀ a : PAddr, (∀ k < 32, a.key ≠ (pa.add k).key) → u.mem.byte a = (s2.touch T.asn va true).mem.byte a) ∧
  (∀ (s : State) (t bytes : Nat) (T : Team), s.team? t = some T → T.phase = .running → T.ovfUsed + bytes ≤ T.ovfBytes →
    ∃ u, Happens (.overflowAreaReclaim t bytes) s u ∧ u.mem = s.mem ∧ u.team? t = some { T with ovfBytes := T.ovfBytes - bytes }) ∧
  (∀ (s : State) (task : Nat) (L : Launch) (r : Ready), (s.task task).toPlace = some L → s.readyOf task (s.task task) = some r → s.outranked r = false →
    let e := s.task task
    (L.kind = 1 → s.sliceRoom L = true → ∃ u ths, Happens (.placement task) s u ∧ u.mem = s.mem ∧ u.teams = s.teams ∧ u.threads = s.threads ++ ths ∧
      ths.length = (L.teams + 1) * L.nv ∧
      ∀ th ∈ ths, th.task = task ∧ th.slice ≤ L.teams ∧ th.idx < L.nv ∧ th.num < 4 ∧ (∀ x ∈ s.threads, x.slice = th.slice → x.num ≠ th.num) ∧ th.pc = L.entry L.entryV ∧ th.step = s.pkg.gstep ∧ th.p = [] ∧
        ∀ l < 16, nth 0 (spGet [] th.v 0) l = L.param.setWidth 32 ∧ nth 0 (spGet [] th.v 1) l = (L.param >>> 32).setWidth 32 ∧
          nth 0 (spGet [] th.v 2) l = s.pkg.gstep.setWidth 32 ∧ nth 0 (spGet [] th.v 3) l = (s.pkg.gstep >>> 32).setWidth 32) ∧
    (∀ ps s2 fs, L.kind ≠ 1 → s.placesFor r = some ps → s.takeFrames (dieOfPlaces ps) r.frames = some (s2, fs) → ∃ u T, Happens (.placement task) s u ∧ u.teams = s2.teams ++ [T] ∧
      T.id = s2.ctl.nextTeam ∧ T.homes ++ T.area = fs ∧ T.areaDie = dieOfPlaces ps ∧ T.phase = .placed ∧ T.task = task ∧ T.teamId = e.nextTeam ∧ T.recbase = (s2.queue e.queue).recbase ∧ T.trapvec = L.trapvec ∧
      T.shares.map (·.core) = ps.map (·.1) ∧ T.groups.length = L.nv + L.nc ∧ (u.task task).nextTeam = (s2.task task).nextTeam + 1 ∧
      (∀ g < L.nv + L.nc, ∃ G, T.groups[g]? = some G ∧ G.gid = g ∧ G.role = L.roleOf g ∧
        G.lanes = laneList.map (fun _ => Lane.start (L.entry (if g < L.nv then L.entryV else L.entryC))) ∧
        spGet (0 : Word) G.s 0 = L.param.setWidth 32 ∧ spGet (0 : Word) G.s 1 = (L.param >>> 32).setWidth 32 ∧ (∀ r, 2 ≤ r → spGet (0 : Word) G.s r = 0) ∧ G.m = [] ∧ G.l = [] ∧ G.h = [] ∧ G.inHandler = false) ∧
      (∀ sh ∈ T.shares, (∀ k < sh.scratchLen, u.mem.byte { store := .scratch, unit := sh.core, off := sh.scratchBase + k } = 0) ∧
        ∀ n ∈ sh.tiles, ∀ k < 16384, u.mem.byte { store := .acc, unit := sh.core, off := 16384 * n + k } = 0)) ∧
    (∀ vs, L.kind ≠ 1 → s.placesFor r = none → s.pkg.halt = none → s.victims r = some vs →
      ∃ u, Happens (.placement task) s u ∧ u.mem = s.mem ∧ u.pkg.halt = some (vs.map (·.id)))) ∧
  (∀ (s : State) (key : Nat) (r : Ready), s.readies.find? (fun r => r.key == key) = some r → r.slices = none → 2 ≤ r.needs.length → s.sched.gangs = [] →
    r.since + 50000 ≤ s.pkg.time.toNat → s.fitsNow r = false → r.aged = none → (∀ x ∈ s.readies, x.aged = none) →
    ∃ u cl, Happens (.gangAging key) s u ∧ u.mem = s.mem ∧ u.sched.gangs = [(key, cl, s.ctl.stamp + 1)] ∧ cl < 32 ∧ ∀ c < 32, s.lacking r cl ≤ s.lacking r c) ∧
  (∀ (s : State) (t j : Nat) (T : Team) (sh : Share), s.team? t = some T → T.share? j = some sh → T.phase = .placed → sh.bound < 4 → s.pkg.halt = none → (s.core sh.core).cur = none →
    let b := nth 0 T.launch.binds sh.bound
    (b = 0 → ∃ u, Happens (.transformBinding t j) s u ∧ u.mem = s.mem ∧ (u.team? t).bind (fun T => T.share? j) = some { sh with bound := sh.bound + 1 }) ∧
    (∀ s2, b ≠ 0 → s.bindOne T j sh b = .done s2 → Happens (.transformBinding t j) s (s2.modShare t j (fun sh => { sh with bound := sh.bound + 1 }))) ∧
    (∀ s2 c, b ≠ 0 → s.bindOne T j sh b = .failed s2 c → Happens (.transformBinding t j) s (s2.failTask T.task c T.teamId))) ∧
  (∀ (s s2 : State) (t : Nat) (T : Team), s.team? t = some T → T.phase = .placed → (∀ sh ∈ T.shares, 4 ≤ sh.bound) → s.pkg.halt = none →
    (∀ U ∈ s.teams ++ s.sched.saved.map (·.team), U.task = T.task → U.teamId < T.teamId → U.phase ≠ .placed) → s.pinTeam T T.shares = .ok s2 →
    ∃ u, Happens (.teamStart t) s u ∧ u.mem = s2.mem ∧ ∀ T2, s2.team? t = some T2 → ∃ T', u.team? t = some T' ∧ T'.phase = .running ∧ T'.groups = T2.groups ∧
      ∀ j sh, T2.share? j = some sh → (T'.share? j).map (·.seq) = some { sh.seq with st := if sh.seq.st = .absent then .absent else .running }) ∧
  (∀ (s : State) (t j : Nat) (T : Team) (sh : Share), s.team? t = some T → T.share? j = some sh → s.shareDone T j sh = true →
    let T' := T.setShare j { sh with retired := true }
    (T'.shares.all (·.retired) = false → ∃ u, Happens (.shareRetire t j) s u ∧ u.mem = s.mem ∧ u.team? t = some T') ∧
    (T'.shares.all (·.retired) = true → ∃ u, Happens (.shareRetire t j) s u ∧ u.mem = s.mem ∧ u.team? t = none ∧ (u.task T.task).doneTeams = (s.task T.task).doneTeams + 1)) ∧
  (∀ (s : State) (t : Nat) (c : Byte) (T : Team) (bySystem : Bool), s.team? t = some T → T.phase = .killed c bySystem →
    (∃ u, Happens (.kill t c) s u ∧ u.team? t = none ∧ (∀ k, ∀ e ∈ (u.core k).sq, e.t ≠ t) ∧ SameBytes s.mem u.mem ∧
      (bySystem = false → (s.task T.task).st = .ready → (s.task T.task).failed = none → (s.task T.task).killed = false → (u.task T.task).failed = some (c, T.teamId))) ∧
    ∀ x, x ≠ c → Happens (.kill t x) s s) ∧
  (∀ (s : State) (vs : List Nat),
    (s.pkg.halt ≠ none → Happens (.preemptionRequest vs) s s) ∧
    (s.pkg.halt = none → ∃ u, Happens (.preemptionRequest vs) s u ∧ u.mem = s.mem ∧ u.pkg.halt = some (vs.filter s.isResident) ∧
      ∀ t j T sh m, s.team? t = some T → T.share? j = some sh → sh.firstMat = some m →
        ∃ T' sh', u.team? t = some T' ∧ T'.share? j = some sh' ∧ sh'.seq.pc = m.pc ∧ sh'.seq.st = .running ∧
          sh'.redo = sh.pendingMats ++ sh.redo ∧ sh'.mul = { started := none, waiting := none } ∧ sh'.drain = { started := none, waiting := none })) ∧
  (∀ (s : State) (t first : Nat) (vs : List Nat) (T T1 : Team), s.pkg.halt = some vs → t ∈ vs → s.team? t = some T → T.resident = true → (s.beforeSave T).team? t = some T1 →
    (∀ U ∈ s.teams, ∀ G ∈ U.groups, G.run = none) → s.teamDrained T = true → (∀ G ∈ T.groups, G.parks = []) →
    s.freeLpddr T.die (areaFrames T.sections.2) = some first →
    let image := (s.beforeSave T).saveImage T1
    ∃ u x, Happens (.contextSave t) s u ∧ u.team? t = none ∧ u.sched.saved = (s.beforeSave T).sched.saved ++ [x] ∧ x.team = { T1 with area := [] } ∧ x.areaLen = T1.sections.2 ∧
      x.area = framePlace T1.die first false ∧ ∀ k b, image[k]? = some b → u.mem.byte (x.area.add k) = b) ∧
  (∀ (s : State) (idx : Nat) (x : Saved), s.sched.saved[idx]? = some x → s.pkg.halt = none → s.outranked (x.ready idx) = false →
    (∀ vs, s.placesFor (x.ready idx) = none → s.victims (x.ready idx) = some vs → ∃ u, Happens (.contextRestore idx) s u ∧ u.mem = s.mem ∧ u.pkg.halt = some (vs.map (·.id))) ∧
    ∀ ps, s.placesFor (x.ready idx) = some ps →
    (∀ s2 fs, s.areaOk x = true → s.takeFrames (dieOfPlaces ps) (x.ready idx).frames = some (s2, fs) → s2.team? x.team.id = none → (∀ sh ∈ x.team.shares, sh.pinned = none) →
      ∃ u T', Happens (.contextRestore idx) s u ∧ u.sched.saved = s2.sched.saved.eraseIdx idx ∧ u.team? x.team.id = some T' ∧ T'.phase = x.team.phase ∧ T'.area = fs ∧ T'.areaDie = dieOfPlaces ps ∧
        T'.groups.map (fun G => (G.gid, G.lanes, G.s, G.m, G.l, G.h)) = x.team.groups.map (fun G => (G.gid, G.lanes, G.s, G.m, G.l, G.h)) ∧
        ∀ G ∈ T'.groups, (∀ h, G.place = .message h → h.kind ≠ 3) → G.xs = []) ∧
    (s.areaOk x = false → ∃ u, Happens (.contextRestore idx) s u ∧ u.mem = s.mem ∧
      ((s.task x.team.task).st = .ready → (s.task x.team.task).failed = none → (s.task x.team.task).killed = false → (u.task x.team.task).failed = some (0x50, x.team.teamId))))

/-! ### Windows, transport, links, ports and the package -/

/-- R322 to R324, R330, R331, R334, R335, R339, R340, R349, R386, R391, R393, R395, R400, R402, R403, R562: a window is mapped with its counters at 0 and every peer live, and refused where its number has an entry; one unmapped is gone. A binding fires at once or is kept; one whose member is lost never fires. A record that its window can land writes its bytes and raises its member's counter, one that an additive window cannot take is counted and costs the member; a loop-back path lands its next capture, and costs a destination that does not agree. A die's copy takes the counters' next values. A data frame that is next in order is applied, a duplicate drops, a bad tag is counted; an acknowledgement releases the frames up to it; a frame is resent after 20 µs, without its records where their destination is lost; a handshake that verifies with a key of its session's list opens the session with new keys, and a key that is used up begins a fresh exchange; a keepalive is sent after DEADLINE / 4; a silent peer is lost. A flit that is next in order is delivered once; a module retrains to the width found, its directions' numbers and replay buffers unchanged and what is unacknowledged to be sent again; failing flits, replays and retrains are counted. The ports, the attestation report, FREEZE and the idle cores do as their rules say. The model's choices, not the manual's: what a window entry is checked for and when a request to map or unmap waits (log 49); the numbering of frames and the landing of a frame's records in one step (log 50); that a peer is lost by an event at or after DEADLINE, and when a key is used up (log 51); that one event stands for a flit's sending, arrival and acknowledgement, and how a module trains (log 52); what a frozen and a refused package still take, and the place of what no rule gives in the report (log 54); frames without cipher text (log 21). -/
def Obligations.SystemEvents : Prop :=
  (∀ (s : State) (die : Nat) (entry : BitVec 4608) (ps rs : List (DWord × PAddr)),
    let bs := bytesOf entry
    let e := winEntryOf bs
    die < 8 → e.fieldsOk bs s.pkg.pkgid = true →
    (s.window? e.wid ≠ none → Happens (.windowMap die entry) s s) ∧
    (s.window? e.wid = none → (∀ d ∈ s.mmp.stamped, ∀ r ∈ d.2, r.asn = e.asn → rangesMeet e.base e.size r.base r.len = false) →
      s.residentOn e.asn die false (pagesOf e.base e.size) = some ps → s.residentOn e.asn die true (if e.resid = 0 then [] else pagesOf e.resid e.size) = some rs →
      (s.pagesBusy ps = true → s.awaits (.windowMap die entry) = true) ∧
      (s.pagesBusy ps = false → ∃ u w, Happens (.windowMap die entry) s u ∧ u.refl.windows = s.refl.windows ++ [w] ∧ u.window? e.wid = some w ∧ w.die = die ∧ w.mode = e.mode ∧
        w.tx = (e.kind % 2 == 1) ∧ w.rx = (e.kind / 2 % 2 == 1) ∧ w.base = e.base ∧ w.size = e.size ∧ w.asn = e.asn ∧ w.session = e.session ∧ w.deadline = e.deadline ∧
        w.dests = e.dests.map peerOf ∧ w.mems = e.mems.map peerOf ∧ w.captured = 0 ∧ w.sent = 0 ∧ w.caps = [] ∧
        (∀ m ∈ w.members, m.landed = 0 ∧ m.live = true ∧ m.heard = s.pkg.time.toNat) ∧ (∀ p ∈ w.paths, p.live = true ∧ p.ackedCaps = 0 ∧ p.heard = s.pkg.time.toNat) ∧
        (e.resid = 0 → u.mem = s.mem)))) ∧
  (∀ (s : State) (win : Nat) (w : Window), s.window? win = some w → s.pagesBusy (s.windowPages w) = false →
    ∃ u, Happens (.windowUnmap win) s u ∧ u.mem = s.mem ∧ u.window? win = none ∧ ∀ x, x ≠ win → u.window? x = s.window? x) ∧
  (∀ (s : State) (win sel : Nat) (n : DWord) (task : Nat) (w : Window) (c : DWord), s.window? win = some w → sel ≤ 64 → task < 65536 → s.refl.binds.length < 1024 →
    w.counters.value w sel = some c →
    (w.alive sel = true → (c - n).toNat < 2 ^ 63 → ∃ u, Happens (.bindWindowCounter win sel n task) s u ∧ u.refl = s.refl ∧ u.sched.decs = s.sched.decs ++ [{ task := task }]) ∧
    (w.alive sel = false ∨ 2 ^ 63 ≤ (c - n).toNat → ∃ u, Happens (.bindWindowCounter win sel n task) s u ∧ u.sched = s.sched ∧
      u.refl.binds = s.refl.binds ++ [{ win := win, sel := sel, n := n, task := task }])) ∧
  (∀ (s : State) (idx : Nat), idx < s.refl.binds.length → ∃ u, Happens (.bindingRemoval idx) s u ∧ u.mem = s.mem ∧ u.refl.binds = s.refl.binds.eraseIdx idx) ∧
  (∀ (s : State) (pkg m : Nat) (r : FrameRec) (w : Window), s.window? r.rxWin = some w → w.memberOf pkg r.txWin = some m →
    (landable r w = true → (∀ b ∈ s.landBytes w r, s.heldAt b.1 = false ∧ s.ownedAt b.1 = false) → (w.mode = 0 ∨ s.mem.poison = []) →
      ∃ u v, s.landRec pkg r = .ok u ∧ WrittenBy s.mem u.mem (s.landBytes w r) ∧ u.window? r.rxWin = some v ∧
        (v.members[m]?).map (·.landed) = (w.members[m]?).map (fun x => x.landed + BitVec.ofNat 64 r.len) ∧
        ∀ k, k ≠ m → v.members[k]? = w.members[k]?) ∧
    (landable r w = false → w.mode ≠ 0 → m < w.members.length → ∃ u v, s.landRecs pkg [r] = .ok u ∧ u.mem = s.mem ∧
      u.pkg.errs.misaligned = s.pkg.errs.misaligned + 1 ∧ u.window? r.rxWin = some v ∧ (v.members[m]?).map (·.live) = some false)) ∧
  (∀ (s : State) (win dest rxw : Nat) (w r : Window) (p : PathSt) (c : Capture), s.window? win = some w → w.dests[dest]? = some (s.pkg.pkgid, rxw) →
    w.paths[dest]? = some p → p.live = true → w.caps[p.ackedCaps]? = some c → s.window? rxw = some r →
    (w.agrees r s.pkg.pkgid = false → ∃ u v, Happens (.loopbackLanding win dest) s u ∧ u.mem = s.mem ∧ u.window? win = some v ∧ (v.paths[dest]?).map (·.live) = some false) ∧
    (∀ s2 w2 p2, w.agrees r s.pkg.pkgid = true → s.landRecs s.pkg.pkgid (c.recs.map (fun x => { x with rxWin := rxw })) = .ok s2 → s2.window? win = some w2 →
      w2.paths[dest]? = some p2 →
      ∃ u v, Happens (.loopbackLanding win dest) s u ∧ u.mem = s2.mem ∧ u.window? win = some v ∧ (v.paths[dest]?).map (·.ackedCaps) = some (p.ackedCaps + 1))) ∧
  (∀ (s : State) (die win : Nat) (w : Window), s.window? win = some w →
    ((spFind w.updates die).getD [] = [] → Happens (.counterCopyUpdate die win) s s) ∧
    (∀ c r, spFind w.updates die = some (c :: r) → ∃ u v, Happens (.counterCopyUpdate die win) s u ∧ u.mem = s.mem ∧ u.window? win = some v ∧
      v.copyOf die = c ∧ spFind v.updates die = some r ∧ v.counters = w.counters)) ∧
  (∀ (s : State) (f : Frame) (x : Session), f.kind = 0 → s.sessionOf f = some x →
    (f.tagOk = false → ∃ u, Happens (.dataFrame f) s u ∧ u.mem = s.mem ∧ u.refl = s.refl ∧ u.pkg.errs.badTags = s.pkg.errs.badTags + 1) ∧
    (f.tagOk = true → f.seq.toNat ≤ x.recvSeq.toNat → ∃ u y, Happens (.dataFrame f) s u ∧ u.mem = s.mem ∧ u.session? f.session f.peer = some y ∧ y.recvSeq = x.recvSeq) ∧
    (∀ x1 s2, f.tagOk = true → f.checkOk = true → (s.openFrame x f).session? f.session f.peer = some x1 → x1.heldFrames = [] → f.seq = x1.recvSeq + 1 →
      x1.recvSeq.toNat < f.seq.toNat → ((s.openFrame x f).setSession { x1 with heldFrames := [f] }).landRecs f.peer f.records = .ok s2 →
      ∃ u y, Happens (.dataFrame f) s u ∧ u.mem = s2.mem ∧ u.session? f.session f.peer = some y ∧ y.recvSeq = f.seq ∧ y.heldFrames = [])) ∧
  (∀ (s : State) (f : Frame) (x : Session), s.sessionOf f = some x →
    let opened (i : Instr) : Prop := ∃ u y, Happens i s u ∧ u.mem = s.mem ∧ u.session? f.session f.peer = some y ∧ y.recvSeq = x.recvSeq ∧
      y.kept = x.kept.filter (fun k => decide (f.ack.toNat < k.1.seq.toNat))
    let dropped (i : Instr) : Prop := ∃ u, Happens i s u ∧ u.mem = s.mem ∧ u.refl = s.refl ∧ u.pkg.errs.badTags = s.pkg.errs.badTags + 1
    (f.kind = 1 → f.tagOk = true → opened (.acknowledgement f)) ∧ (f.kind = 1 → f.tagOk = false → dropped (.acknowledgement f)) ∧
    (f.kind = 2 → f.tagOk = true → opened (.keepaliveReceipt f)) ∧ (f.kind = 2 → f.tagOk = false → dropped (.keepaliveReceipt f))) ∧
  (∀ (s : State) (i : Nat) (x : Session), s.sessionAt i = some x → x.open_ = true →
    (∀ d, s.sessionDeadline x = some d → x.keyFrames < 2 ^ 31 - 1 →
      (s.pkg.time.toNat < x.lastSent + 250 * d → Happens (.keepalive i) s s) ∧
      (x.lastSent + 250 * d ≤ s.pkg.time.toNat → s.portUp x.peer = true → ∃ u f, Happens (.keepalive i) s u ∧ u.mem = s.mem ∧ u.refl.txFrames = s.refl.txFrames ++ [s.sealed x f] ∧
        f.kind = 2 ∧ f.session = x.id ∧ f.peer = x.peer ∧ f.ack = x.recvSeq ∧ f.records = [])) ∧
    (∀ seq k, x.kept.find? (fun k => k.1.seq == seq) = some k →
      (s.pkg.time.toNat < k.2.1 + 20000 → Happens (.frameResend i seq) s s) ∧
      (2 ^ 31 - 1 ≤ x.keyFrames → Happens (.frameResend i seq) s s) ∧
      (k.2.1 + 20000 ≤ s.pkg.time.toNat → x.keyFrames < 2 ^ 31 - 1 → s.portUp x.peer = true → ∃ u, Happens (.frameResend i seq) s u ∧ u.mem = s.mem ∧
        u.refl.txFrames = s.refl.txFrames ++ [s.sealed x (s.resent x k)])) ∧
    (x.keyFrames < 2 ^ 31 - 1 ∨ x.asked = true → Happens (.rekey i) s s) ∧
    (2 ^ 31 - 1 ≤ x.keyFrames → x.asked = false → s.portUp x.peer = true → ∃ u y, Happens (.rekey i) s u ∧ u.mem = s.mem ∧ u.session? x.id x.peer = some y ∧ y.asked = true ∧
      y.keyGen = x.keyGen ∧ ∃ f, f.kind = 3 ∧ f.session = x.id ∧ f.peer = x.peer ∧ u.refl.txFrames = s.refl.txFrames ++ [s.sealed x f])) ∧
  (∀ (s : State) (p : PeerShow),
    ((s.setUp p).accepts p = true ↔ p.signed = true ∧ p.key ∈ (spFind (s.setUp p).refl.keys p.session).getD []) ∧
    ((s.setUp p).accepts p = false ∨ (s.setUp p).portUp p.peer = false → Happens (.handshake p) s (s.setUp p)) ∧
    ((s.setUp p).accepts p = true → (s.setUp p).portUp p.peer = true → ∃ u y, Happens (.handshake p) s u ∧ u.mem = s.mem ∧ u.session? p.session p.peer = some y ∧ y.open_ = true ∧
      (∀ x, s.session? p.session p.peer = some x → y.keyGen = x.keyGen + 1) ∧ (s.session? p.session p.peer = none → y.keyGen = 1 ∧ y.recvSeq = 0))) ∧
  (∀ (s : State) (win idx : Nat) (w : Window) (p : Nat × Nat), s.window? win = some w → (∀ member, s.ownThere win member p = false) →
    (∀ st, w.dests[idx]? = some p → w.paths[idx]? = some st → st.live = true → st.heard + 1000 * w.deadline ≤ s.pkg.time.toNat →
      ∃ u v, Happens (.peerLost win false idx) s u ∧ u.mem = s.mem ∧ u.window? win = some v ∧ (v.paths[idx]?).map (·.live) = some false ∧ v.members = w.members) ∧
    (∀ st, w.mems[idx]? = some p → w.members[idx]? = some st → st.live = true → st.heard + 1000 * w.deadline ≤ s.pkg.time.toNat →
      ∃ u v, Happens (.peerLost win true idx) s u ∧ u.mem = s.mem ∧ u.window? win = some v ∧ (v.members[idx]?).map (·.live) = some false ∧ v.paths = w.paths)) ∧
  (∀ (s : State) (edge module seq : Nat) (back : Bool), module < edgeModules edge →
    let x := s.link edge module
    let d := x.dir back
    x.down = false →
    (∀ d1, seq < 1024 → x.mustTrain = false → d.send seq = some d1 →
      (d.naks = [] → seq = (d.rxSeq + 1) % 1024 → (∀ l ∈ d1.taken seq, ∀ h ∈ l.after (edge, back), h.1 ≠ edge) → ∃ u, Happens (.flitReceive (linkNum edge back) module seq true) s u ∧ u.mem = s.mem ∧
        ((u.link edge module).dir back).delivered = d.delivered ++ [seq] ∧ ((u.link edge module).dir back).rxSeq = seq ∧ (u.link edge module).dir (!back) = x.dir (!back)) ∧
      (¬ (d.naks = [] ∧ seq = (d.rxSeq + 1) % 1024) → ∃ u, Happens (.flitReceive (linkNum edge back) module seq true) s u ∧ u.mem = s.mem ∧
        ((u.link edge module).dir back).delivered = d.delivered ∧ ((u.link edge module).dir back).rxSeq = d.rxSeq ∧ (u.link edge module).dir (!back) = x.dir (!back)) ∧
      (∃ u, Happens (.flitReceive (linkNum edge back) module seq false) s u ∧ u.mem = s.mem ∧ ((u.link edge module).dir back).delivered = d.delivered ∧
        ((u.link edge module).dir back).naks = (if d.naks = [] then [d.rxSeq] else d.naks) ∧ (u.link edge module).dir (!back) = x.dir (!back) ∧
        (u.link edge module).crcFails = x.crcFails + 1 ∧ u.pkg.irqs = s.pkg.irqs ++ [(s.irqPort 3, 3)])) ∧
    (∀ good rest, x.mustTrain = false → d.naks = good :: rest → ∃ u, Happens (.flitReplay (linkNum edge back) module good) s u ∧ u.mem = s.mem ∧
      (u.link edge module).dir back = { d with naks := [], again := d.replay.map (·.1) } ∧ (u.link edge module).dir (!back) = x.dir (!back) ∧
      (u.link edge module).replays = x.replays + 1 ∧ u.pkg.irqs = s.pkg.irqs ++ [(s.irqPort 3, 3)]) ∧
    (∀ found : TrainResult, ∃ u, Happens (.retrain edge module found) s u ∧ u.mem = s.mem ∧ u.pkg.errs.retrains = s.pkg.errs.retrains + 1 ∧
      (u.link edge module).retrains = x.retrains + 1 ∧ (u.link edge module).crcTimes = [] ∧
      (u.link edge module).width = (match found with | .full => 64 | .halfLow => 32 | .halfHigh => 32 | .down => 0) ∧
      (u.link edge module).down = (found == .down) ∧
      (found = .halfLow → (u.link edge module).high = false) ∧ (found = .halfHigh → (u.link edge module).high = true) ∧
      (found ≠ .down → (u.link edge module).dir back = { d with naks := [], again := d.replay.map (·.1) }) ∧
      (found = .down → edge < 14 → ((u.link edge module).dir back).delivered = d.delivered ++ d.replay.map (·.1)) ∧
      (found = .down → u.edgeDown edge = true → ∀ t ∈ u.cutOff, ∀ T, u.team? t = some T → T.phase = .done ∨ ∃ c b, T.phase = .killed c b))) ∧
  (∀ (s : State) (port width : Nat), port < 2 → width ∈ [16, 8, 4, 2, 1] → ∃ u, Happens (.hostLinkTraining port width) s u ∧ u.mem = s.mem ∧ spFind u.pkg.ports port = some width) ∧
  (∀ (s : State) (port : Nat), port < 8 → (port ∈ s.pkg.ethDown → ∀ k, Happens (.ethernetFrame port k) s s) ∧
    (port ∉ s.pkg.ethDown → (∃ u, Happens (.ethernetFrame port .other) s u ∧ u.mem = s.mem ∧ u.pkg.errs.ethDropped = s.pkg.errs.ethDropped + 1 ∧ u.pkg.ethOut = s.pkg.ethOut) ∧
    ∀ k, k ≠ .other → ∃ u, Happens (.ethernetFrame port k) s u ∧ u.mem = s.mem ∧ u.pkg.errs = s.pkg.errs ∧ u.pkg.ethOut = s.pkg.ethOut ++ [(port, k)])) ∧
  (∀ (s : State) (vec port : Nat) (r : List Setting), s.ctl.settings = .vectorPort vec port :: r → vec < 4 → port < 2 →
    ∃ u, stepMove .setting s = .next u ∧ u.mem = s.mem ∧ u.irqPort vec = port ∧ u.ctl.settings = r) ∧
  (∀ (s : State) (nonce : BitVec 256), s.pkg.power ≠ .refused → ∃ u, Happens (.attestationRequest nonce) s u ∧ u.mem = s.mem ∧ u.pkg.irqs = s.pkg.irqs ++ [(s.irqPort 2, 2)] ∧
    let m := u.pkg.mailbox
    m.take 4 = [1, 0, 0, 0] ∧ (m.drop 8).take 32 = bytesOf nonce ∧ (m.drop 40).take 32 = bytesOf Config.serial ∧
    (s.pkg.meas.length ≤ 8 → m.length = 1100 ∧ (m.drop 4).take 4 = natBytes 4 s.pkg.meas.length ∧ (m.drop 584).take 4 = natBytes 4 s.pkg.svn ∧
      m.drop 588 = bytesOf (Config.signature (m.take 588)))) ∧
  (∀ s : State, (s.pkg.debugOn = false → Happens .freeze s s) ∧
    (s.pkg.debugOn = true → ∃ u, Happens .freeze s u ∧ u.mem = s.mem ∧ u.teams = s.teams ∧ u.cores = s.cores ∧ u.pkg.frozen = true) ∧
    (s.pkg.frozen = true → (∀ i ∈ s.ctl.inputs, ∀ images, i ≠ .powerOnReset images) → step s = .fault .frozen) ∧
    (∀ before images r, s.pkg.frozen = true → s.ctl.inputs = before ++ .powerOnReset images :: r → (∀ i ∈ before, ∀ x, i ≠ .powerOnReset x) →
      step s = exec (.powerOnReset images) { s with ctl := { s.ctl with inputs := before ++ r } })) ∧
  (∀ (s : State) (core : Nat), core < 512 → (s.core core).gated = false → (∀ T ∈ s.teams, ∀ j sh, T.share? j = some sh → sh.core = core → sh.retired = true ∧ T.messageFor j = false) →
    ∃ u, Happens (.clockGatedIdle core) s u ∧ u.mem = s.mem ∧ u.teams = s.teams ∧ u.core core = { s.core core with gated := true } ∧ ∀ k, k ≠ core → u.core k = s.core k)
end

