-- ==== Sys2Proof/Laws/State.lean ====
section
/-! SUPPORT. What each update of the state leaves in each of its fields, and what looking up finds after replacing. -/

namespace Sys2Proof.Machine

@[simp] theorem State.setCore_ctl (s : State) (c : Nat) (x : Core) : (s.setCore c x).ctl = s.ctl := rfl
@[simp] theorem State.setCore_pkg (s : State) (c : Nat) (x : Core) : (s.setCore c x).pkg = s.pkg := rfl
@[simp] theorem State.setCore_mem (s : State) (c : Nat) (x : Core) : (s.setCore c x).mem = s.mem := rfl
@[simp] theorem State.setCore_mmp (s : State) (c : Nat) (x : Core) : (s.setCore c x).mmp = s.mmp := rfl
@[simp] theorem State.setCore_refl (s : State) (c : Nat) (x : Core) : (s.setCore c x).refl = s.refl := rfl
@[simp] theorem State.setCore_links (s : State) (c : Nat) (x : Core) : (s.setCore c x).links = s.links := rfl
@[simp] theorem State.setCore_sched (s : State) (c : Nat) (x : Core) : (s.setCore c x).sched = s.sched := rfl
@[simp] theorem State.setCore_cores (s : State) (c : Nat) (x : Core) : (s.setCore c x).cores = spPut Core.empty s.cores c x := rfl
@[simp] theorem State.setCore_teams (s : State) (c : Nat) (x : Core) : (s.setCore c x).teams = s.teams := rfl
@[simp] theorem State.setCore_threads (s : State) (c : Nat) (x : Core) : (s.setCore c x).threads = s.threads := rfl

@[simp] theorem State.setTeam_ctl (s : State) (T : Team) : (s.setTeam T).ctl = s.ctl := rfl
@[simp] theorem State.setTeam_pkg (s : State) (T : Team) : (s.setTeam T).pkg = s.pkg := rfl
@[simp] theorem State.setTeam_mem (s : State) (T : Team) : (s.setTeam T).mem = s.mem := rfl
@[simp] theorem State.setTeam_mmp (s : State) (T : Team) : (s.setTeam T).mmp = s.mmp := rfl
@[simp] theorem State.setTeam_refl (s : State) (T : Team) : (s.setTeam T).refl = s.refl := rfl
@[simp] theorem State.setTeam_links (s : State) (T : Team) : (s.setTeam T).links = s.links := rfl
@[simp] theorem State.setTeam_sched (s : State) (T : Team) : (s.setTeam T).sched = s.sched := rfl
@[simp] theorem State.setTeam_cores (s : State) (T : Team) : (s.setTeam T).cores = s.cores := rfl
@[simp] theorem State.setTeam_teams (s : State) (T : Team) : (s.setTeam T).teams = s.teams.map (fun x => if x.id == T.id then T else x) := rfl
@[simp] theorem State.setTeam_threads (s : State) (T : Team) : (s.setTeam T).threads = s.threads := rfl

@[simp] theorem State.modCore_ctl (s : State) (c : Nat) (f : Core → Core) : (s.modCore c f).ctl = s.ctl := rfl
@[simp] theorem State.modCore_pkg (s : State) (c : Nat) (f : Core → Core) : (s.modCore c f).pkg = s.pkg := rfl
@[simp] theorem State.modCore_mem (s : State) (c : Nat) (f : Core → Core) : (s.modCore c f).mem = s.mem := rfl
@[simp] theorem State.modCore_mmp (s : State) (c : Nat) (f : Core → Core) : (s.modCore c f).mmp = s.mmp := rfl
@[simp] theorem State.modCore_refl (s : State) (c : Nat) (f : Core → Core) : (s.modCore c f).refl = s.refl := rfl
@[simp] theorem State.modCore_links (s : State) (c : Nat) (f : Core → Core) : (s.modCore c f).links = s.links := rfl
@[simp] theorem State.modCore_sched (s : State) (c : Nat) (f : Core → Core) : (s.modCore c f).sched = s.sched := rfl
@[simp] theorem State.modCore_cores (s : State) (c : Nat) (f : Core → Core) : (s.modCore c f).cores = spPut Core.empty s.cores c (f (s.core c)) := rfl
@[simp] theorem State.modCore_teams (s : State) (c : Nat) (f : Core → Core) : (s.modCore c f).teams = s.teams := rfl
@[simp] theorem State.modCore_threads (s : State) (c : Nat) (f : Core → Core) : (s.modCore c f).threads = s.threads := rfl

@[simp] theorem State.modPkg_ctl (s : State) (f : Pkg → Pkg) : (s.modPkg f).ctl = s.ctl := rfl
@[simp] theorem State.modPkg_pkg (s : State) (f : Pkg → Pkg) : (s.modPkg f).pkg = f s.pkg := rfl
@[simp] theorem State.modPkg_mem (s : State) (f : Pkg → Pkg) : (s.modPkg f).mem = s.mem := rfl
@[simp] theorem State.modPkg_mmp (s : State) (f : Pkg → Pkg) : (s.modPkg f).mmp = s.mmp := rfl
@[simp] theorem State.modPkg_refl (s : State) (f : Pkg → Pkg) : (s.modPkg f).refl = s.refl := rfl
@[simp] theorem State.modPkg_links (s : State) (f : Pkg → Pkg) : (s.modPkg f).links = s.links := rfl
@[simp] theorem State.modPkg_sched (s : State) (f : Pkg → Pkg) : (s.modPkg f).sched = s.sched := rfl
@[simp] theorem State.modPkg_cores (s : State) (f : Pkg → Pkg) : (s.modPkg f).cores = s.cores := rfl
@[simp] theorem State.modPkg_teams (s : State) (f : Pkg → Pkg) : (s.modPkg f).teams = s.teams := rfl
@[simp] theorem State.modPkg_threads (s : State) (f : Pkg → Pkg) : (s.modPkg f).threads = s.threads := rfl

@[simp] theorem State.modMem_ctl (s : State) (f : Mem → Mem) : (s.modMem f).ctl = s.ctl := rfl
@[simp] theorem State.modMem_pkg (s : State) (f : Mem → Mem) : (s.modMem f).pkg = s.pkg := rfl
@[simp] theorem State.modMem_mem (s : State) (f : Mem → Mem) : (s.modMem f).mem = f s.mem := rfl
@[simp] theorem State.modMem_mmp (s : State) (f : Mem → Mem) : (s.modMem f).mmp = s.mmp := rfl
@[simp] theorem State.modMem_refl (s : State) (f : Mem → Mem) : (s.modMem f).refl = s.refl := rfl
@[simp] theorem State.modMem_links (s : State) (f : Mem → Mem) : (s.modMem f).links = s.links := rfl
@[simp] theorem State.modMem_sched (s : State) (f : Mem → Mem) : (s.modMem f).sched = s.sched := rfl
@[simp] theorem State.modMem_cores (s : State) (f : Mem → Mem) : (s.modMem f).cores = s.cores := rfl
@[simp] theorem State.modMem_teams (s : State) (f : Mem → Mem) : (s.modMem f).teams = s.teams := rfl
@[simp] theorem State.modMem_threads (s : State) (f : Mem → Mem) : (s.modMem f).threads = s.threads := rfl

@[simp] theorem State.modMmp_ctl (s : State) (f : Mmp → Mmp) : (s.modMmp f).ctl = s.ctl := rfl
@[simp] theorem State.modMmp_pkg (s : State) (f : Mmp → Mmp) : (s.modMmp f).pkg = s.pkg := rfl
@[simp] theorem State.modMmp_mem (s : State) (f : Mmp → Mmp) : (s.modMmp f).mem = s.mem := rfl
@[simp] theorem State.modMmp_mmp (s : State) (f : Mmp → Mmp) : (s.modMmp f).mmp = f s.mmp := rfl
@[simp] theorem State.modMmp_refl (s : State) (f : Mmp → Mmp) : (s.modMmp f).refl = s.refl := rfl
@[simp] theorem State.modMmp_links (s : State) (f : Mmp → Mmp) : (s.modMmp f).links = s.links := rfl
@[simp] theorem State.modMmp_sched (s : State) (f : Mmp → Mmp) : (s.modMmp f).sched = s.sched := rfl
@[simp] theorem State.modMmp_cores (s : State) (f : Mmp → Mmp) : (s.modMmp f).cores = s.cores := rfl
@[simp] theorem State.modMmp_teams (s : State) (f : Mmp → Mmp) : (s.modMmp f).teams = s.teams := rfl
@[simp] theorem State.modMmp_threads (s : State) (f : Mmp → Mmp) : (s.modMmp f).threads = s.threads := rfl

@[simp] theorem State.modRefl_ctl (s : State) (f : Refl → Refl) : (s.modRefl f).ctl = s.ctl := rfl
@[simp] theorem State.modRefl_pkg (s : State) (f : Refl → Refl) : (s.modRefl f).pkg = s.pkg := rfl
@[simp] theorem State.modRefl_mem (s : State) (f : Refl → Refl) : (s.modRefl f).mem = s.mem := rfl
@[simp] theorem State.modRefl_mmp (s : State) (f : Refl → Refl) : (s.modRefl f).mmp = s.mmp := rfl
@[simp] theorem State.modRefl_refl (s : State) (f : Refl → Refl) : (s.modRefl f).refl = f s.refl := rfl
@[simp] theorem State.modRefl_links (s : State) (f : Refl → Refl) : (s.modRefl f).links = s.links := rfl
@[simp] theorem State.modRefl_sched (s : State) (f : Refl → Refl) : (s.modRefl f).sched = s.sched := rfl
@[simp] theorem State.modRefl_cores (s : State) (f : Refl → Refl) : (s.modRefl f).cores = s.cores := rfl
@[simp] theorem State.modRefl_teams (s : State) (f : Refl → Refl) : (s.modRefl f).teams = s.teams := rfl
@[simp] theorem State.modRefl_threads (s : State) (f : Refl → Refl) : (s.modRefl f).threads = s.threads := rfl

@[simp] theorem State.modSched_ctl (s : State) (f : Sched → Sched) : (s.modSched f).ctl = s.ctl := rfl
@[simp] theorem State.modSched_pkg (s : State) (f : Sched → Sched) : (s.modSched f).pkg = s.pkg := rfl
@[simp] theorem State.modSched_mem (s : State) (f : Sched → Sched) : (s.modSched f).mem = s.mem := rfl
@[simp] theorem State.modSched_mmp (s : State) (f : Sched → Sched) : (s.modSched f).mmp = s.mmp := rfl
@[simp] theorem State.modSched_refl (s : State) (f : Sched → Sched) : (s.modSched f).refl = s.refl := rfl
@[simp] theorem State.modSched_links (s : State) (f : Sched → Sched) : (s.modSched f).links = s.links := rfl
@[simp] theorem State.modSched_sched (s : State) (f : Sched → Sched) : (s.modSched f).sched = f s.sched := rfl
@[simp] theorem State.modSched_cores (s : State) (f : Sched → Sched) : (s.modSched f).cores = s.cores := rfl
@[simp] theorem State.modSched_teams (s : State) (f : Sched → Sched) : (s.modSched f).teams = s.teams := rfl
@[simp] theorem State.modSched_threads (s : State) (f : Sched → Sched) : (s.modSched f).threads = s.threads := rfl

@[simp] theorem State.modCtl_ctl (s : State) (f : Ctl → Ctl) : (s.modCtl f).ctl = f s.ctl := rfl
@[simp] theorem State.modCtl_pkg (s : State) (f : Ctl → Ctl) : (s.modCtl f).pkg = s.pkg := rfl
@[simp] theorem State.modCtl_mem (s : State) (f : Ctl → Ctl) : (s.modCtl f).mem = s.mem := rfl
@[simp] theorem State.modCtl_mmp (s : State) (f : Ctl → Ctl) : (s.modCtl f).mmp = s.mmp := rfl
@[simp] theorem State.modCtl_refl (s : State) (f : Ctl → Ctl) : (s.modCtl f).refl = s.refl := rfl
@[simp] theorem State.modCtl_links (s : State) (f : Ctl → Ctl) : (s.modCtl f).links = s.links := rfl
@[simp] theorem State.modCtl_sched (s : State) (f : Ctl → Ctl) : (s.modCtl f).sched = s.sched := rfl
@[simp] theorem State.modCtl_cores (s : State) (f : Ctl → Ctl) : (s.modCtl f).cores = s.cores := rfl
@[simp] theorem State.modCtl_teams (s : State) (f : Ctl → Ctl) : (s.modCtl f).teams = s.teams := rfl
@[simp] theorem State.modCtl_threads (s : State) (f : Ctl → Ctl) : (s.modCtl f).threads = s.threads := rfl

@[simp] theorem State.modErrs_ctl (s : State) (f : Errs → Errs) : (s.modErrs f).ctl = s.ctl := rfl
@[simp] theorem State.modErrs_pkg (s : State) (f : Errs → Errs) : (s.modErrs f).pkg = { s.pkg with errs := f s.pkg.errs } := rfl
@[simp] theorem State.modErrs_mem (s : State) (f : Errs → Errs) : (s.modErrs f).mem = s.mem := rfl
@[simp] theorem State.modErrs_mmp (s : State) (f : Errs → Errs) : (s.modErrs f).mmp = s.mmp := rfl
@[simp] theorem State.modErrs_refl (s : State) (f : Errs → Errs) : (s.modErrs f).refl = s.refl := rfl
@[simp] theorem State.modErrs_links (s : State) (f : Errs → Errs) : (s.modErrs f).links = s.links := rfl
@[simp] theorem State.modErrs_sched (s : State) (f : Errs → Errs) : (s.modErrs f).sched = s.sched := rfl
@[simp] theorem State.modErrs_cores (s : State) (f : Errs → Errs) : (s.modErrs f).cores = s.cores := rfl
@[simp] theorem State.modErrs_teams (s : State) (f : Errs → Errs) : (s.modErrs f).teams = s.teams := rfl
@[simp] theorem State.modErrs_threads (s : State) (f : Errs → Errs) : (s.modErrs f).threads = s.threads := rfl

@[simp] theorem State.raise_ctl (s : State) (v : Nat) : (s.raise v).ctl = s.ctl := rfl
@[simp] theorem State.raise_pkg (s : State) (v : Nat) : (s.raise v).pkg = { s.pkg with irqs := s.pkg.irqs ++ [(s.irqPort v, v)] } := rfl
@[simp] theorem State.raise_mem (s : State) (v : Nat) : (s.raise v).mem = s.mem := rfl
@[simp] theorem State.raise_mmp (s : State) (v : Nat) : (s.raise v).mmp = s.mmp := rfl
@[simp] theorem State.raise_refl (s : State) (v : Nat) : (s.raise v).refl = s.refl := rfl
@[simp] theorem State.raise_links (s : State) (v : Nat) : (s.raise v).links = s.links := rfl
@[simp] theorem State.raise_sched (s : State) (v : Nat) : (s.raise v).sched = s.sched := rfl
@[simp] theorem State.raise_cores (s : State) (v : Nat) : (s.raise v).cores = s.cores := rfl
@[simp] theorem State.raise_teams (s : State) (v : Nat) : (s.raise v).teams = s.teams := rfl
@[simp] theorem State.raise_threads (s : State) (v : Nat) : (s.raise v).threads = s.threads := rfl

@[simp] theorem State.bumpStamp_ctl (s : State) : (s.bumpStamp).ctl = { s.ctl with stamp := s.ctl.stamp + 1 } := rfl
@[simp] theorem State.bumpStamp_pkg (s : State) : (s.bumpStamp).pkg = s.pkg := rfl
@[simp] theorem State.bumpStamp_mem (s : State) : (s.bumpStamp).mem = s.mem := rfl
@[simp] theorem State.bumpStamp_mmp (s : State) : (s.bumpStamp).mmp = s.mmp := rfl
@[simp] theorem State.bumpStamp_refl (s : State) : (s.bumpStamp).refl = s.refl := rfl
@[simp] theorem State.bumpStamp_links (s : State) : (s.bumpStamp).links = s.links := rfl
@[simp] theorem State.bumpStamp_sched (s : State) : (s.bumpStamp).sched = s.sched := rfl
@[simp] theorem State.bumpStamp_cores (s : State) : (s.bumpStamp).cores = s.cores := rfl
@[simp] theorem State.bumpStamp_teams (s : State) : (s.bumpStamp).teams = s.teams := rfl
@[simp] theorem State.bumpStamp_threads (s : State) : (s.bumpStamp).threads = s.threads := rfl

@[simp] theorem State.tick_mem (s : State) : s.tick.mem = s.mem := rfl
@[simp] theorem State.tick_mmp (s : State) : s.tick.mmp = s.mmp := rfl
@[simp] theorem State.tick_refl (s : State) : s.tick.refl = s.refl := rfl
@[simp] theorem State.tick_links (s : State) : s.tick.links = s.links := rfl
@[simp] theorem State.tick_sched (s : State) : s.tick.sched = s.sched := rfl
@[simp] theorem State.tick_cores (s : State) : s.tick.cores = s.cores := rfl
@[simp] theorem State.tick_teams (s : State) : s.tick.teams = s.teams := rfl
@[simp] theorem State.tick_threads (s : State) : s.tick.threads = s.threads := rfl
@[simp] theorem State.tick_actor (s : State) : s.tick.ctl.actor = none := rfl
@[simp] theorem State.tick_inputs (s : State) : s.tick.ctl.inputs = s.ctl.inputs := rfl
@[simp] theorem State.tick_settings (s : State) : s.tick.ctl.settings = s.ctl.settings := rfl
@[simp] theorem State.tick_pkg_power (s : State) : s.tick.pkg.power = s.pkg.power := rfl
@[simp] theorem State.tick_pkg_bars (s : State) : s.tick.pkg.bars = s.pkg.bars := rfl
@[simp] theorem State.tick_pkg_frozen (s : State) : s.tick.pkg.frozen = s.pkg.frozen := rfl
@[simp] theorem State.tick_pkg_debugOn (s : State) : s.tick.pkg.debugOn = s.pkg.debugOn := rfl
@[simp] theorem State.tick_pkg_gstep (s : State) : s.tick.pkg.gstep = s.pkg.gstep := rfl
@[simp] theorem State.tick_pkg_stepCopy (s : State) : s.tick.pkg.stepCopy = s.pkg.stepCopy := rfl
@[simp] theorem State.tick_pkg_sweeps (s : State) : s.tick.pkg.sweeps = s.pkg.sweeps := rfl
@[simp] theorem State.tick_pkg_factBase (s : State) : s.tick.pkg.factBase = s.pkg.factBase := rfl
@[simp] theorem State.tick_pkg_factAsn (s : State) : s.tick.pkg.factAsn = s.pkg.factAsn := rfl
@[simp] theorem State.tick_pkg_factCopy (s : State) : s.tick.pkg.factCopy = s.pkg.factCopy := rfl
@[simp] theorem State.tick_pkg_pkgid (s : State) : s.tick.pkg.pkgid = s.pkg.pkgid := rfl
@[simp] theorem State.tick_pkg_flash (s : State) : s.tick.pkg.flash = s.pkg.flash := rfl
@[simp] theorem State.tick_pkg_meas (s : State) : s.tick.pkg.meas = s.pkg.meas := rfl
@[simp] theorem State.tick_pkg_svn (s : State) : s.tick.pkg.svn = s.pkg.svn := rfl
@[simp] theorem State.tick_pkg_ports (s : State) : s.tick.pkg.ports = s.pkg.ports := rfl
@[simp] theorem State.tick_pkg_mailbox (s : State) : s.tick.pkg.mailbox = s.pkg.mailbox := rfl
@[simp] theorem State.tick_pkg_irqs (s : State) : s.tick.pkg.irqs = s.pkg.irqs := rfl
@[simp] theorem State.tick_pkg_errs (s : State) : s.tick.pkg.errs = s.pkg.errs := rfl
@[simp] theorem State.tick_pkg_svc (s : State) : s.tick.pkg.svc = s.pkg.svc := rfl
@[simp] theorem State.tick_pkg_svcRegs (s : State) : s.tick.pkg.svcRegs = s.pkg.svcRegs := rfl
@[simp] theorem State.tick_pkg_ethOut (s : State) : s.tick.pkg.ethOut = s.pkg.ethOut := rfl
@[simp] theorem State.tick_pkg_ethDown (s : State) : s.tick.pkg.ethDown = s.pkg.ethDown := rfl
@[simp] theorem State.tick_pkg_hostReads (s : State) : s.tick.pkg.hostReads = s.pkg.hostReads := rfl
@[simp] theorem State.tick_pkg_vecPort (s : State) : s.tick.pkg.vecPort = s.pkg.vecPort := rfl

@[simp] theorem State.modGroup_ctl (s : State) (t g : Nat) (f : Group → Group) : (s.modGroup t g f).ctl = s.ctl := by
  unfold State.modGroup; repeat (first | rfl | split)
@[simp] theorem State.modGroup_pkg (s : State) (t g : Nat) (f : Group → Group) : (s.modGroup t g f).pkg = s.pkg := by
  unfold State.modGroup; repeat (first | rfl | split)
@[simp] theorem State.modGroup_mem (s : State) (t g : Nat) (f : Group → Group) : (s.modGroup t g f).mem = s.mem := by
  unfold State.modGroup; repeat (first | rfl | split)
@[simp] theorem State.modGroup_mmp (s : State) (t g : Nat) (f : Group → Group) : (s.modGroup t g f).mmp = s.mmp := by
  unfold State.modGroup; repeat (first | rfl | split)
@[simp] theorem State.modGroup_refl (s : State) (t g : Nat) (f : Group → Group) : (s.modGroup t g f).refl = s.refl := by
  unfold State.modGroup; repeat (first | rfl | split)
@[simp] theorem State.modGroup_links (s : State) (t g : Nat) (f : Group → Group) : (s.modGroup t g f).links = s.links := by
  unfold State.modGroup; repeat (first | rfl | split)
@[simp] theorem State.modGroup_sched (s : State) (t g : Nat) (f : Group → Group) : (s.modGroup t g f).sched = s.sched := by
  unfold State.modGroup; repeat (first | rfl | split)
@[simp] theorem State.modGroup_cores (s : State) (t g : Nat) (f : Group → Group) : (s.modGroup t g f).cores = s.cores := by
  unfold State.modGroup; repeat (first | rfl | split)
@[simp] theorem State.modGroup_threads (s : State) (t g : Nat) (f : Group → Group) : (s.modGroup t g f).threads = s.threads := by
  unfold State.modGroup; repeat (first | rfl | split)

@[simp] theorem State.modShare_ctl (s : State) (t j : Nat) (f : Share → Share) : (s.modShare t j f).ctl = s.ctl := by
  unfold State.modShare; repeat (first | rfl | split)
@[simp] theorem State.modShare_pkg (s : State) (t j : Nat) (f : Share → Share) : (s.modShare t j f).pkg = s.pkg := by
  unfold State.modShare; repeat (first | rfl | split)
@[simp] theorem State.modShare_mem (s : State) (t j : Nat) (f : Share → Share) : (s.modShare t j f).mem = s.mem := by
  unfold State.modShare; repeat (first | rfl | split)
@[simp] theorem State.modShare_mmp (s : State) (t j : Nat) (f : Share → Share) : (s.modShare t j f).mmp = s.mmp := by
  unfold State.modShare; repeat (first | rfl | split)
@[simp] theorem State.modShare_refl (s : State) (t j : Nat) (f : Share → Share) : (s.modShare t j f).refl = s.refl := by
  unfold State.modShare; repeat (first | rfl | split)
@[simp] theorem State.modShare_links (s : State) (t j : Nat) (f : Share → Share) : (s.modShare t j f).links = s.links := by
  unfold State.modShare; repeat (first | rfl | split)
@[simp] theorem State.modShare_sched (s : State) (t j : Nat) (f : Share → Share) : (s.modShare t j f).sched = s.sched := by
  unfold State.modShare; repeat (first | rfl | split)
@[simp] theorem State.modShare_cores (s : State) (t j : Nat) (f : Share → Share) : (s.modShare t j f).cores = s.cores := by
  unfold State.modShare; repeat (first | rfl | split)
@[simp] theorem State.modShare_threads (s : State) (t j : Nat) (f : Share → Share) : (s.modShare t j f).threads = s.threads := by
  unfold State.modShare; repeat (first | rfl | split)

@[simp] theorem State.modTeam_ctl (s : State) (t : Nat) (f : Team → Team) : (s.modTeam t f).ctl = s.ctl := by
  unfold State.modTeam; repeat (first | rfl | split)
@[simp] theorem State.modTeam_pkg (s : State) (t : Nat) (f : Team → Team) : (s.modTeam t f).pkg = s.pkg := by
  unfold State.modTeam; repeat (first | rfl | split)
@[simp] theorem State.modTeam_mem (s : State) (t : Nat) (f : Team → Team) : (s.modTeam t f).mem = s.mem := by
  unfold State.modTeam; repeat (first | rfl | split)
@[simp] theorem State.modTeam_mmp (s : State) (t : Nat) (f : Team → Team) : (s.modTeam t f).mmp = s.mmp := by
  unfold State.modTeam; repeat (first | rfl | split)
@[simp] theorem State.modTeam_refl (s : State) (t : Nat) (f : Team → Team) : (s.modTeam t f).refl = s.refl := by
  unfold State.modTeam; repeat (first | rfl | split)
@[simp] theorem State.modTeam_links (s : State) (t : Nat) (f : Team → Team) : (s.modTeam t f).links = s.links := by
  unfold State.modTeam; repeat (first | rfl | split)
@[simp] theorem State.modTeam_sched (s : State) (t : Nat) (f : Team → Team) : (s.modTeam t f).sched = s.sched := by
  unfold State.modTeam; repeat (first | rfl | split)
@[simp] theorem State.modTeam_cores (s : State) (t : Nat) (f : Team → Team) : (s.modTeam t f).cores = s.cores := by
  unfold State.modTeam; repeat (first | rfl | split)
@[simp] theorem State.modTeam_threads (s : State) (t : Nat) (f : Team → Team) : (s.modTeam t f).threads = s.threads := by
  unfold State.modTeam; repeat (first | rfl | split)

@[simp] theorem State.freeQuad_ctl (s : State) (c t g : Nat) : (s.freeQuad c t g).ctl = s.ctl := rfl
@[simp] theorem State.freeQuad_pkg (s : State) (c t g : Nat) : (s.freeQuad c t g).pkg = s.pkg := rfl
@[simp] theorem State.freeQuad_mem (s : State) (c t g : Nat) : (s.freeQuad c t g).mem = s.mem := rfl
@[simp] theorem State.freeQuad_mmp (s : State) (c t g : Nat) : (s.freeQuad c t g).mmp = s.mmp := rfl
@[simp] theorem State.freeQuad_refl (s : State) (c t g : Nat) : (s.freeQuad c t g).refl = s.refl := rfl
@[simp] theorem State.freeQuad_links (s : State) (c t g : Nat) : (s.freeQuad c t g).links = s.links := rfl
@[simp] theorem State.freeQuad_sched (s : State) (c t g : Nat) : (s.freeQuad c t g).sched = s.sched := rfl
@[simp] theorem State.freeQuad_teams (s : State) (c t g : Nat) : (s.freeQuad c t g).teams = s.teams := rfl
@[simp] theorem State.freeQuad_threads (s : State) (c t g : Nat) : (s.freeQuad c t g).threads = s.threads := rfl

@[simp] theorem Team.setGroup_id (T : Team) (G : Group) : (T.setGroup G).id = T.id := rfl
@[simp] theorem Team.setGroup_task (T : Team) (G : Group) : (T.setGroup G).task = T.task := rfl
@[simp] theorem Team.setGroup_teamId (T : Team) (G : Group) : (T.setGroup G).teamId = T.teamId := rfl
@[simp] theorem Team.setGroup_asn (T : Team) (G : Group) : (T.setGroup G).asn = T.asn := rfl
@[simp] theorem Team.setGroup_die (T : Team) (G : Group) : (T.setGroup G).die = T.die := rfl
@[simp] theorem Team.setGroup_launch (T : Team) (G : Group) : (T.setGroup G).launch = T.launch := rfl
@[simp] theorem Team.setGroup_queue (T : Team) (G : Group) : (T.setGroup G).queue = T.queue := rfl
@[simp] theorem Team.setGroup_phase (T : Team) (G : Group) : (T.setGroup G).phase = T.phase := rfl
@[simp] theorem Team.setGroup_groups (T : Team) (G : Group) : (T.setGroup G).groups = T.groups.map (fun x => if x.gid == G.gid then G else x) := rfl
@[simp] theorem Team.setGroup_shares (T : Team) (G : Group) : (T.setGroup G).shares = T.shares := rfl
@[simp] theorem Team.setGroup_bars (T : Team) (G : Group) : (T.setGroup G).bars = T.bars := rfl
@[simp] theorem Team.setGroup_stages (T : Team) (G : Group) : (T.setGroup G).stages = T.stages := rfl
@[simp] theorem Team.setGroup_trapvec (T : Team) (G : Group) : (T.setGroup G).trapvec = T.trapvec := rfl
@[simp] theorem Team.setGroup_recbase (T : Team) (G : Group) : (T.setGroup G).recbase = T.recbase := rfl
@[simp] theorem Team.setGroup_seq (T : Team) (G : Group) : (T.setGroup G).seq = T.seq := rfl
@[simp] theorem Team.setGroup_beds (T : Team) (G : Group) : (T.setGroup G).beds = T.beds := rfl
@[simp] theorem Team.setGroup_arr (T : Team) (G : Group) : (T.setGroup G).arr = T.arr := rfl
@[simp] theorem Team.setGroup_ovfBytes (T : Team) (G : Group) : (T.setGroup G).ovfBytes = T.ovfBytes := rfl
@[simp] theorem Team.setGroup_restoredAt (T : Team) (G : Group) : (T.setGroup G).restoredAt = T.restoredAt := rfl
@[simp] theorem Team.setGroup_homes (T : Team) (G : Group) : (T.setGroup G).homes = T.homes := rfl
@[simp] theorem Team.setGroup_areaDie (T : Team) (G : Group) : (T.setGroup G).areaDie = T.areaDie := rfl
@[simp] theorem Team.setGroup_area (T : Team) (G : Group) : (T.setGroup G).area = T.area := rfl

@[simp] theorem Team.setShare_id (T : Team) (j : Nat) (x : Share) : (T.setShare j x).id = T.id := rfl
@[simp] theorem Team.setShare_task (T : Team) (j : Nat) (x : Share) : (T.setShare j x).task = T.task := rfl
@[simp] theorem Team.setShare_teamId (T : Team) (j : Nat) (x : Share) : (T.setShare j x).teamId = T.teamId := rfl
@[simp] theorem Team.setShare_asn (T : Team) (j : Nat) (x : Share) : (T.setShare j x).asn = T.asn := rfl
@[simp] theorem Team.setShare_die (T : Team) (j : Nat) (x : Share) : (T.setShare j x).die = T.die := rfl
@[simp] theorem Team.setShare_launch (T : Team) (j : Nat) (x : Share) : (T.setShare j x).launch = T.launch := rfl
@[simp] theorem Team.setShare_queue (T : Team) (j : Nat) (x : Share) : (T.setShare j x).queue = T.queue := rfl
@[simp] theorem Team.setShare_phase (T : Team) (j : Nat) (x : Share) : (T.setShare j x).phase = T.phase := rfl
@[simp] theorem Team.setShare_groups (T : Team) (j : Nat) (x : Share) : (T.setShare j x).groups = T.groups := rfl
@[simp] theorem Team.setShare_shares (T : Team) (j : Nat) (x : Share) : (T.setShare j x).shares = setNth T.shares j x := rfl
@[simp] theorem Team.setShare_bars (T : Team) (j : Nat) (x : Share) : (T.setShare j x).bars = T.bars := rfl
@[simp] theorem Team.setShare_stages (T : Team) (j : Nat) (x : Share) : (T.setShare j x).stages = T.stages := rfl
@[simp] theorem Team.setShare_trapvec (T : Team) (j : Nat) (x : Share) : (T.setShare j x).trapvec = T.trapvec := rfl
@[simp] theorem Team.setShare_recbase (T : Team) (j : Nat) (x : Share) : (T.setShare j x).recbase = T.recbase := rfl
@[simp] theorem Team.setShare_seq (T : Team) (j : Nat) (x : Share) : (T.setShare j x).seq = T.seq := rfl
@[simp] theorem Team.setShare_beds (T : Team) (j : Nat) (x : Share) : (T.setShare j x).beds = T.beds := rfl
@[simp] theorem Team.setShare_arr (T : Team) (j : Nat) (x : Share) : (T.setShare j x).arr = T.arr := rfl
@[simp] theorem Team.setShare_ovfBytes (T : Team) (j : Nat) (x : Share) : (T.setShare j x).ovfBytes = T.ovfBytes := rfl
@[simp] theorem Team.setShare_restoredAt (T : Team) (j : Nat) (x : Share) : (T.setShare j x).restoredAt = T.restoredAt := rfl
@[simp] theorem Team.setShare_homes (T : Team) (j : Nat) (x : Share) : (T.setShare j x).homes = T.homes := rfl
@[simp] theorem Team.setShare_areaDie (T : Team) (j : Nat) (x : Share) : (T.setShare j x).areaDie = T.areaDie := rfl
@[simp] theorem Team.setShare_area (T : Team) (j : Nat) (x : Share) : (T.setShare j x).area = T.area := rfl

@[simp] theorem Group.modLanes_gid (G : Group) (m : Lanes) (f : Nat → Lane → Lane) : (G.modLanes m f).gid = G.gid := rfl
@[simp] theorem Group.modLanes_role (G : Group) (m : Lanes) (f : Nat → Lane → Lane) : (G.modLanes m f).role = G.role := rfl
@[simp] theorem Group.modLanes_prio (G : Group) (m : Lanes) (f : Nat → Lane → Lane) : (G.modLanes m f).prio = G.prio := rfl
@[simp] theorem Group.modLanes_priv (G : Group) (m : Lanes) (f : Nat → Lane → Lane) : (G.modLanes m f).priv = G.priv := rfl
@[simp] theorem Group.modLanes_core (G : Group) (m : Lanes) (f : Nat → Lane → Lane) : (G.modLanes m f).core = G.core := rfl
@[simp] theorem Group.modLanes_place (G : Group) (m : Lanes) (f : Nat → Lane → Lane) : (G.modLanes m f).place = G.place := rfl
@[simp] theorem Group.modLanes_s (G : Group) (m : Lanes) (f : Nat → Lane → Lane) : (G.modLanes m f).s = G.s := rfl
@[simp] theorem Group.modLanes_m (G : Group) (m : Lanes) (f : Nat → Lane → Lane) : (G.modLanes m f).m = G.m := rfl
@[simp] theorem Group.modLanes_l (G : Group) (m : Lanes) (f : Nat → Lane → Lane) : (G.modLanes m f).l = G.l := rfl
@[simp] theorem Group.modLanes_h (G : Group) (m : Lanes) (f : Nat → Lane → Lane) : (G.modLanes m f).h = G.h := rfl
@[simp] theorem Group.modLanes_xs (G : Group) (m : Lanes) (f : Nat → Lane → Lane) : (G.modLanes m f).xs = G.xs := rfl
@[simp] theorem Group.modLanes_xprev (G : Group) (m : Lanes) (f : Nat → Lane → Lane) : (G.modLanes m f).xprev = G.xprev := rfl
@[simp] theorem Group.modLanes_slots (G : Group) (m : Lanes) (f : Nat → Lane → Lane) : (G.modLanes m f).slots = G.slots := rfl
@[simp] theorem Group.modLanes_relFence (G : Group) (m : Lanes) (f : Nat → Lane → Lane) : (G.modLanes m f).relFence = G.relFence := rfl
@[simp] theorem Group.modLanes_counted (G : Group) (m : Lanes) (f : Nat → Lane → Lane) : (G.modLanes m f).counted = G.counted := rfl
@[simp] theorem Group.modLanes_untested (G : Group) (m : Lanes) (f : Nat → Lane → Lane) : (G.modLanes m f).untested = G.untested := rfl
@[simp] theorem Group.modLanes_log (G : Group) (m : Lanes) (f : Nat → Lane → Lane) : (G.modLanes m f).log = G.log := rfl
@[simp] theorem Group.modLanes_lst (G : Group) (m : Lanes) (f : Nat → Lane → Lane) : (G.modLanes m f).lst = G.lst := rfl
@[simp] theorem Group.modLanes_bcd (G : Group) (m : Lanes) (f : Nat → Lane → Lane) : (G.modLanes m f).bcd = G.bcd := rfl
@[simp] theorem Group.modLanes_cause (G : Group) (m : Lanes) (f : Nat → Lane → Lane) : (G.modLanes m f).cause = G.cause := rfl
@[simp] theorem Group.modLanes_epc (G : Group) (m : Lanes) (f : Nat → Lane → Lane) : (G.modLanes m f).epc = G.epc := rfl
@[simp] theorem Group.modLanes_eaddr (G : Group) (m : Lanes) (f : Nat → Lane → Lane) : (G.modLanes m f).eaddr = G.eaddr := rfl
@[simp] theorem Group.modLanes_elanes (G : Group) (m : Lanes) (f : Nat → Lane → Lane) : (G.modLanes m f).elanes = G.elanes := rfl
@[simp] theorem Group.modLanes_inHandler (G : Group) (m : Lanes) (f : Nat → Lane → Lane) : (G.modLanes m f).inHandler = G.inHandler := rfl
@[simp] theorem Group.modLanes_frame (G : Group) (m : Lanes) (f : Nat → Lane → Lane) : (G.modLanes m f).frame = G.frame := rfl
@[simp] theorem Group.modLanes_causes (G : Group) (m : Lanes) (f : Nat → Lane → Lane) : (G.modLanes m f).causes = G.causes := rfl
@[simp] theorem Group.modLanes_run (G : Group) (m : Lanes) (f : Nat → Lane → Lane) : (G.modLanes m f).run = G.run := rfl
@[simp] theorem Group.modLanes_parks (G : Group) (m : Lanes) (f : Nat → Lane → Lane) : (G.modLanes m f).parks = G.parks := rfl
@[simp] theorem Group.modLanes_ready (G : Group) (m : Lanes) (f : Nat → Lane → Lane) : (G.modLanes m f).ready = G.ready := rfl
@[simp] theorem Group.modLanes_qwait (G : Group) (m : Lanes) (f : Nat → Lane → Lane) : (G.modLanes m f).qwait = G.qwait := rfl
@[simp] theorem Group.modLanes_lastIssue (G : Group) (m : Lanes) (f : Nat → Lane → Lane) : (G.modLanes m f).lastIssue = G.lastIssue := rfl
@[simp] theorem Group.modLanes_since (G : Group) (m : Lanes) (f : Nat → Lane → Lane) : (G.modLanes m f).since = G.since := rfl
@[simp] theorem Group.modLanes_privBase (G : Group) (m : Lanes) (f : Nat → Lane → Lane) : (G.modLanes m f).privBase = G.privBase := rfl

/-! ### Looking up after replacing -/

theorem State.team?_setTeam (s : State) (T : Team) (n : Nat) :
    (s.setTeam T).team? n = if n = T.id then (s.team? n).map (fun _ => T) else s.team? n := by
  simp only [State.team?, State.setTeam_teams]
  induction s.teams with
  | nil => simp
  | cons a r ih =>
    rw [List.map_cons, List.find?_cons, List.find?_cons]
    by_cases ha : a.id = T.id
    · by_cases hn : n = T.id
      · subst hn; simp [ha]
      · have h1 : (T.id == n) = false := by simp; omega
        have h2 : (a.id == n) = false := by simp [ha]; omega
        simp only [ha, beq_self_eq_true, if_true, h1, hn, if_false, ih]
    · have e : (if (a.id == T.id) = true then T else a) = a := by simp [ha]
      rw [e]
      by_cases hn : a.id = n
      · subst hn; simp [ha]
      · have h2 : (a.id == n) = false := by simp [hn]
        simp only [h2]; exact ih

theorem State.team?_id (s : State) (n : Nat) (T : Team) (h : s.team? n = some T) : T.id = n := by
  have := List.find?_some h
  simpa using this

@[simp] theorem State.team?_tick (s : State) (n : Nat) : s.tick.team? n = s.team? n := rfl

theorem Team.group?_setGroup (T : Team) (G : Group) (n : Nat) :
    (T.setGroup G).group? n = if n = G.gid then (T.group? n).map (fun _ => G) else T.group? n := by
  simp only [Team.group?, Team.setGroup_groups]
  induction T.groups with
  | nil => simp
  | cons a r ih =>
    rw [List.map_cons, List.find?_cons, List.find?_cons]
    by_cases ha : a.gid = G.gid
    · by_cases hn : n = G.gid
      · subst hn; simp [ha]
      · have h1 : (G.gid == n) = false := by simp; omega
        have h2 : (a.gid == n) = false := by simp [ha]; omega
        simp only [ha, beq_self_eq_true, if_true, h1, hn, if_false, ih]
    · have e : (if (a.gid == G.gid) = true then G else a) = a := by simp [ha]
      rw [e]
      by_cases hn : a.gid = n
      · subst hn; simp [ha]
      · have h2 : (a.gid == n) = false := by simp [hn]
        simp only [h2]; exact ih

theorem Team.group?_gid (T : Team) (n : Nat) (G : Group) (h : T.group? n = some G) : G.gid = n := by
  have := List.find?_some h
  simpa using this

@[simp] theorem Team.share?_setGroup (T : Team) (G : Group) (j : Nat) : (T.setGroup G).share? j = T.share? j := rfl

theorem setNth_get {α : Type} (l : List α) (i k : Nat) (x : α) :
    (setNth l i x)[k]? = if k = i then (l[k]?).map (fun _ => x) else l[k]? := by
  induction l generalizing i k with
  | nil => simp [setNth]
  | cons a r ih =>
    cases i with
    | zero => cases k <;> simp [setNth]
    | succ i => cases k with
      | zero => simp [setNth]
      | succ k => simp [setNth, ih]

theorem Team.share?_setShare (T : Team) (j k : Nat) (x : Share) :
    (T.setShare j x).share? k = if k = j then (T.share? k).map (fun _ => x) else T.share? k := by
  simp only [Team.share?, Team.setShare_shares]
  exact setNth_get _ _ _ _

/-- A team that is found, replaced by one of the same name, is found as replaced. -/
theorem State.team?_setTeam_same (s : State) (T T' : Team) (n : Nat) (h : s.team? n = some T) (hid : T'.id = n) :
    (s.setTeam T').team? n = some T' := by
  rw [State.team?_setTeam, hid, if_pos rfl, h]; rfl

theorem State.team?_setTeam_other (s : State) (T' : Team) (n : Nat) (h : n ≠ T'.id) : (s.setTeam T').team? n = s.team? n := by
  rw [State.team?_setTeam, if_neg h]

theorem Team.group?_setGroup_same (T : Team) (G G' : Group) (n : Nat) (h : T.group? n = some G) (hid : G'.gid = n) :
    (T.setGroup G').group? n = some G' := by
  rw [Team.group?_setGroup, hid, if_pos rfl, h]; rfl

theorem Team.group?_setGroup_other (T : Team) (G' : Group) (n : Nat) (h : n ≠ G'.gid) : (T.setGroup G').group? n = T.group? n := by
  rw [Team.group?_setGroup, if_neg h]

/-- The length of the lane list stays, and each lane is changed or kept as its mask bit says. -/
theorem mapLanes_length (m : Lanes) (f : Nat → Lane → Lane) (ls : List Lane) : (mapLanes m f ls).length = ls.length := by
  simp [mapLanes]

theorem Group.lane_modLanes (G : Group) (m : Lanes) (f : Nat → Lane → Lane) (l : Nat) (h : l < G.lanes.length) :
    (G.modLanes m f).lane l = if inMask m l then f l (G.lane l) else G.lane l := by
  simp [Group.lane, Group.modLanes, mapLanes, nth, h]

end Sys2Proof.Machine
end

