-- ==== Sys2Proof/Laws/Issue.lean ====
section
/-! SUPPORT. What issuing a word answers: one lemma for each way a party's body ends, for groups, sequencers and slice threads, and for events. -/

namespace Sys2Proof.Machine

/-- What `groupCtx` says of the context it gives. -/
theorem groupCtx_who {t g : Nat} {i : Instr} {s s' : State} {x : Ctx} (h : groupCtx t g i s = some (x, s')) :
    x.t = t ∧ x.g = g ∧ x.i = i ∧ s' = s.setTeam x.T ∧ x.ex = x.run.act ∧ x.c = x.sh.core ∧
    ∃ T G r sh, s.team? t = some T ∧ T.group? g = some G ∧ G.run = some r ∧ T.share? G.core = some sh ∧ x.sh = sh.takeTrnx (dueBy r.clk r.pend).1 ∧
      x.run = { r with pend := (dueBy r.clk r.pend).2 ++ (G.commitTo r.clk r.pend).2 } ∧ x.G = { (G.commitTo r.clk r.pend).1 with run := some x.run } ∧
      x.T = (T.setShare G.core x.sh).setGroup x.G ∧ x.pc = (x.G.lane ((lowestLane r.act).getD 0)).pc ∧ x.env = groupEnv s x.T x.G x.sh.core r.clk x.run.pend := by
  unfold groupCtx at h
  split at h
  · cases h
  · next T hT =>
    split at h
    · cases h
    · next G hG =>
      split at h
      · next r sh hr hsh =>
        simp only [Option.some.injEq, Prod.mk.injEq] at h
        obtain ⟨rfl, rfl⟩ := h
        exact ⟨rfl, rfl, rfl, rfl, rfl, rfl, T, G, r, sh, hT, hG, hr, hsh, rfl, rfl, rfl, rfl, rfl, rfl⟩
      · cases h

theorem GroupIssues.instr {i : Instr} {s s' : State} {x : Ctx} (h : GroupIssues i s x s') : x.i = i := (groupCtx_who h.ctx).2.2.1

theorem GroupIssues.state {i : Instr} {s s' : State} {x : Ctx} (h : GroupIssues i s x s') : s' = s.setTeam x.T := (groupCtx_who h.ctx).2.2.2.1

variable {i : Instr} {s s' s2 : State} {e : Eff} {group : Ctx → State → Res} {seq : SeqCtx → State → Res} {thread : ThCtx → State → Res}

/-- A group's instruction is performed. -/
theorem issue_group_done {x : Ctx} (h : GroupIssues i s x s') (hb : group x s' = .done s2 e) :
    issue i s group seq thread = .next (x.finish s' e s2).tick := by
  simp only [issue, h.turn, issueGroup, h.ctx, h.free, hb]

/-- A group's instruction takes a cause. -/
theorem issue_group_trap {x : Ctx} {y : Trap} (h : GroupIssues i s x s') (hb : group x s' = .trap s2 y) :
    issue i s group seq thread = .next (trapHere x s2 y).tick := by
  simp only [issue, h.turn, issueGroup, h.ctx, h.free, hb]

/-- A group's instruction is held in its slot while no halt asks the run to end. -/
theorem issue_group_stall {x : Ctx} (h : GroupIssues i s x s') (hb : group x s' = .stall s2) (hh : s2.pkg.halt = none) :
    issue i s group seq thread = .next (x.hold s2).tick := by
  simp only [issue, h.turn, issueGroup, h.ctx, h.free, hb, hh]; rfl

/-- A group's instruction is held in its slot, whether a halt stands or not. -/
theorem issue_group_hold {x : Ctx} (h : GroupIssues i s x s') (hb : group x s' = .stall s2) :
    issue i s group seq thread = .next (if s2.pkg.halt.isSome then s2.endRun x.t x.g x.c x.run else x.hold s2).tick := by
  have ht := (groupCtx_who h.ctx).1
  simp only [issue, h.turn, issueGroup, h.ctx, h.free, hb]

/-- A group's instruction has ended its run itself. -/
theorem issue_group_gone {x : Ctx} (h : GroupIssues i s x s') (hb : group x s' = .gone s2) :
    issue i s group seq thread = .next s2.tick := by
  simp only [issue, h.turn, issueGroup, h.ctx, h.free, hb]

/-- A sequencer's instruction is performed. -/
theorem issue_seq_done {x : SeqCtx} (h : SeqIssues i s x) (hb : seq x s = .done s2 e) :
    issue i s group seq thread = .next (x.finish s2 e).tick := by
  simp only [issue, h.turn, issueSeq, h.ctx, h.free, hb]

/-- A sequencer's instruction traps. -/
theorem issue_seq_trap {x : SeqCtx} {y : Trap} (h : SeqIssues i s x) (hb : seq x s = .trap s2 y) :
    issue i s group seq thread = .next (s2.seqTrap x.t x.j y.cause).tick := by
  simp only [issue, h.turn, issueSeq, h.ctx, h.free, hb]

/-- A sequencer's instruction waits, or has moved the stream itself. -/
theorem issue_seq_gone {x : SeqCtx} (h : SeqIssues i s x) (hb : seq x s = .gone s2 ∨ seq x s = .stall s2) :
    issue i s group seq thread = .next s2.tick := by
  rcases hb with hb | hb <;> simp only [issue, h.turn, issueSeq, h.ctx, h.free, hb]

/-- A slice thread's instruction is performed. -/
theorem issue_thread_done {x : ThCtx} (h : ThreadIssues i s x) (hb : thread x s = .done s2 e) :
    issue i s group seq thread = .next (x.finish s2 e).tick := by
  have hx := h.ctx
  simp only [issue, h.turn, issueThread, h.here, h.free, ← hx, hb]

/-- A slice thread's instruction fails its task. -/
theorem issue_thread_trap {x : ThCtx} {y : Trap} (h : ThreadIssues i s x) (hb : thread x s = .trap s2 y) :
    issue i s group seq thread = .next (s2.failThread x.th.slice x.th.num y.cause).tick := by
  have hx := h.ctx
  simp only [issue, h.turn, issueThread, h.here, h.free, ← hx, hb]

/-- A slice thread's instruction waits, or the thread is gone. -/
theorem issue_thread_gone {x : ThCtx} (h : ThreadIssues i s x) (hb : thread x s = .gone s2 ∨ thread x s = .stall s2) :
    issue i s group seq thread = .next s2.tick := by
  have hx := h.ctx
  rcases hb with hb | hb <;> simp only [issue, h.turn, issueThread, h.here, h.free, ← hx, hb]

/-- An event that happens. -/
theorem event_some (h : o = some s') : event s o = .next s'.tick := by simp only [event, h]

/-- An event whose condition does not hold. -/
theorem event_none (h : o = none) : event s o = .next s.tick := by simp only [event, h]

/-- Every issue ends its party's turn: it answers the state after the tick, or finds no party. -/
theorem issue_ends (i : Instr) (s : State) (group : Ctx → State → Res) (seq : SeqCtx → State → Res) (thread : ThCtx → State → Res) :
    (∃ t : State, issue i s group seq thread = .next t.tick) ∨ issue i s group seq thread = .fault .noParty := by
  unfold issue
  dsimp only
  split
  · next t _ => exact Or.inl ⟨t, rfl⟩
  · exact Or.inr rfl

theorem event_ends (s : State) (o : Option State) : ∃ t : State, event s o = .next t.tick := by
  cases o with
  | none => exact ⟨s, rfl⟩
  | some t => exact ⟨t, rfl⟩

end Sys2Proof.Machine
end

