-- ==== Sys2Proof/Laws/Sparse.lean ====
section
/-! SUPPORT. Maps held as lists: reading after writing, and that every change keeps the canonical form. -/

namespace Sys2Proof.Machine

theorem spGet_ins {α : Type} (d : α) (m : List (Nat × α)) (k j : Nat) (x : α) :
    spGet d (spIns k x m) j = if j = k then x else spGet d m j := by
  induction m with
  | nil => simp only [spIns, spGet, eq_comm]
  | cons a r ih =>
    simp only [spIns]
    split
    · next e => subst e; simp only [spGet]; repeat' split
                all_goals first | rfl | omega
    · split
      · simp only [spGet]; repeat' split
        all_goals first | rfl | omega
      · simp only [spGet, ih]; repeat' split
        all_goals first | rfl | omega

theorem spGet_del {α : Type} (d : α) (m : List (Nat × α)) (k j : Nat) :
    spGet d (spDel k m) j = if j = k then d else spGet d m j := by
  induction m with
  | nil => simp [spDel, spGet]
  | cons a r ih =>
    simp only [spDel]
    split
    · simp only [spGet, ih]; repeat' split
      all_goals first | rfl | omega
    · simp only [spGet, ih]; repeat' split
      all_goals first | rfl | omega

/-- Reading after writing, in every list. -/
theorem spGet_put {α : Type} [DecidableEq α] (d : α) (m : List (Nat × α)) (k j : Nat) (x : α) :
    spGet d (spPut d m k x) j = if j = k then x else spGet d m j := by
  unfold spPut
  split
  · next e => subst e; exact spGet_del _ m k j
  · exact spGet_ins d m k j x

/-- Reading after some entries have been left out by their keys. -/
theorem spGet_filter {α : Type} (d : α) (p : Nat → Bool) (m : List (Nat × α)) (k : Nat) :
    spGet d (m.filter (fun c => p c.1)) k = if p k then spGet d m k else d := by
  induction m with
  | nil => simp [spGet]
  | cons a r ih =>
    rw [List.filter_cons]
    by_cases hk : a.1 = k
    · subst hk
      by_cases hp : p a.1 = true
      · simp [hp, spGet]
      · rw [if_neg hp, ih, if_neg hp, if_neg hp]
    · split
      · simp only [spGet, if_neg hk, ih]
      · simp only [spGet, if_neg hk, ih]

theorem spWfFrom_mono {α : Type} [DecidableEq α] (d : α) (m : List (Nat × α)) (lo hi : Nat) (h : spWfFrom d hi m = true) (hl : lo ≤ hi) :
    spWfFrom d lo m = true := by
  cases m with
  | nil => rfl
  | cons a r =>
    simp only [spWfFrom, Bool.and_eq_true, decide_eq_true_eq] at h ⊢
    exact ⟨⟨by omega, h.1.2⟩, h.2⟩

theorem spWfFrom_ins {α : Type} [DecidableEq α] (d : α) (m : List (Nat × α)) (lo k : Nat) (x : α) (hx : x ≠ d) (hk : lo ≤ k)
    (h : spWfFrom d lo m = true) : spWfFrom d lo (spIns k x m) = true := by
  induction m generalizing lo with
  | nil => simp [spIns, spWfFrom, hx, hk]
  | cons a r ih =>
    obtain ⟨i, y⟩ := a
    simp only [spWfFrom, Bool.and_eq_true, decide_eq_true_eq] at h
    simp only [spIns]
    split
    · next e => subst e; simp [spWfFrom, hx, h.1.1, h.2]
    · split
      · simp only [spWfFrom, Bool.and_eq_true, decide_eq_true_eq]
        exact ⟨⟨hk, hx⟩, ⟨by omega, h.1.2⟩, h.2⟩
      · simp only [spWfFrom, Bool.and_eq_true, decide_eq_true_eq]
        exact ⟨h.1, ih _ (by omega) h.2⟩

theorem spWfFrom_del {α : Type} [DecidableEq α] (d : α) (m : List (Nat × α)) (lo k : Nat) (h : spWfFrom d lo m = true) :
    spWfFrom d lo (spDel k m) = true := by
  induction m generalizing lo with
  | nil => rfl
  | cons a r ih =>
    obtain ⟨i, y⟩ := a
    simp only [spWfFrom, Bool.and_eq_true, decide_eq_true_eq] at h
    simp only [spDel]
    split
    · exact spWfFrom_mono d _ _ _ (ih _ h.2) (by omega)
    · simp only [spWfFrom, Bool.and_eq_true, decide_eq_true_eq]
      exact ⟨h.1, ih _ h.2⟩

/-- Writing keeps the canonical form. -/
theorem spWf_put {α : Type} [DecidableEq α] (d : α) (m : List (Nat × α)) (k : Nat) (x : α) (h : spWf d m = true) : spWf d (spPut d m k x) = true := by
  unfold spPut
  split
  · exact spWfFrom_del d m 0 k h
  · next e => exact spWfFrom_ins d m 0 k x e (Nat.zero_le _) h

theorem spWfFrom_filter {α : Type} [DecidableEq α] (d : α) (p : Nat × α → Bool) (m : List (Nat × α)) (lo : Nat) (h : spWfFrom d lo m = true) :
    spWfFrom d lo (m.filter p) = true := by
  induction m generalizing lo with
  | nil => rfl
  | cons a r ih =>
    obtain ⟨i, y⟩ := a
    simp only [spWfFrom, Bool.and_eq_true, decide_eq_true_eq] at h
    rw [List.filter_cons]
    split
    · simp only [spWfFrom, Bool.and_eq_true, decide_eq_true_eq]
      exact ⟨h.1, ih _ h.2⟩
    · exact spWfFrom_mono d _ _ _ (ih _ h.2) (by omega)

/-- Leaving entries out keeps the canonical form. -/
theorem spWf_filter {α : Type} [DecidableEq α] (d : α) (p : Nat × α → Bool) (m : List (Nat × α)) (h : spWf d m = true) : spWf d (m.filter p) = true :=
  spWfFrom_filter d p m 0 h

/-- Two maps in canonical form that read alike under every key are equal. -/
theorem spWf_ext {α : Type} [DecidableEq α] (d : α) (a b : List (Nat × α)) (lo : Nat) (ha : spWfFrom d lo a = true) (hb : spWfFrom d lo b = true)
    (h : ∀ k, spGet d a k = spGet d b k) : a = b := by
  have low : ∀ (m : List (Nat × α)) (lo k : Nat), spWfFrom d lo m = true → k < lo → spGet d m k = d := by
    intro m
    induction m with
    | nil => intros; rfl
    | cons x r ih =>
      intro lo k hm hk
      simp only [spWfFrom, Bool.and_eq_true, decide_eq_true_eq] at hm
      simp only [spGet]
      rw [if_neg (by omega)]
      exact ih _ _ hm.2 (by omega)
  induction a generalizing b lo with
  | nil =>
    cases b with
    | nil => rfl
    | cons y r =>
      simp only [spWfFrom, Bool.and_eq_true, decide_eq_true_eq] at hb
      have := h y.1
      simp only [spGet, if_true] at this
      exact absurd this.symm hb.1.2
  | cons x r ih =>
    obtain ⟨i, u⟩ := x
    simp only [spWfFrom, Bool.and_eq_true, decide_eq_true_eq] at ha
    cases b with
    | nil =>
      have := h i
      simp only [spGet, if_true] at this
      exact absurd this ha.1.2
    | cons y q =>
      obtain ⟨j, v⟩ := y
      simp only [spWfFrom, Bool.and_eq_true, decide_eq_true_eq] at hb
      have hij : i = j := by
        rcases Nat.lt_trichotomy i j with hlt | he | hgt
        · have e := h i
          simp only [spGet, if_true, if_neg (show ¬ j = i by omega)] at e
          rw [low q _ i hb.2 (by omega)] at e
          exact absurd e ha.1.2
        · exact he
        · have e := h j
          simp only [spGet, if_true, if_neg (show ¬ i = j by omega)] at e
          rw [low r _ j ha.2 (by omega)] at e
          exact absurd e.symm hb.1.2
      subst hij
      have huv : u = v := by
        have e := h i
        simpa only [spGet, if_true] using e
      subst huv
      have : r = q := by
        refine ih q (i + 1) ha.2 hb.2 (fun k => ?_)
        by_cases hk : i = k
        · subst hk; rw [low r _ i ha.2 (by omega), low q _ i hb.2 (by omega)]
        · have e := h k
          simpa only [spGet, if_neg hk] using e
      rw [this]

end Sys2Proof.Machine
end

