-- ==== Sys2Proof/Laws/Finish.lean ====
section
/-! SUPPORT. What follows a performed instruction of a group: where the group then is, and what its registers come to. -/

namespace Sys2Proof.Machine

/-! ### What a lane's registers come to through writes in order -/

/-- A V register of a lane through a list of results. -/
def throughV (r l : Nat) (old : Word) (ps : List Pend) : Word :=
  ps.foldl (fun a p => match p.w with | .v q m vals => if q = r ∧ inMask m l = true then nth 0 vals l else a | _ => a) old

/-- An S register through a list of results. -/
def throughS (r : Nat) (old : Word) (ps : List Pend) : Word :=
  ps.foldl (fun a p => match p.w with | .s q x => if q = r then x else a | _ => a) old

/-- A predicate of a lane through a list of results. -/
def throughP (r l : Nat) (old : Bool) (ps : List Pend) : Bool :=
  ps.foldl (fun a p => match p.w with | .p q m vals => if q = r ∧ q ≠ 0 ∧ inMask m l = true then inMask vals l else a | _ => a) old

theorem Group.lane_beyond (G : Group) (l : Nat) (h : G.lanes.length ≤ l) : G.lane l = Lane.start 0 := by
  simp [Group.lane, nth, h]

theorem Group.modLanes_length (G : Group) (m : Lanes) (f : Nat → Lane → Lane) : (G.modLanes m f).lanes.length = G.lanes.length :=
  mapLanes_length _ _ _

/-- Changing lanes without a change of `f` of the lane leaves it. -/
theorem Group.modLanes_keeps {α : Type} (p : Lane → α) (G : Group) (m : Lanes) (f : Nat → Lane → Lane) (hf : ∀ k L, p (f k L) = p L) (l : Nat) :
    p ((G.modLanes m f).lane l) = p (G.lane l) := by
  by_cases h : l < G.lanes.length
  · rw [Group.lane_modLanes _ _ _ _ h]; split
    · exact hf _ _
    · rfl
  · rw [Group.lane_beyond _ _ (by rw [Group.modLanes_length]; omega), Group.lane_beyond _ _ (by omega)]

theorem Group.releaseMask_keeps {α : Type} (p : Lane → α) (hp : ∀ (L : Lane) a h w, p { L with pc := a, hold := h, wcnt := w } = p L)
    (G : Group) (r : Nat) (old : Half) (l : Nat) : p ((G.releaseMask r old).lane l) = p (G.lane l) := by
  unfold Group.releaseMask
  dsimp only
  split
  · exact (Group.modLanes_keeps p G _ (fun _ L => { L with pc := nextSlot L.pc, hold := .runnable, wcnt := 0 }) (fun k L => hp L _ _ _) l)
  · rfl

theorem Group.releaseMask_length (G : Group) (r : Nat) (old : Half) : (G.releaseMask r old).lanes.length = G.lanes.length := by
  unfold Group.releaseMask
  dsimp only
  split
  · simp [Group.modLanes, mapLanes]
  · rfl

theorem Group.releaseMask_s (G : Group) (r : Nat) (old : Half) : (G.releaseMask r old).s = G.s := by
  unfold Group.releaseMask; dsimp only; split <;> rfl

theorem Group.meetSettle_keeps {α : Type} (p : Lane → α) (hp : ∀ (L : Lane) a h w, p { L with meet := a, hold := h, wcnt := w } = p L)
    (G : Group) (l : Nat) : p (G.meetSettle.lane l) = p (G.lane l) := by
  unfold Group.meetSettle
  exact Group.modLanes_keeps p G _ (fun _ L => { L with meet := none, hold := .runnable, wcnt := 0 }) (fun k L => hp L _ _ _) l

theorem Group.meetSettle_length (G : Group) : G.meetSettle.lanes.length = G.lanes.length := Group.modLanes_length _ _ _

theorem Group.write_length (G : Group) (w : RegWrite) : (G.write w).lanes.length = G.lanes.length := by
  cases w <;> simp only [Group.write]
  case v => exact Group.modLanes_length _ _ _
  case p => split
            · rfl
            · exact Group.modLanes_length _ _ _
  case m => exact Group.releaseMask_length _ _ _

theorem Group.commitAll_length (ps : List Pend) (G : Group) : (G.commitAll ps).lanes.length = G.lanes.length := by
  induction ps generalizing G with
  | nil => rfl
  | cons p r ih => exact (ih _).trans (Group.write_length _ _)

theorem Group.write_v (G : Group) (w : RegWrite) (r l : Nat) (h : l < G.lanes.length) :
    spGet 0 ((G.write w).lane l).v r =
      (match w with | .v q m vals => if q = r ∧ inMask m l = true then nth 0 vals l else spGet 0 (G.lane l).v r | _ => spGet 0 (G.lane l).v r) := by
  cases w <;> simp only [Group.write]
  case v q m vals =>
    rw [Group.lane_modLanes _ _ _ _ h]
    by_cases hm : inMask m l = true
    · simp only [hm, if_true, spGet_put, and_true, eq_comm]
    · simp only [hm]; simp
  case s => rfl
  case p q m vals =>
    split
    · rfl
    · exact congrArg (fun y => spGet 0 y r) (Group.modLanes_keeps (fun L => L.v) G m (fun l L => { L with p := if inMask vals l then L.p ||| (1#8 <<< q) else L.p &&& ~~~(1#8 <<< q) }) (fun k L => rfl) l)
  case m q x => exact congrArg (fun y => spGet 0 y r) (Group.releaseMask_keeps (fun L => L.v) (fun _ _ _ _ => rfl) _ _ _ l)
  case l => rfl
  case h => rfl
  case lst => rfl
  case bcd => rfl

theorem Group.commitAll_v (ps : List Pend) (G : Group) (r l : Nat) (h : l < G.lanes.length) :
    spGet 0 ((G.commitAll ps).lane l).v r = throughV r l (spGet 0 (G.lane l).v r) ps := by
  induction ps generalizing G with
  | nil => rfl
  | cons p ps ih =>
    show spGet 0 (((G.write p.w).commitAll ps).lane l).v r = _
    rw [ih _ (by rw [Group.write_length]; exact h), Group.write_v _ _ _ _ h]
    rfl

theorem Group.write_s (G : Group) (w : RegWrite) (r : Nat) :
    spGet 0 (G.write w).s r = (match w with | .s q x => if q = r then x else spGet 0 G.s r | _ => spGet 0 G.s r) := by
  cases w <;> simp only [Group.write]
  case v => rfl
  case s q x => simp only [spGet_put, eq_comm]
  case p => split <;> rfl
  case m => rw [Group.releaseMask_s]

theorem Group.commitAll_s (ps : List Pend) (G : Group) (r : Nat) : spGet 0 (G.commitAll ps).s r = throughS r (spGet 0 G.s r) ps := by
  induction ps generalizing G with
  | nil => rfl
  | cons p ps ih =>
    show spGet 0 ((G.write p.w).commitAll ps).s r = _
    rw [ih, Group.write_s]
    rfl

theorem byte_setBit (p : Byte) (r q : Nat) (b : Bool) (hq : q < 8) :
    (if b = true then p ||| (1#8 <<< r) else p &&& ~~~(1#8 <<< r)).getLsbD q = if r = q then b else p.getLsbD q := by
  cases b
  · simp only [Bool.false_eq_true, if_false, BitVec.getLsbD_and, BitVec.getLsbD_not, BitVec.getLsbD_shiftLeft, BitVec.getLsbD_one]
    by_cases h : r = q
    · subst h; simp
    · have : ¬ (r ≤ q ∧ q - r = 0) := by omega
      simp [h, hq]; intro _; omega
  · simp only [if_true, BitVec.getLsbD_or, BitVec.getLsbD_shiftLeft, BitVec.getLsbD_one]
    by_cases h : r = q
    · subst h; simp [hq]
    · simp only [h, if_false, Bool.or_eq_left_iff_imp, Bool.and_eq_true, decide_eq_true_eq, Bool.not_eq_true', decide_eq_false_iff_not]
      intro h; omega

theorem Lane.pred_setBit (L : Lane) (q r : Nat) (b : Bool) (hr : r < 8) (hq : q ≠ 0) :
    Lane.pred { L with p := if b = true then L.p ||| (1#8 <<< q) else L.p &&& ~~~(1#8 <<< q) } r = if q = r then b else L.pred r := by
  simp only [Lane.pred, byte_setBit _ _ _ _ hr]
  by_cases h : q = r
  · subst h; simp [hq]
  · simp [h]

theorem Group.write_p (G : Group) (w : RegWrite) (r l : Nat) (h : l < G.lanes.length) (hr : r < 8) :
    ((G.write w).lane l).pred r =
      (match w with | .p q m vals => if q = r ∧ q ≠ 0 ∧ inMask m l = true then inMask vals l else (G.lane l).pred r | _ => (G.lane l).pred r) := by
  cases w <;> simp only [Group.write]
  case v q m vals => exact Group.modLanes_keeps (fun L => L.pred r) G m (fun l L => { L with v := spPut 0 L.v q (nth 0 vals l) }) (fun k L => rfl) l
  case s => rfl
  case p q m vals =>
    split
    · next e => simp [e]
    · next e =>
      rw [Group.lane_modLanes _ _ _ _ h]
      by_cases hm : inMask m l = true
      · simp only [hm, if_true, and_true, Lane.pred_setBit _ _ _ _ hr e, e, ne_eq, not_false_eq_true]
      · simp [hm]
  case m q x => exact Group.releaseMask_keeps (fun L => L.pred r) (fun _ _ _ _ => rfl) _ _ _ l
  case l => rfl
  case h => rfl
  case lst => rfl
  case bcd => rfl

theorem Group.commitAll_p (ps : List Pend) (G : Group) (r l : Nat) (h : l < G.lanes.length) (hr : r < 8) :
    ((G.commitAll ps).lane l).pred r = throughP r l ((G.lane l).pred r) ps := by
  induction ps generalizing G with
  | nil => rfl
  | cons p ps ih =>
    show (((G.write p.w).commitAll ps).lane l).pred r = _
    rw [ih _ (by rw [Group.write_length]; exact h), Group.write_p _ _ _ _ h hr]
    rfl

/-! ### The results on their way after an instruction -/

/-- The results on their way after an instruction with the writes `ws`; of those of a word with N only a set of TRNX (R72, R73, R78, R96). -/
def Ctx.pendAfter (x : Ctx) (ws : List (Nat × RegWrite)) : List Pend :=
  (if (formOf x.i).hdr.noWrite then ws.filter (fun w => w.2 == .trnx) else ws).foldl (fun a w => insPend { due := x.run.clk + w.1, w := w.2 } a) x.run.pend

/-- Inserting a result among the others: those that name a given register. -/
theorem insPend_filter_other (q : Pend → Bool) (y : Pend) (hy : q y = false) (ps : List Pend) : (insPend y ps).filter q = ps.filter q := by
  induction ps with
  | nil => simp [insPend, hy]
  | cons p r ih =>
    simp only [insPend]
    split
    · simp [List.filter_cons, hy]
    · simp only [List.filter_cons, ih]

theorem insPend_filter_new (q : Pend → Bool) (y : Pend) (hy : q y = true) (ps : List Pend) (h : ps.filter q = []) : (insPend y ps).filter q = [y] := by
  induction ps with
  | nil => simp [insPend, hy]
  | cons p r ih =>
    have hp : q p = false := by
      cases hc : q p with
      | false => rfl
      | true => simp [hc] at h
    simp only [List.filter_cons, hp] at h
    simp only [insPend]
    split
    · rw [List.filter_cons, if_pos hy, List.filter_cons, hp]; simpa using h
    · rw [List.filter_cons, hp]; simpa using ih (by simpa using h)

/-- Only the results that name a register count for it. -/
theorem throughV_filter (r l : Nat) (old : Word) (ps : List Pend) :
    throughV r l old ps = throughV r l old (ps.filter (fun p => decide (p.w.reg = some (.v r)))) := by
  induction ps generalizing old with
  | nil => rfl
  | cons p ps ih =>
    rw [List.filter_cons]
    split
    · exact ih _
    · next h =>
      rw [← ih]
      show throughV r l _ ps = _
      congr 1
      obtain ⟨d, w⟩ := p
      cases w <;> simp only
      rw [if_neg]
      rintro ⟨rfl, -⟩
      simp [RegWrite.reg] at h

theorem throughS_filter (r : Nat) (old : Word) (ps : List Pend) :
    throughS r old ps = throughS r old (ps.filter (fun p => decide (p.w.reg = some (.s r)))) := by
  induction ps generalizing old with
  | nil => rfl
  | cons p ps ih =>
    rw [List.filter_cons]
    split
    · exact ih _
    · next h =>
      rw [← ih]
      show throughS r _ ps = _
      congr 1
      obtain ⟨d, w⟩ := p
      cases w <;> simp only
      rw [if_neg]
      rintro rfl
      simp [RegWrite.reg] at h

theorem throughP_filter (r l : Nat) (old : Bool) (ps : List Pend) :
    throughP r l old ps = throughP r l old (ps.filter (fun p => decide (p.w.reg = some (.p r)))) := by
  induction ps generalizing old with
  | nil => rfl
  | cons p ps ih =>
    rw [List.filter_cons]
    split
    · exact ih _
    · next h =>
      rw [← ih]
      show throughP r l _ ps = _
      congr 1
      obtain ⟨d, w⟩ := p
      cases w <;> simp only
      rw [if_neg]
      rintro ⟨rfl, -⟩
      simp [RegWrite.reg] at h

/-- A register that nothing on its way names comes to what it holds. -/
theorem throughV_clear (r l : Nat) (old : Word) (ps : List Pend) (h : ∀ p ∈ ps, p.w.reg ≠ some (.v r)) : throughV r l old ps = old := by
  rw [throughV_filter, List.filter_eq_nil_iff.mpr (fun p hp => by simpa using h p hp)]; rfl

theorem throughS_clear (r : Nat) (old : Word) (ps : List Pend) (h : ∀ p ∈ ps, p.w.reg ≠ some (.s r)) : throughS r old ps = old := by
  rw [throughS_filter, List.filter_eq_nil_iff.mpr (fun p hp => by simpa using h p hp)]; rfl

theorem throughP_clear (r l : Nat) (old : Bool) (ps : List Pend) (h : ∀ p ∈ ps, p.w.reg ≠ some (.p r)) : throughP r l old ps = old := by
  rw [throughP_filter, List.filter_eq_nil_iff.mpr (fun p hp => by simpa using h p hp)]; rfl

/-! ### Where the group is -/

theorem State.group?_setTeam (s : State) (T : Team) (t g : Nat) (T0 : Team) (h : s.team? t = some T0) (hid : T.id = t) :
    (s.setTeam T).group? t g = T.group? g := by
  rw [State.group?, State.team?_setTeam_same s T0 T t h hid]; rfl

theorem State.freeQuad_team? (s : State) (c t g n : Nat) : (s.freeQuad c t g).team? n = s.team? n := by
  rfl

/-- A group of a team changed by `modGroup`. -/
theorem State.group?_modGroup (s : State) (t g : Nat) (f : Group → Group) (G : Group) (h : s.group? t g = some G) (hf : (f G).gid = G.gid) :
    (s.modGroup t g f).group? t g = some (f G) := by
  unfold State.group? at h
  cases hT : s.team? t with
  | none => simp [hT] at h
  | some T =>
    simp only [hT, Option.bind_some] at h
    simp only [State.modGroup, hT, h]
    have hg := Team.group?_gid T g G h
    rw [State.group?_setTeam s _ t g T hT (by simpa using State.team?_id s t T hT)]
    exact Team.group?_setGroup_same T G (f G) g h (by rw [hf, hg])

theorem stepLanes_keeps {α : Type} (p : Lane → α) (hp : ∀ (L : Lane) a, p { L with pc := a } = p L) (G : Group) (ex : Lanes) (pc : DWord)
    (goto : List (Nat × DWord)) (l : Nat) : p ((stepLanes G ex pc goto).lane l) = p (G.lane l) := by
  unfold stepLanes
  refine Group.modLanes_keeps p G ex (fun l L =>
    if L.hold != .runnable then L
    else match goto.find? (·.1 == l) with
      | some x => { L with pc := x.2 }
      | none => { L with pc := nextSlot pc }) (fun k L => ?_) l
  split
  · rfl
  · split <;> exact hp _ _

theorem Group.meetSettle_gid (G : Group) : G.meetSettle.gid = G.gid := rfl

theorem Group.meetSettle_run (G : Group) : G.meetSettle.run = G.run := rfl

theorem Group.write_gid (G : Group) (w : RegWrite) : (G.write w).gid = G.gid := by
  cases w <;> simp only [Group.write]
  case v => rfl
  case p => split <;> rfl
  case m => unfold Group.releaseMask; dsimp only; split <;> rfl

theorem Group.commitAll_gid (ps : List Pend) (G : Group) : (G.commitAll ps).gid = G.gid := by
  induction ps generalizing G with
  | nil => rfl
  | cons p r ih => exact (ih _).trans (Group.write_gid _ _)

theorem lane_of_lanes {G H : Group} (h : H.lanes = G.lanes) (l : Nat) : H.lane l = G.lane l := by simp [Group.lane, h]

/-- What the latches of a group become leaves its lanes, its S registers and its number. -/
theorem Group.latchesAfter_lanes (G : Group) (clk : Nat) (cutPair cut : Bool) (e : Eff) :
    (G.latchesAfter clk cutPair cut e).lanes = G.lanes ∧ (G.latchesAfter clk cutPair cut e).s = G.s ∧ (G.latchesAfter clk cutPair cut e).gid = G.gid := by
  unfold Group.latchesAfter
  repeat' split
  all_goals exact ⟨rfl, rfl, rfl⟩

/-- A change of a share leaves every group where it is. -/
theorem State.group?_modShare (s : State) (t g n j : Nat) (f : Share → Share) : (s.modShare n j f).group? t g = s.group? t g := by
  unfold State.modShare
  cases hT : s.team? n with
  | none => rfl
  | some T =>
    dsimp only
    split
    · have hid := State.team?_id s n T hT
      by_cases ht : t = n
      · subst ht
        rw [State.group?_setTeam s _ t g T hT (by simpa using hid)]
        simp [State.group?, hT]; rfl
      · rw [State.group?, State.team?_setTeam_other _ _ _ (by simpa [hid] using ht)]; rfl
    · rfl

/-- A set of TRNX, at once or on its way, leaves every group where it is. -/
theorem State.group?_lateTrnx (s : State) (t g n : Nat) (G : Group) (clk : Nat) (ps : List Pend) : (s.lateTrnx n G clk ps).group? t g = s.group? t g := by
  unfold State.lateTrnx
  split
  · exact State.group?_modShare ..
  · rfl

/-- The group whose run has ended: its results are written, and it has no run and no latches. -/
theorem State.group?_endRun {s : State} {t g : Nat} {G : Group} (c : Nat) (r : Run) (h : s.group? t g = some G) :
    (s.endRun t g c r).group? t g = some (Group.meetSettle { G.commitAll r.pend with run := none, xs := [], xprev := [], ready := false }) := by
  have at1 := State.group?_modGroup _ t g (fun G => Group.meetSettle { G.commitAll r.pend with run := none, xs := [], xprev := [], ready := false }) _
    ((State.group?_lateTrnx s t g t G r.clk r.pend).trans h) (Group.commitAll_gid _ _)
  unfold State.endRun
  rw [h]
  exact at1

theorem ite_three {α : Type} (p q : Prop) [Decidable p] [Decidable q] (a b : α) :
    (if p then a else if q then b else a) = a ∨ (if p then a else if q then b else a) = b := by
  repeat' split
  all_goals simp

/-- After a performed instruction, the group is where it was, and each of its registers comes to what the results on their way make of it. -/
theorem Ctx.finish_group (x : Ctx) (s1 s2 : State) (e : Eff) (G : Group) (h : s2.group? x.t x.g = some G) :
    ∃ H, (x.finish s1 e s2).group? x.t x.g = some H ∧ H.lanes.length = G.lanes.length ∧
      (∀ r l, l < G.lanes.length → H.vreg r l = throughV r l (spGet 0 (G.lane l).v r) (x.pendAfter e.writes)) ∧
      (∀ r, H.sreg r = throughS r (spGet 0 G.s r) (x.pendAfter e.writes)) ∧
      (∀ r l, l < G.lanes.length → r < 8 → H.preg r l = throughP r l ((G.lane l).pred r) (x.pendAfter e.writes)) := by
  have h0 := h
  unfold State.group? at h
  cases hT : s2.team? x.t with
  | none => simp [hT] at h
  | some T =>
    simp only [hT, Option.bind_some] at h
    have hg := Team.group?_gid T x.g G h
    have hid := State.team?_id s2 x.t T hT
    -- the group as the instruction leaves it, before a run's end
    have latched := G.latchesAfter_lanes x.run.clk (x.cutPair s1) x.cut e
    generalize hG1 : G.latchesAfter x.run.clk (x.cutPair s1) x.cut e = G1 at latched
    obtain ⟨l1, l2, l3⟩ := latched
    generalize hb : (if e.stay then G1 else stepLanes G1 x.ex x.pc e.goto) = B
    have hBv : ∀ r l, spGet 0 (B.lane l).v r = spGet 0 (G.lane l).v r := by
      intro r l
      rw [← hb, ← lane_of_lanes l1]; split
      · rfl
      · exact congrArg (fun y => spGet 0 y r) (stepLanes_keeps (fun L => L.v) (fun _ _ => rfl) _ _ _ _ l)
    have hBp : ∀ r l, (B.lane l).pred r = (G.lane l).pred r := by
      intro r l
      rw [← hb, ← lane_of_lanes l1]; split
      · rfl
      · exact stepLanes_keeps (fun L => L.pred r) (fun _ _ => rfl) _ _ _ _ l
    have hBs : B.s = G.s := by rw [← hb, ← l2]; split <;> rfl
    have hBl : B.lanes.length = G.lanes.length := by
      rw [← hb, ← l1]; split
      · rfl
      · exact Group.modLanes_length _ _ _
    have hBg : B.gid = x.g := by rw [← hb, ← hg, ← l3]; split <;> rfl
    have key : ∃ run : Run, run.pend = x.pendAfter e.writes ∧
        (x.finish s1 e s2 = s2.setTeam (T.setGroup { B with run := some run }) ∨
         x.finish s1 e s2 = (s2.setTeam (T.setGroup { B with run := some run })).endRun x.t x.g x.c run) := by
      unfold Ctx.finish Sys2Proof.Machine.finish
      simp only [hT, h, hG1, hb]
      exact ⟨_, rfl, ite_three _ _ _ _⟩
    obtain ⟨run, hrun, hk⟩ := key
    have at0 : (s2.setTeam (T.setGroup { B with run := some run })).group? x.t x.g = some { B with run := some run } := by
      rw [State.group?_setTeam s2 _ x.t x.g T hT (by simpa using hid)]
      exact Team.group?_setGroup_same T G _ x.g h hBg
    rcases hk with hk | hk
    · refine ⟨{ B with run := some run }, by rw [hk]; exact at0, hBl, ?_, ?_, ?_⟩
      · intro r l hl
        show spGet 0 ((Group.commitAll _ run.pend).lane l).v r = _
        rw [Group.commitAll_v _ _ _ _ (by rw [← hBl] at hl; exact hl), hrun]
        exact congrArg (fun y => throughV r l y _) (hBv r l)
      · intro r
        show spGet 0 (Group.commitAll _ run.pend).s r = _
        rw [Group.commitAll_s, hrun]
        exact congrArg (fun y => throughS r (spGet 0 y r) _) hBs
      · intro r l hl hr
        show ((Group.commitAll _ run.pend).lane l).pred r = _
        rw [Group.commitAll_p _ _ _ _ (by rw [← hBl] at hl; exact hl) hr, hrun]
        exact congrArg (fun y => throughP r l y _) (hBp r l)
    · have at1 := State.group?_endRun x.c run at0
      refine ⟨_, by rw [hk]; exact at1, ?_, ?_, ?_, ?_⟩
      · exact (Group.meetSettle_length _).trans ((Group.commitAll_length _ _).trans hBl)
      · intro r l hl
        show spGet 0 ((Group.meetSettle _).lane l).v r = _
        rw [Group.meetSettle_keeps (fun L => L.v) (fun _ _ _ _ => rfl)]
        show spGet 0 ((Group.commitAll _ run.pend).lane l).v r = _
        rw [Group.commitAll_v _ _ _ _ (by rw [← hBl] at hl; exact hl), hrun]
        exact congrArg (fun y => throughV r l y _) (hBv r l)
      · intro r
        show spGet 0 (Group.commitAll _ run.pend).s r = _
        rw [Group.commitAll_s, hrun]
        exact congrArg (fun y => throughS r (spGet 0 y r) _) hBs
      · intro r l hl hr
        show ((Group.meetSettle _).lane l).pred r = _
        rw [Group.meetSettle_keeps (fun L => L.pred r) (fun _ _ _ _ => rfl)]
        show ((Group.commitAll _ run.pend).lane l).pred r = _
        rw [Group.commitAll_p _ _ _ _ (by rw [← hBl] at hl; exact hl) hr, hrun]
        exact congrArg (fun y => throughP r l y _) (hBp r l)

end Sys2Proof.Machine
end

