-- ==== Sys2Proof/Laws/Memory.lean ====
section
/-! SUPPORT. Bytes of memory: reading after writing, and that every operation on memory keeps its canonical form. -/

namespace Sys2Proof.Machine

theorem Mem.byte_setByte (m : Mem) (a b : PAddr) (x : Byte) :
    (m.setByte a x).byte b = if b.key = a.key then x else m.byte b := spGet_put _ _ _ _ _

theorem Mem.wf_setByte (m : Mem) (a : PAddr) (x : Byte) (h : m.wf = true) : (m.setByte a x).wf = true := spWf_put _ _ _ _ h

theorem Mem.wf_setBytes (w : List (PAddr × Byte)) (m : Mem) (h : m.wf = true) : (m.setBytes w).wf = true := by
  induction w generalizing m with
  | nil => exact h
  | cons a r ih => exact ih _ (Mem.wf_setByte _ _ _ h)

/-- A byte that a list of writes does not name reads as before. -/
theorem Mem.byte_setBytes_other (w : List (PAddr × Byte)) (m : Mem) (a : PAddr) (ha : ∀ x ∈ w, x.1.key ≠ a.key) :
    (m.setBytes w).byte a = m.byte a := by
  induction w generalizing m with
  | nil => rfl
  | cons y r ih =>
    show ((m.setByte y.1 y.2).setBytes r).byte a = m.byte a
    rw [ih _ (fun x hx => ha x (List.mem_cons_of_mem _ hx)), Mem.byte_setByte, if_neg]
    exact fun e => ha y List.mem_cons_self e.symm

/-- The last write that names a byte gives its value. -/
theorem Mem.byte_setBytes_last (w v : List (PAddr × Byte)) (m : Mem) (a b : PAddr) (x : Byte) (e : a.key = b.key)
    (hv : ∀ y ∈ v, y.1.key ≠ a.key) : (m.setBytes (w ++ (b, x) :: v)).byte a = x := by
  induction w generalizing m with
  | nil =>
    show ((m.setByte b x).setBytes v).byte a = x
    rw [Mem.byte_setBytes_other v _ a hv, Mem.byte_setByte, if_pos e]
  | cons y r ih => exact ih (m.setByte y.1 y.2)

@[simp] theorem Mem.byte_store (m : Mem) (w : List (PAddr × Byte)) (a : PAddr) : (m.store w).byte a = (m.setBytes w).byte a := rfl

theorem Mem.wf_store (m : Mem) (w : List (PAddr × Byte)) (h : m.wf = true) : (m.store w).wf = true := Mem.wf_setBytes w m h

theorem Mem.wf_zeroRange (m : Mem) (a : PAddr) (n : Nat) (h : m.wf = true) : (m.zeroRange a n).wf = true := spWf_filter _ _ _ h

theorem Mem.byte_zeroRange (m : Mem) (a b : PAddr) (n : Nat) :
    (m.zeroRange a n).byte b = if a.key ≤ b.key ∧ b.key < a.key + n then 0 else m.byte b := by
  have e := spGet_filter memDefault (fun k => !(decide (a.key ≤ k) && decide (k < a.key + n))) m.cells b.key
  refine Eq.trans e ?_
  by_cases hb : a.key ≤ b.key ∧ b.key < a.key + n
  · simp [hb.1, hb.2, memDefault]
  · rw [if_neg hb, if_pos]
    · rfl
    · simp only [not_and, Nat.not_lt] at hb
      simp only [Bool.not_eq_true', Bool.and_eq_false_iff, decide_eq_false_iff_not]
      by_cases h1 : a.key ≤ b.key
      · exact Or.inr (by have := hb h1; omega)
      · exact Or.inl h1

theorem spWf_foldl {α β : Type} [DecidableEq α] (d : α) (k : β → Nat) (v : β → α) (l : List β) (m : List (Nat × α)) (h : spWf d m = true) :
    spWf d (l.foldl (fun m c => spPut d m (k c) (v c)) m) = true := by
  induction l generalizing m with
  | nil => exact h
  | cons a r ih => exact ih _ (spWf_put d m _ _ h)

theorem Mem.wf_back (m : Mem) (x : L1Line) (h : m.wf = true) : (m.back x).wf = true := by
  unfold Mem.back
  split <;> exact Mem.wf_store _ _ h

theorem Mem.wf_copyFrames (m : Mem) (a b : PAddr) (n : Nat) (h : m.wf = true) : (m.copyFrames a b n).wf = true :=
  spWf_foldl _ _ _ _ _ (Mem.wf_zeroRange m b _ h)

theorem Mem.wf_lower (cells : List Host.Cell) (bad : List Nat) (ps : List (PAddr × Nat × Nat)) (m : Mem) (h : m.wf = true) :
    (m.lower cells bad ps).wf = true := by
  induction ps generalizing m with
  | nil => exact h
  | cons p r ih => exact ih _ (spWf_foldl _ _ _ _ _ (Mem.wf_zeroRange m p.1 _ h))

end Sys2Proof.Machine
end

