-- ==== Sys2Proof/Laws/PerInstr.lean ====
section
/-! SUPPORT. Every instruction that has a word carries its own opcode in the word's bits 95 to 88, whatever its fields hold (R410). -/

namespace Sys2Proof.Laws.OpcodeField

open Sys2Proof.Machine

theorem append_shift {n m : Nat} (a : BitVec n) (b : BitVec m) (k : Nat) (h : m ≤ k) :
    (a ++ b).toNat >>> k = a.toNat >>> (k - m) := by
  have e : (a ++ b).toNat / 2 ^ m = a.toNat := by
    rw [BitVec.toNat_append, Nat.shiftLeft_eq, Nat.mul_comm, ← Nat.two_pow_add_eq_or_of_lt b.isLt,
      Nat.mul_add_div (Nat.two_pow_pos m), Nat.div_eq_of_lt b.isLt, Nat.add_zero]
  obtain ⟨j, rfl⟩ := Nat.exists_eq_add_of_le h
  rw [Nat.shiftRight_add, Nat.shiftRight_eq_div_pow _ m, e, Nat.add_sub_cancel_left]

/-- The bits above 88 of a word whose top 22 bits are a header are the header's opcode. -/
theorem top_of_shift (x : BitVec 96) (op fn : Byte) (h : Hdr) (e : x.toNat >>> 88 = (encHdr op fn h).toNat >>> 14) :
    fldN x 88 8 = op.toNat := by
  have e2 : (encHdr op fn h).toNat >>> 14 = op.toNat := by
    unfold encHdr
    rw [append_shift _ _ _ (by decide), append_shift _ _ _ (by decide), append_shift _ _ _ (by decide), append_shift _ _ _ (by decide)]
    rfl
  have := op.isLt
  rw [fldN, BitVec.extractLsb'_toNat, e, e2, Nat.mod_eq_of_lt this]

theorem encRI_op (g : RISig) (w : RIWord) : fldN (encRI g w) 88 8 = g.op.toNat := by
  apply top_of_shift _ g.op (bit w.isImm ++ w.var) w.hdr
  unfold encRI
  simp only
  split <;> repeat rw [append_shift _ _ _ (by decide)]

theorem encM_op (g : MSig) (w : MWord) : fldN (encM g w) 88 8 = g.op.toNat := by
  apply top_of_shift _ g.op (0#1 ++ w.op ++ w.space) w.hdr
  unfold encM
  repeat rw [append_shift _ _ _ (by decide)]

theorem encE_op (k : CopyOp) (w : EWord) : fldN (encE k w) 88 8 = k.op.toNat := by
  apply top_of_shift _ k.op (0#3 ++ bit (k == .sct) ++ bit w.ver ++ bit w.sts ++ bit w.tdec ++ bit w.stg) w.hdr
  unfold encE
  repeat rw [append_shift _ _ _ (by decide)]

theorem encQ_op (k : MatOp) (w : QWord) : fldN (encQ k w) 88 8 = k.op.toNat := by
  apply top_of_shift _ k.op 0 w.hdr
  unfold encQ
  repeat rw [append_shift _ _ _ (by decide)]

/-- If the instruction has a word, the word's bits 95 to 88 are the instruction's opcode. -/
def Statement (i : Instr) : Prop := ∀ x, encode i = some x → fldN x 88 8 = (formOf i).op

theorem nop (runEnd : Bool) : Statement (.nop runEnd) := by rintro x ⟨⟩; cases runEnd <;> rfl
theorem bra (w : RIWord) : Statement (.bra w) := by rintro x ⟨⟩; exact encRI_op _ _
theorem jmp (w : RIWord) : Statement (.jmp w) := by rintro x ⟨⟩; exact encRI_op _ _
theorem call (w : RIWord) : Statement (.call w) := by rintro x ⟨⟩; exact encRI_op _ _
theorem callReg (w : RIWord) : Statement (.callReg w) := by rintro x ⟨⟩; exact encRI_op _ _
theorem ret (w : RIWord) : Statement (.ret w) := by rintro x ⟨⟩; exact encRI_op _ _
theorem exit (w : RIWord) : Statement (.exit w) := by rintro x ⟨⟩; exact encRI_op _ _
theorem trap (w : RIWord) : Statement (.trap w) := by rintro x ⟨⟩; exact encRI_op _ _
theorem brk (w : RIWord) : Statement (.brk w) := by rintro x ⟨⟩; exact encRI_op _ _
theorem join (w : RIWord) : Statement (.join w) := by rintro x ⟨⟩; exact encRI_op _ _
theorem leave (w : RIWord) : Statement (.leave w) := by rintro x ⟨⟩; exact encRI_op _ _
theorem wait (w : RIWord) : Statement (.wait w) := by rintro x ⟨⟩; exact encRI_op _ _
theorem meet (w : RIWord) : Statement (.meet w) := by rintro x ⟨⟩; exact encRI_op _ _
theorem meetReg (w : RIWord) : Statement (.meetReg w) := by rintro x ⟨⟩; exact encRI_op _ _
theorem meetClr (w : RIWord) : Statement (.meetClr w) := by rintro x ⟨⟩; exact encRI_op _ _
theorem mskopMov (w : RIWord) : Statement (.mskopMov w) := by rintro x ⟨⟩; exact encRI_op _ _
theorem mskopAnd (w : RIWord) : Statement (.mskopAnd w) := by rintro x ⟨⟩; exact encRI_op _ _
theorem mskopOr (w : RIWord) : Statement (.mskopOr w) := by rintro x ⟨⟩; exact encRI_op _ _
theorem mskopXor (w : RIWord) : Statement (.mskopXor w) := by rintro x ⟨⟩; exact encRI_op _ _
theorem mskopAndn (w : RIWord) : Statement (.mskopAndn w) := by rintro x ⟨⟩; exact encRI_op _ _
theorem mskopRd (w : RIWord) : Statement (.mskopRd w) := by rintro x ⟨⟩; exact encRI_op _ _
theorem graft (w : RIWord) : Statement (.graft w) := by rintro x ⟨⟩; exact encRI_op _ _
theorem graftReg (w : RIWord) : Statement (.graftReg w) := by rintro x ⟨⟩; exact encRI_op _ _
theorem migr (w : RIWord) : Statement (.migr w) := by rintro x ⟨⟩; exact encRI_op _ _
theorem iadd (w : RIWord) : Statement (.iadd w) := by rintro x ⟨⟩; exact encRI_op _ _
theorem isub (w : RIWord) : Statement (.isub w) := by rintro x ⟨⟩; exact encRI_op _ _
theorem imul (w : RIWord) : Statement (.imul w) := by rintro x ⟨⟩; exact encRI_op _ _
theorem imad (w : RIWord) : Statement (.imad w) := by rintro x ⟨⟩; exact encRI_op _ _
theorem imin (w : RIWord) : Statement (.imin w) := by rintro x ⟨⟩; exact encRI_op _ _
theorem imax (w : RIWord) : Statement (.imax w) := by rintro x ⟨⟩; exact encRI_op _ _
theorem iabs (w : RIWord) : Statement (.iabs w) := by rintro x ⟨⟩; exact encRI_op _ _
theorem icmp (w : RIWord) : Statement (.icmp w) := by rintro x ⟨⟩; exact encRI_op _ _
theorem and (w : RIWord) : Statement (.and w) := by rintro x ⟨⟩; exact encRI_op _ _
theorem or (w : RIWord) : Statement (.or w) := by rintro x ⟨⟩; exact encRI_op _ _
theorem xor (w : RIWord) : Statement (.xor w) := by rintro x ⟨⟩; exact encRI_op _ _
theorem shl (w : RIWord) : Statement (.shl w) := by rintro x ⟨⟩; exact encRI_op _ _
theorem shr (w : RIWord) : Statement (.shr w) := by rintro x ⟨⟩; exact encRI_op _ _
theorem shrA (w : RIWord) : Statement (.shrA w) := by rintro x ⟨⟩; exact encRI_op _ _
theorem bfe (w : RIWord) : Statement (.bfe w) := by rintro x ⟨⟩; exact encRI_op _ _
theorem bfi (w : RIWord) : Statement (.bfi w) := by rintro x ⟨⟩; exact encRI_op _ _
theorem popc (w : RIWord) : Statement (.popc w) := by rintro x ⟨⟩; exact encRI_op _ _
theorem clz (w : RIWord) : Statement (.clz w) := by rintro x ⟨⟩; exact encRI_op _ _
theorem brev (w : RIWord) : Statement (.brev w) := by rintro x ⟨⟩; exact encRI_op _ _
theorem mov (w : RIWord) : Statement (.mov w) := by rintro x ⟨⟩; exact encRI_op _ _
theorem movi (w : RIWord) : Statement (.movi w) := by rintro x ⟨⟩; exact encRI_op _ _
theorem sel (w : RIWord) : Statement (.sel w) := by rintro x ⟨⟩; exact encRI_op _ _
theorem addr (w : RIWord) : Statement (.addr w) := by rintro x ⟨⟩; exact encRI_op _ _
theorem plop (w : RIWord) : Statement (.plop w) := by rintro x ⟨⟩; exact encRI_op _ _
theorem fadd (w : RIWord) : Statement (.fadd w) := by rintro x ⟨⟩; exact encRI_op _ _
theorem fmul (w : RIWord) : Statement (.fmul w) := by rintro x ⟨⟩; exact encRI_op _ _
theorem fma (w : RIWord) : Statement (.fma w) := by rintro x ⟨⟩; exact encRI_op _ _
theorem fmin (w : RIWord) : Statement (.fmin w) := by rintro x ⟨⟩; exact encRI_op _ _
theorem fmax (w : RIWord) : Statement (.fmax w) := by rintro x ⟨⟩; exact encRI_op _ _
theorem fcmp (w : RIWord) : Statement (.fcmp w) := by rintro x ⟨⟩; exact encRI_op _ _
theorem fclass (w : RIWord) : Statement (.fclass w) := by rintro x ⟨⟩; exact encRI_op _ _
theorem frcp (w : RIWord) : Statement (.frcp w) := by rintro x ⟨⟩; exact encRI_op _ _
theorem frsq (w : RIWord) : Statement (.frsq w) := by rintro x ⟨⟩; exact encRI_op _ _
theorem fsqrt (w : RIWord) : Statement (.fsqrt w) := by rintro x ⟨⟩; exact encRI_op _ _
theorem fexp (w : RIWord) : Statement (.fexp w) := by rintro x ⟨⟩; exact encRI_op _ _
theorem flog (w : RIWord) : Statement (.flog w) := by rintro x ⟨⟩; exact encRI_op _ _
theorem ftanh (w : RIWord) : Statement (.ftanh w) := by rintro x ⟨⟩; exact encRI_op _ _
theorem cvt (w : RIWord) : Statement (.cvt w) := by rintro x ⟨⟩; exact encRI_op _ _
theorem pack (w : RIWord) : Statement (.pack w) := by rintro x ⟨⟩; exact encRI_op _ _
theorem unpk (w : RIWord) : Statement (.unpk w) := by rintro x ⟨⟩; exact encRI_op _ _
theorem shfl (w : RIWord) : Statement (.shfl w) := by rintro x ⟨⟩; exact encRI_op _ _
theorem vote (w : RIWord) : Statement (.vote w) := by rintro x ⟨⟩; exact encRI_op _ _
theorem redx (w : RIWord) : Statement (.redx w) := by rintro x ⟨⟩; exact encRI_op _ _
theorem prfx (w : RIWord) : Statement (.prfx w) := by rintro x ⟨⟩; exact encRI_op _ _
theorem matchLanes (w : RIWord) : Statement (.matchLanes w) := by rintro x ⟨⟩; exact encRI_op _ _
theorem ld (w : MWord) : Statement (.ld w) := by rintro x ⟨⟩; exact encM_op _ _
theorem ldv (w : MWord) : Statement (.ldv w) := by rintro x ⟨⟩; exact encM_op _ _
theorem ldt (w : MWord) : Statement (.ldt w) := by rintro x ⟨⟩; exact encM_op _ _
theorem st (w : MWord) : Statement (.st w) := by rintro x ⟨⟩; exact encM_op _ _
theorem stt (w : MWord) : Statement (.stt w) := by rintro x ⟨⟩; exact encM_op _ _
theorem swld (w : MWord) : Statement (.swld w) := by rintro x ⟨⟩; exact encM_op _ _
theorem swldRaw (w : MWord) : Statement (.swldRaw w) := by rintro x ⟨⟩; exact encM_op _ _
theorem atomAdd (w : MWord) : Statement (.atomAdd w) := by rintro x ⟨⟩; exact encM_op _ _
theorem atomMin (w : MWord) : Statement (.atomMin w) := by rintro x ⟨⟩; exact encM_op _ _
theorem atomMax (w : MWord) : Statement (.atomMax w) := by rintro x ⟨⟩; exact encM_op _ _
theorem atomAnd (w : MWord) : Statement (.atomAnd w) := by rintro x ⟨⟩; exact encM_op _ _
theorem atomOr (w : MWord) : Statement (.atomOr w) := by rintro x ⟨⟩; exact encM_op _ _
theorem atomXor (w : MWord) : Statement (.atomXor w) := by rintro x ⟨⟩; exact encM_op _ _
theorem atomExch (w : MWord) : Statement (.atomExch w) := by rintro x ⟨⟩; exact encM_op _ _
theorem atomf (w : MWord) : Statement (.atomf w) := by rintro x ⟨⟩; exact encM_op _ _
theorem acas (w : MWord) : Statement (.acas w) := by rintro x ⟨⟩; exact encM_op _ _
theorem red (w : MWord) : Statement (.red w) := by rintro x ⟨⟩; exact encM_op _ _
theorem swadd (w : MWord) : Statement (.swadd w) := by rintro x ⟨⟩; exact encM_op _ _
theorem enq (w : MWord) : Statement (.enq w) := by rintro x ⟨⟩; exact encM_op _ _
theorem deq (w : MWord) : Statement (.deq w) := by rintro x ⟨⟩; exact encM_op _ _
theorem fence (w : RIWord) : Statement (.fence w) := by rintro x ⟨⟩; exact encRI_op _ _
theorem rfence (w : RIWord) : Statement (.rfence w) := by rintro x ⟨⟩; exact encRI_op _ _
theorem cwait (w : RIWord) : Statement (.cwait w) := by rintro x ⟨⟩; exact encRI_op _ _
theorem wcnt (w : RIWord) : Statement (.wcnt w) := by rintro x ⟨⟩; exact encRI_op _ _
theorem bar (w : RIWord) : Statement (.bar w) := by rintro x ⟨⟩; exact encRI_op _ _
theorem stgwaitEmpty (w : RIWord) : Statement (.stgwaitEmpty w) := by rintro x ⟨⟩; exact encRI_op _ _
theorem stgwaitFull (w : RIWord) : Statement (.stgwaitFull w) := by rintro x ⟨⟩; exact encRI_op _ _
theorem stgfree (w : RIWord) : Statement (.stgfree w) := by rintro x ⟨⟩; exact encRI_op _ _
theorem lset (w : RIWord) : Statement (.lset w) := by rintro x ⟨⟩; exact encRI_op _ _
theorem lmode (w : RIWord) : Statement (.lmode w) := by rintro x ⟨⟩; exact encRI_op _ _
theorem lchain (w : RIWord) : Statement (.lchain w) := by rintro x ⟨⟩; exact encRI_op _ _
theorem lpart (w : RIWord) : Statement (.lpart w) := by rintro x ⟨⟩; exact encRI_op _ _
theorem ltrans (w : RIWord) : Statement (.ltrans w) := by rintro x ⟨⟩; exact encRI_op _ _
theorem lflat (w : RIWord) : Statement (.lflat w) := by rintro x ⟨⟩; exact encRI_op _ _
theorem lflatAll (w : RIWord) : Statement (.lflatAll w) := by rintro x ⟨⟩; exact encRI_op _ _
theorem lswz (w : RIWord) : Statement (.lswz w) := by rintro x ⟨⟩; exact encRI_op _ _
theorem lchk (w : RIWord) : Statement (.lchk w) := by rintro x ⟨⟩; exact encRI_op _ _
theorem lbcd (w : RIWord) : Statement (.lbcd w) := by rintro x ⟨⟩; exact encRI_op _ _
theorem lget (w : RIWord) : Statement (.lget w) := by rintro x ⟨⟩; exact encRI_op _ _
theorem hbind (w : RIWord) : Statement (.hbind w) := by rintro x ⟨⟩; exact encRI_op _ _
theorem hflush (w : RIWord) : Statement (.hflush w) := by rintro x ⟨⟩; exact encRI_op _ _
theorem hinfo (w : RIWord) : Statement (.hinfo w) := by rintro x ⟨⟩; exact encRI_op _ _
theorem obres (w : RIWord) : Statement (.obres w) := by rintro x ⟨⟩; exact encRI_op _ _
theorem obrel (w : RIWord) : Statement (.obrel w) := by rintro x ⟨⟩; exact encRI_op _ _
theorem cpy (w : EWord) : Statement (.cpy w) := by rintro x ⟨⟩; exact encE_op _ _
theorem cpygGth (w : EWord) : Statement (.cpygGth w) := by rintro x ⟨⟩; exact encE_op _ _
theorem cpygSct (w : EWord) : Statement (.cpygSct w) := by rintro x ⟨⟩; exact encE_op _ _
theorem cpyz (w : EWord) : Statement (.cpyz w) := by rintro x ⟨⟩; exact encE_op _ _
theorem cpyf (w : EWord) : Statement (.cpyf w) := by rintro x ⟨⟩; exact encE_op _ _
theorem copyStart (core : Nat) : Statement (.copyStart core) := nofun
theorem copyCompletion (core : Nat) : Statement (.copyCompletion core) := nofun
theorem mma (w : QWord) : Statement (.mma w) := by rintro x ⟨⟩; exact encQ_op _ _
theorem mmab (w : QWord) : Statement (.mmab w) := by rintro x ⟨⟩; exact encQ_op _ _
theorem mmat (w : QWord) : Statement (.mmat w) := by rintro x ⟨⟩; exact encQ_op _ _
theorem aclr (w : QWord) : Statement (.aclr w) := by rintro x ⟨⟩; exact encQ_op _ _
theorem adrn (w : QWord) : Statement (.adrn w) := by rintro x ⟨⟩; exact encQ_op _ _
theorem matrixInstructionStart (t j : Nat) (drain : Bool) : Statement (.matrixInstructionStart t j drain) := nofun
theorem matrixCommit (t j : Nat) : Statement (.matrixCommit t j) := nofun
theorem adrnCompletion (t j : Nat) : Statement (.adrnCompletion t j) := nofun
theorem axfrRd (w : RIWord) : Statement (.axfrRd w) := by rintro x ⟨⟩; exact encRI_op _ _
theorem axfrWr (w : RIWord) : Statement (.axfrWr w) := by rintro x ⟨⟩; exact encRI_op _ _
theorem mloop (w : RIWord) : Statement (.mloop w) := by rintro x ⟨⟩; exact encRI_op _ _
theorem mjmp (w : RIWord) : Statement (.mjmp w) := by rintro x ⟨⟩; exact encRI_op _ _
theorem mend (w : RIWord) : Statement (.mend w) := by rintro x ⟨⟩; exact encRI_op _ _
theorem tlaunch (w : RIWord) : Statement (.tlaunch w) := by rintro x ⟨⟩; exact encRI_op _ _
theorem tdec (w : RIWord) : Statement (.tdec w) := by rintro x ⟨⟩; exact encRI_op _ _
theorem stepadv (w : RIWord) : Statement (.stepadv w) := by rintro x ⟨⟩; exact encRI_op _ _
theorem steprd (w : RIWord) : Statement (.steprd w) := by rintro x ⟨⟩; exact encRI_op _ _
theorem swfold (w : RIWord) : Statement (.swfold w) := by rintro x ⟨⟩; exact encRI_op _ _
theorem swmrg (w : RIWord) : Statement (.swmrg w) := by rintro x ⟨⟩; exact encRI_op _ _
theorem nmld (w : MWord) : Statement (.nmld w) := by rintro x ⟨⟩; exact encM_op _ _
theorem nmst (w : MWord) : Statement (.nmst w) := by rintro x ⟨⟩; exact encM_op _ _
theorem nmlog (w : MWord) : Statement (.nmlog w) := by rintro x ⟨⟩; exact encM_op _ _
theorem nmcommit (w : RIWord) : Statement (.nmcommit w) := by rintro x ⟨⟩; exact encRI_op _ _
theorem nmabort (w : RIWord) : Statement (.nmabort w) := by rintro x ⟨⟩; exact encRI_op _ _
theorem sysrd (w : RIWord) : Statement (.sysrd w) := by rintro x ⟨⟩; exact encRI_op _ _
theorem syswr (w : RIWord) : Statement (.syswr w) := by rintro x ⟨⟩; exact encRI_op _ _
theorem syswrGstep (w : RIWord) : Statement (.syswrGstep w) := by rintro x ⟨⟩; exact encRI_op _ _
theorem syswrFactbase (w : RIWord) : Statement (.syswrFactbase w) := by rintro x ⟨⟩; exact encRI_op _ _
theorem syswrRecbase (w : RIWord) : Statement (.syswrRecbase w) := by rintro x ⟨⟩; exact encRI_op _ _
theorem syswrTrapvec (w : RIWord) : Statement (.syswrTrapvec w) := by rintro x ⟨⟩; exact encRI_op _ _
theorem syswrTrnxAsat (w : RIWord) : Statement (.syswrTrnxAsat w) := by rintro x ⟨⟩; exact encRI_op _ _
theorem syswrArr (w : RIWord) : Statement (.syswrArr w) := by rintro x ⟨⟩; exact encRI_op _ _
theorem tret (w : RIWord) : Statement (.tret w) := by rintro x ⟨⟩; exact encRI_op _ _
theorem runIssue (t g : Nat) : Statement (.runIssue t g) := nofun
theorem groupResume (t g : Nat) : Statement (.groupResume t g) := nofun
theorem operandLogReplay (t g : Nat) : Statement (.operandLogReplay t g) := nofun
theorem residencyFaultService (die idx : Nat) : Statement (.residencyFaultService die idx) := nofun
theorem pageMove (asn : Nat) (va : DWord) (die : Nat) : Statement (.pageMove asn va die) := nofun
theorem hostPageDeadline (slot : Nat) : Statement (.hostPageDeadline slot) := nofun
theorem pageResponse (slot : Nat) (resp : Word) : Statement (.pageResponse slot resp) := nofun
theorem apertureWrite (slot off : Nat) (data : List Byte) : Statement (.apertureWrite slot off data) := nofun
theorem recordFill (core asn : Nat) (addr : DWord) : Statement (.recordFill core asn addr) := nofun
theorem storePerform (core idx : Nat) : Statement (.storePerform core idx) := nofun
theorem atomicServiceRequest (cluster : Nat) : Statement (.atomicServiceRequest cluster) := nofun
theorem dataFrame (f : Frame) : Statement (.dataFrame f) := nofun
theorem acknowledgement (f : Frame) : Statement (.acknowledgement f) := nofun
theorem keepalive (session : Nat) : Statement (.keepalive session) := nofun
theorem frameResend (session : Nat) (seq : DWord) : Statement (.frameResend session seq) := nofun
theorem handshake (p : PeerShow) : Statement (.handshake p) := nofun
theorem rekey (session : Nat) : Statement (.rekey session) := nofun
theorem peerLost (win : Nat) (member : Bool) (idx : Nat) : Statement (.peerLost win member idx) := nofun
theorem cwaitTimeout (t g : Nat) : Statement (.cwaitTimeout t g) := nofun
theorem ethernetFrame (port : Nat) (kind : EthKind) : Statement (.ethernetFrame port kind) := nofun
theorem windowMap (die : Nat) (entry : BitVec 4608) : Statement (.windowMap die entry) := nofun
theorem windowUnmap (win : Nat) : Statement (.windowUnmap win) := nofun
theorem bindWindowCounter (win sel : Nat) (n : DWord) (task : Nat) : Statement (.bindWindowCounter win sel n task) := nofun
theorem registerStampedRegion (asn : Nat) (base : DWord) (len : Nat) : Statement (.registerStampedRegion asn base len) := nofun
theorem registerLoggedRegion (die asn : Nat) (base : DWord) (len : Nat) : Statement (.registerLoggedRegion die asn base len) := nofun
theorem undoAreaSize (slice size : Nat) : Statement (.undoAreaSize slice size) := nofun
theorem pruneSweep (slice : Nat) : Statement (.pruneSweep slice) := nofun
theorem addCutting (t bed core : Nat) : Statement (.addCutting t bed core) := nofun
theorem messageInstallation (t j : Nat) : Statement (.messageInstallation t j) := nofun
theorem queueDescriptorWrite (q : Nat) (desc : BitVec 512) : Statement (.queueDescriptorWrite q desc) := nofun
theorem doorbell (port q : Nat) (count : Word) : Statement (.doorbell port q count) := nofun
theorem admission (q : Nat) : Statement (.admission q) := nofun
theorem taskDecrement : Statement (.taskDecrement) := nofun
theorem placement (task : Nat) : Statement (.placement task) := nofun
theorem gangAging (task : Nat) : Statement (.gangAging task) := nofun
theorem transformBinding (t j : Nat) : Statement (.transformBinding t j) := nofun
theorem teamStart (t : Nat) : Statement (.teamStart t) := nofun
theorem groupRetire (t g : Nat) : Statement (.groupRetire t g) := nofun
theorem shareRetire (t j : Nat) : Statement (.shareRetire t j) := nofun
theorem taskCompletion (task : Nat) : Statement (.taskCompletion task) := nofun
theorem taskKill (task : Nat) : Statement (.taskKill task) := nofun
theorem kill (t : Nat) (cause : Byte) : Statement (.kill t cause) := nofun
theorem preemptionRequest (victims : List Nat) : Statement (.preemptionRequest victims) := nofun
theorem contextSave (t : Nat) : Statement (.contextSave t) := nofun
theorem contextRestore (idx : Nat) : Statement (.contextRestore idx) := nofun
theorem asyncCauseDelivery (t g : Nat) : Statement (.asyncCauseDelivery t g) := nofun
theorem matrixEngineReset (core : Nat) : Statement (.matrixEngineReset core) := nofun
theorem flitReceive (link module seq : Nat) (crcOk : Bool) : Statement (.flitReceive link module seq crcOk) := nofun
theorem flitReplay (link module lastGood : Nat) : Statement (.flitReplay link module lastGood) := nofun
theorem retrain (edge module : Nat) (found : TrainResult) : Statement (.retrain edge module found) := nofun
theorem attestationRequest (nonce : BitVec 256) : Statement (.attestationRequest nonce) := nofun
theorem freeze : Statement (.freeze) := nofun
theorem powerOnReset (images : List Image) : Statement (.powerOnReset images) := nofun
theorem clockGatedIdle (core : Nat) : Statement (.clockGatedIdle core) := nofun
theorem keepaliveReceipt (f : Frame) : Statement (.keepaliveReceipt f) := nofun
theorem loopbackLanding (win dest : Nat) : Statement (.loopbackLanding win dest) := nofun
theorem counterCopyUpdate (die win : Nat) : Statement (.counterCopyUpdate die win) := nofun
theorem sweepCompletion : Statement (.sweepCompletion) := nofun
theorem instructionLineFetch (t g : Nat) : Statement (.instructionLineFetch t g) := nofun
theorem bindingRemoval (idx : Nat) : Statement (.bindingRemoval idx) := nofun
theorem overflowAreaReclaim (t bytes : Nat) : Statement (.overflowAreaReclaim t bytes) := nofun
theorem hostLinkTraining (port width : Nat) : Statement (.hostLinkTraining port width) := nofun
theorem unassignedOpcode (w : InstrWord) : Statement (.unassignedOpcode w) := by rintro x ⟨⟩; rfl

end Sys2Proof.Laws.OpcodeField
end

