-- ==== Sys2Proof/Laws/Results.lean ====
section
/-! SUPPORT. The results of performed instructions: the destination of a value, and the predicate of a comparison. -/

namespace Sys2Proof.Machine

theorem nth_laneList {α : Type} (f : Nat → α) (d : α) (l : Nat) (h : l < 16) : nth d (laneList.map f) l = f l := by
  rcases l with _ | _ | _ | _ | _ | _ | _ | _ | _ | _ | _ | _ | _ | _ | _ | _ | l
  case succ => omega
  all_goals rfl

theorem inMask_lt {m : Lanes} {l : Nat} (h : inMask m l = true) : l < 16 := by
  by_cases hl : l < 16
  · exact hl
  · rw [inMask, BitVec.getLsbD_of_ge _ _ (by omega)] at h; cases h

theorem lowestLane_lt (m : Lanes) : (lowestLane m).getD 0 < 16 := by
  cases h : lowestLane m with
  | none => decide
  | some l =>
    have : l ∈ lanesOf m := List.mem_of_mem_head? h
    have : l ∈ laneList := (List.mem_filter.mp this).1
    simp only [laneList, List.mem_cons, List.not_mem_nil, or_false] at this
    simp only [Option.getD_some]; omega

/-- A list with one result for a V register gives it that result. -/
theorem throughV_one (r l : Nat) (old : Word) (ps : List Pend) (y : Pend) (m : Lanes) (vals : List Word) (hw : y.w = .v r m vals)
    (h : ps.filter (fun p => decide (p.w.reg = some (.v r))) = [y]) (hm : inMask m l = true) : throughV r l old ps = nth 0 vals l := by
  rw [throughV_filter, h]
  simp [throughV, hw, hm]

theorem throughS_one (r : Nat) (old : Word) (ps : List Pend) (y : Pend) (x : Word) (hw : y.w = .s r x)
    (h : ps.filter (fun p => decide (p.w.reg = some (.s r))) = [y]) : throughS r old ps = x := by
  rw [throughS_filter, h]
  simp [throughS, hw]

theorem throughP_one (r l : Nat) (old : Bool) (ps : List Pend) (y : Pend) (m vals : Lanes) (hw : y.w = .p r m vals)
    (h : ps.filter (fun p => decide (p.w.reg = some (.p r))) = [y]) (hm : inMask m l = true) :
    throughP r l old ps = if r = 0 then old else inMask vals l := by
  rw [throughP_filter, h]
  by_cases hr : r = 0 <;> simp [throughP, hw, hm, hr]

theorem vRun_one (i : Nat) (b : Bool) : Reg.v i ∈ vRun i (if b then 2 else 1) ∧ (b = true → Reg.v (i + 1) ∈ vRun i (if b then 2 else 1)) := by
  cases b <;> simp [vRun, upFrom]

theorem sRun_one (i : Nat) (b : Bool) : Reg.s i ∈ sRun i (if b then 2 else 1) ∧ (b = true → Reg.s (i + 1) ∈ sRun i (if b then 2 else 1)) := by
  cases b <;> simp [sRun, upFrom]

/-- The destination of a value that a group's instruction computes: its registers come to it. -/
theorem Ctx.finish_dest (x : Ctx) (s1 s2 : State) (e : Eff) (G : Group) (h : s2.group? x.t x.g = some G) (d : Dst) (wide : Bool) (lat : Nat)
    (val : Nat → DWord) (hw : e.writes = destWrites d wide lat x.ex (laneList.map val)) (hn : (formOf x.i).hdr.noWrite = false) (hc : x.clearFor d wide) :
    ∃ H, (x.finish s1 e s2).group? x.t x.g = some H ∧ DestHolds d wide H x.ex val := by
  obtain ⟨H, hH, hlen, hv, hs, -⟩ := x.finish_group s1 s2 e G h
  refine ⟨H, hH, ?_⟩
  have hp : x.pendAfter e.writes = e.writes.foldl (fun a w => insPend { due := x.run.clk + w.1, w := w.2 } a) x.run.pend := by
    rw [Ctx.pendAfter, hn]; rfl
  have none_v : ∀ r, Reg.v r ∈ dstRegs wide d → x.run.pend.filter (fun p => decide (p.w.reg = some (Reg.v r))) = [] := fun r hr =>
    List.filter_eq_nil_iff.mpr (fun p hpp => by simpa using hc _ hr p hpp)
  have none_s : ∀ r, Reg.s r ∈ dstRegs wide d → x.run.pend.filter (fun p => decide (p.w.reg = some (Reg.s r))) = [] := fun r hr =>
    List.filter_eq_nil_iff.mpr (fun p hpp => by simpa using hc _ hr p hpp)
  cases d with
  | idx => trivial
  | v i =>
    intro l hl hm
    have hl16 := inMask_lt hm
    have m1 := (vRun_one i.toNat wide).1
    have m2 := (vRun_one i.toNat wide).2
    constructor
    · rw [hv _ _ (by omega), hp, hw]
      cases wide
      · exact (throughV_one _ _ _ _ _ _ _ rfl (insPend_filter_new _ _ (by simp [RegWrite.reg]) _ (none_v _ m1)) hm).trans (by rw [List.map_map, nth_laneList _ _ _ hl16]; rfl)
      · exact (throughV_one _ _ _ _ _ _ _ rfl ((insPend_filter_other _ _ (by simp [RegWrite.reg]) _).trans
          (insPend_filter_new _ _ (by simp [RegWrite.reg]) _ (none_v _ m1))) hm).trans (by rw [List.map_map, nth_laneList _ _ _ hl16]; rfl)
    · rintro rfl
      rw [hv _ _ (by omega), hp, hw]
      exact (throughV_one _ _ _ _ _ _ _ rfl (insPend_filter_new _ _ (by simp [RegWrite.reg]) _
          ((insPend_filter_other _ _ (by simp [RegWrite.reg]) _).trans (none_v _ (m2 rfl)))) hm).trans (by rw [List.map_map, nth_laneList _ _ _ hl16]; rfl)
  | s i =>
    have hl16 := lowestLane_lt x.ex
    have m1 := (sRun_one i.toNat wide).1
    have m2 := (sRun_one i.toNat wide).2
    constructor
    · rw [hs, hp, hw]
      cases wide
      · exact (throughS_one _ _ _ _ _ rfl (insPend_filter_new _ _ (by simp [RegWrite.reg]) _ (none_s _ m1))).trans (by rw [List.map_map, nth_laneList _ _ _ hl16]; rfl)
      · exact (throughS_one _ _ _ _ _ rfl ((insPend_filter_other _ _ (by simp [RegWrite.reg]) _).trans
          (insPend_filter_new _ _ (by simp [RegWrite.reg]) _ (none_s _ m1)))).trans (by rw [List.map_map, nth_laneList _ _ _ hl16]; rfl)
    · rintro rfl
      rw [hs, hp, hw]
      exact (throughS_one _ _ _ _ _ rfl (insPend_filter_new _ _ (by simp [RegWrite.reg]) _
          ((insPend_filter_other _ _ (by simp [RegWrite.reg]) _).trans (none_s _ (m2 rfl))))).trans (by rw [List.map_map, nth_laneList _ _ _ hl16]; rfl)

/-- Where a group issues, it is the context's group that the state holds. -/
theorem GroupIssues.group {i : Instr} {s s1 : State} {x : Ctx} (h : GroupIssues i s x s1) : s1.group? x.t x.g = some x.G := by
  obtain ⟨ht, hg, -, hs, -, -, T, G, r, sh, hT, hG, -, -, -, -, hxG, hxT, -, -⟩ := groupCtx_who h.ctx
  have gid : x.G.gid = x.g := by
    rw [hxG, hg]
    have : ∀ (ps : List Pend) (G : Group), (G.commitTo r.clk ps).1.gid = G.gid := by
      intro ps
      induction ps with
      | nil => intro G; rfl
      | cons p q ih =>
        intro G
        simp only [Group.commitTo]
        split
        · exact (ih _).trans (Group.write_gid _ _)
        · rfl
    exact (this _ _).trans (Team.group?_gid T _ G (by rw [hg] at hG; exact hG))
  rw [hs, State.group?_setTeam s x.T x.t x.g T hT (by rw [hxT]; exact State.team?_id s _ T hT), hxT]
  exact Team.group?_setGroup_same _ G x.G x.g hG gid

/-- An instruction whose body answers a value a lane has that value for its result. -/
theorem resultIs {i : Instr} {d : Dst} {wide : Bool} {val : Ctx → Nat → DWord} (lat : Nat) (eff : Ctx → Eff) {s2 : Ctx → State → State}
    {group : Ctx → State → Res} {seq : SeqCtx → State → Res} {thread : ThCtx → State → Res}
    (hexec : ∀ s, exec i s = issue i s group seq thread) (hb : ∀ x s, group x s = .done (s2 x s) (eff x))
    (he : ∀ x, (eff x).writes = destWrites d wide lat x.ex (laneList.map (val x)))
    (h2 : ∀ (x : Ctx) (s : State), s.group? x.t x.g = some x.G → ∃ G, (s2 x s).group? x.t x.g = some G) : ResultIs i d wide val := by
  intro s s1 x h
  refine ⟨_, (hexec s).trans (issue_group_done h (hb x s1)), fun hn hc => ?_⟩
  obtain ⟨G, hG⟩ := h2 x s1 h.group
  rw [← h.instr] at hn
  obtain ⟨H, hH, hd⟩ := x.finish_dest s1 (s2 x s1) (eff x) G hG d wide lat (val x) (he x) hn hc
  exact ⟨H, hH, hd⟩

/-- A value instruction (R441): its result is the value of its operands, lane by lane. -/
theorem resultIs_value {i : Instr} {g : RISig} {w : RIWord} {wide : Bool} {lat : Nat} {val : Env → Nat → DWord}
    (hexec : ∀ s, exec i s = issueValue g w i wide lat val s) : ResultIs i w.d wide (fun x l => val x.env l) :=
  resultIs lat (fun x => valueEff g w wide lat x.ex (laneList.map (val x.env))) (s2 := fun _ s1 => s1) hexec (fun _ _ => rfl) (fun _ => rfl) (fun x _ h => ⟨x.G, h⟩)

/-- Two ways of saying the values of a destination that agree where its registers look. -/
theorem DestHolds.congr {d : Dst} {wide : Bool} {H : Group} {ex : Lanes} {f g : Nat → DWord} (h : DestHolds d wide H ex f)
    (lo : ∀ l, (f l).setWidth 32 = (g l).setWidth 32) (hi : wide = true → ∀ l, (f l >>> 32).setWidth 32 = (g l >>> 32).setWidth 32) : DestHolds d wide H ex g := by
  cases d with
  | idx => trivial
  | v i => exact fun l hl hm => ⟨(h l hl hm).1.trans (lo l), fun hw => ((h l hl hm).2 hw).trans (hi hw l)⟩
  | s i => exact ⟨h.1.trans (lo _), fun hw => (h.2 hw).trans (hi hw _)⟩

theorem ResultIs.congr {i : Instr} {d : Dst} {wide : Bool} {f g : Ctx → Nat → DWord} (h : ResultIs i d wide f)
    (lo : ∀ x l, (f x l).setWidth 32 = (g x l).setWidth 32) (hi : wide = true → ∀ x l, (f x l >>> 32).setWidth 32 = (g x l >>> 32).setWidth 32) : ResultIs i d wide g := by
  intro s s1 x hx
  obtain ⟨t, ht, hd⟩ := h s s1 x hx
  refine ⟨t, ht, fun hn hc => ?_⟩
  obtain ⟨H, hH, hh⟩ := hd hn hc
  exact ⟨H, hH, hh.congr (lo x) (fun hw => hi hw x)⟩

end Sys2Proof.Machine
end

