-- ==== Sys2Proof/Tests/Slice0.lean ====
section
/-! SUPPORT. Checks of the model's own: well-formedness, decoding, single steps, and for the statements states that meet their hypotheses. -/

namespace Sys2Proof.Tests

open Sys2Proof.Machine

set_option maxRecDepth 100000
set_option Elab.async false

/-! ### Blank words -/

def ri : RIWord := { hdr := ⟨false, false, 0⟩, isImm := false, var := 0, d := .idx 0, a := .idx 0, b := .idx 0, c := .idx 0, imm := 0, t := 0, rm := 0, sat := false, ftz := false, t2 := 0, xf := 0 }
def mem : MWord := { hdr := ⟨false, false, 0⟩, op := 0, space := 3, d := .idx 0, a := .idx 0, b := .idx 0, c := .idx 0, t := 0, ord := 0, scope := 0, prm := false, wide := false, off := 0 }
def cpe : EWord := { hdr := ⟨false, false, 0⟩, stg := false, tdec := false, sts := false, ver := false, dside := ⟨0, 0, 0⟩, sside := ⟨0, 0, 0⟩, xl := 0, dim := 0, p0 := .s 0, p1 := .s 0, p2 := .s 0, p3 := .s 0, p4 := .s 0 }
def mat : QWord := { hdr := ⟨false, false, 0⟩, tq := false, tile := 0, x := ⟨0, 0, 0⟩, y := ⟨0, 0, 0⟩, z := ⟨0, 0, 0⟩, ta := 0, tb := 0, tc := 0, zc := false, tr := false, cnt := 0 }

/-! ### Decoding -/

/-! ### Ill-formed words -/

/-- Checks of formats R and I (R411, R414, R418): a form the opcode lacks, an immediate in format R, a variant, a destination, each source, a type, a second type, RM, SAT, FTZ, N, G, an S destination of a varying source, XF, and the rules of single opcodes. -/
theorem test_wf_ri : ([
  .bra ri, .imad { ri with isImm := true, d := .v 1, a := .v 2, t := 3 }, .iadd { ri with d := .v 1, a := .v 2, b := .v 3, t := 3, imm := 1 }, .vote { ri with d := .s 1, var := 4 },
  .iadd { ri with d := .idx 1, a := .v 2, b := .v 3, t := 3 }, .iadd { ri with d := .v 1, a := .v 2, b := .v 3, t := 0x10 }, .iadd { ri with d := .v 1, a := .idx 2, b := .v 3, t := 3 },
  .iadd { ri with d := .v 1, a := .v 2, b := .idx 3, t := 3 }, .iadd { ri with d := .v 1, a := .v 2, b := .v 3, c := .v 4, t := 3 }, .iadd { ri with d := .v 1, a := .v 2, b := .v 3, t := 3, t2 := 3 },
  .iadd { ri with d := .v 1, a := .v 2, b := .v 3, t := 3, rm := 1 }, .imin { ri with d := .v 1, a := .v 2, b := .v 3, t := 3, sat := true }, .iadd { ri with d := .v 1, a := .v 2, b := .v 3, t := 3, ftz := true },
  .iadd { ri with hdr := ⟨false, true, 0⟩, d := .v 2, a := .v 4, b := .v 6, t := 4 }, .iadd { ri with hdr := ⟨false, false, 1⟩, d := .v 1, a := .v 2, b := .v 3, t := 3 }, .iadd { ri with d := .s 1, a := .v 2, b := .s 3, t := 3 },
  .iadd { ri with d := .v 1, a := .v 2, b := .v 3, t := 3, xf := 1 }, .imul { ri with d := .v 1, a := .v 2, b := .v 3, t := 3, sat := true, xf := 1 }, .icmp { ri with d := .v 1, a := .v 2, b := .v 3, t := 3, xf := 3 },
  .shr { ri with var := 1, d := .v 1, a := .v 2, b := .v 3, t := 7 }, .redx { ri with var := 3, d := .s 1, a := .v 2, t := 0x10 }, .prfx { ri with d := .v 1, a := .v 2, t := 3, rm := 1 },
  .cvt { ri with d := .v 1, a := .imm 3, t := 0x10, t2 := 0x11 }, .pack { ri with d := .v 1, a := .v 2, b := .v 3, c := .v 4, t := 0x11, xf := 1 }, .unpk { ri with d := .v 1, a := .v 2, t := 0x11, xf := 2 },
  .hbind { ri with isImm := true, d := .idx 3, imm := 65536 }, .syswr { ri with a := .s 2, xf := 0x010 }, .syswrGstep { ri with a := .s 2, xf := 0x020 }] : List Instr).all (fun i => !i.wf) = true := by decide +kernel

/-- Checks of a source field and of a destination field (R412 to R414, R441): each kind refuses what it does not admission. -/
theorem test_wf_operands :
    ([(.zero, .idx 1), (.any, .idx 0), (.noImm, .imm 0), (.uniform, .v 0), (.uniform, .sp 0), (.sOrImm, .x 0), (.sOrNat 7, .imm 8), (.sOrNat 511, .imm 0x3FF), (.sOrPos 511, .imm 0), (.s, .v 0), (.sMax 992, .s 993),
      (.sEven, .s 1), (.pair, .s 1), (.pair, .x 0), (.v, .s 0), (.vMax 60, .v 61), (.vEven 62, .v 64), (.vEven 62, .v 3), (.vDst, .s 0), (.idx 11, .idx 12), (.side, .idx 1), (.side, .idx 0x800), (.side, .idx 0x600),
      (.side, .idx 0x020)] : List (SrcKind × Src)).all (fun p => !srcOk p.1 false p.2) = true ∧
    ([(.any, .v 1), (.any, .s 3), (.any, .x 0), (.any, .sp 0), (.cvt, .v 1), (.vDst, .v 1)] : List (SrcKind × Src)).all (fun p => !srcOk p.1 true p.2) = true ∧
    ([(.zero, .idx 1), (.reg, .idx 0), (.pair, .v 1), (.pair, .s 1), (.pred, .idx 0), (.v, .s 0), (.vT, .s 0), (.vMax 60, .v 61), (.vEven, .v 1), (.s, .v 0), (.sEven, .s 1), (.q, .s 64), (.idx 15, .idx 16)]
      : List (DstKind × Dst)).all (fun p => !dstOk p.1 false false p.2) = true ∧
    ([(.regT, .v 1), (.regT, .s 1), (.vT, .v 1)] : List (DstKind × Dst)).all (fun p => !dstOk p.1 true false p.2) = true ∧ dstOk .pred false true (.v 1) = false := by decide +kernel

/-- Checks of format M (R419, R436, R266): space, operation, destination, base, the pair base, data, type, order without scope, scope without order, a reserved scope, an order that the opcode lacks, .prm, N, G, an S destination, RED's types, and the space of a side. -/
theorem test_wf_m : ([
  .deq { mem with space := 0, d := .v 9, a := .v 2, c := .v 12, t := 7 }, .ld { mem with op := 1, d := .v 4, a := .v 2, t := 7 }, .ld { mem with d := .v 5, a := .v 2, t := 8 }, .ld { mem with d := .v 4, a := .idx 2, t := 7 },
  .ld { mem with d := .v 4, a := .v 3, t := 7, wide := true }, .ld { mem with space := 1, d := .v 4, a := .v 2, t := 7, wide := true }, .ld { mem with d := .v 4, a := .v 2, b := .v 3, t := 7 }, .ld { mem with d := .v 4, a := .v 2, t := 0 },
  .ld { mem with d := .v 4, a := .v 2, t := 7, ord := 1 }, .ld { mem with d := .v 4, a := .v 2, t := 7, scope := 5 }, .ld { mem with d := .v 4, a := .v 2, t := 7, ord := 1, scope := 6 }, .ld { mem with d := .v 4, a := .v 2, t := 7, ord := 2, scope := 5 },
  .st { mem with a := .v 2, b := .v 4, t := 7, prm := true }, .ld { mem with hdr := ⟨false, true, 0⟩, d := .v 4, a := .v 2, t := 7 }, .ld { mem with hdr := ⟨false, false, 1⟩, d := .v 4, a := .v 2, t := 7 }, .ld { mem with space := 0, d := .s 4, a := .s 2, t := 7 },
  .ld { mem with d := .s 4, a := .v 2, t := 7 }, .red { mem with op := 5, a := .v 2, b := .v 4, t := 0x10 }, .ldt { mem with space := 3, d := .v 20, b := .idx 0, t := 0x11 }, .nmld { mem with d := .v 61, a := .v 4 },
  .ldt { mem with space := 1, d := .v 20, b := .idx 0, t := 0x11, off := 4 }, .swadd { mem with d := .v 6, a := .v 2, b := .v 22, c := .imm 256, t := 0x19 }] : List Instr).all (fun i => !i.wf) = true := by decide +kernel

/-- Checks of formats E and Q (R420 to R422, R437): suffix operands, a field beyond the last, sides, .VER without a record, XL and DIM of a plain copy, N; and of a matrix word sides, types, fields of other opcodes, B. -/
theorem test_wf_eq : ([
  .cpy { cpe with stg := true, p0 := .imm 8 }, .cpy { cpe with stg := true, p1 := .imm 16 }, .cpy { cpe with tdec := true, p0 := .imm 1 }, .cpy { cpe with ver := true, sside := ⟨1, 0, 0⟩, p0 := .s 3 }, .cpy { cpe with p0 := .s 1 },
  .cpy { cpe with dside := ⟨3, 0, 0⟩ }, .cpy { cpe with dside := ⟨0, 1, 0⟩ }, .cpy { cpe with sside := ⟨1, 16, 0⟩ }, .cpy { cpe with ver := true }, .cpy { cpe with xl := 1 }, .cpy { cpe with dim := 1 }, .cpy { cpe with hdr := ⟨false, true, 0⟩ },
  .cpygGth { cpe with sside := ⟨1, 0, 0⟩, dim := 6 }, .cpygSct { cpe with dside := ⟨0, 0, 0⟩ }, .cpyz cpe, .cpyf cpe, .cpyf { cpe with sside := ⟨3, 0, 0⟩, ver := true },
  .mma { mat with ta := 1, tb := 5 }, .mma { mat with x := ⟨1, 0, 0⟩, ta := 1, tb := 1 }, .mma { mat with x := ⟨0, 0, 4⟩, ta := 1, tb := 1 }, .mma { mat with ta := 1, tb := 1, tc := 3 }, .mma { mat with ta := 1, tb := 1, cnt := 1 },
  .mma { mat with hdr := ⟨true, false, 0⟩, ta := 1, tb := 1 }, .mmab { mat with ta := 1, tb := 1 }, .mmat { mat with ta := 1, tb := 1 }, .aclr { mat with ta := 1 }, .adrn { mat with ta := 0x10 }, .adrn { mat with ta := 3, tc := 0x10 },
  .adrn { mat with x := ⟨1, 4, 0⟩, ta := 0x10, tc := 0x10 }] : List Instr).all (fun i => !i.wf) = true := by decide +kernel

/-- Checks of an event's arguments. -/
theorem test_wf_events : ([
  .hostPageDeadline 16, .pageResponse 16 0, .apertureWrite 16 0 [], .apertureWrite 0 65536 [0], .ethernetFrame 8 .arp, .bindWindowCounter 4096 0 0 0, .bindWindowCounter 0 65 0 0, .bindWindowCounter 0 0 0 65536, .undoAreaSize 1024 65536,
  .undoAreaSize 0 65537, .undoAreaSize 0 0, .undoAreaSize 0 16842752, .pruneSweep 1024, .addCutting 0 4096 0, .addCutting 0 0 16, .queueDescriptorWrite 131072 0, .doorbell 2 0 0, .doorbell 0 131072 0, .taskKill 65536,
  .flitReceive 28 0 0 true, .flitReceive 0 0 1024 true, .retrain 14 0 .full, .powerOnReset [], .hostLinkTraining 2 16, .hostLinkTraining 0 3, .unassignedOpcode 0] : List Instr).all (fun i => !i.wf) = true := by decide +kernel

/-- Words that name nothing (R439, ch. 22). -/
theorem test_decode_refuses :
    ([0x781D00000000000000000000, 0x790D00000000000000000000, 0x7E0000000000000000000000, 0x270600000000000000000000, 0x000000000000000000000001, 0x018000000000000000000400, 0xF20080000000000000000001] : List InstrWord).all
      (fun u => match decode u with | .error (.badField _) => true | _ => false) = true ∧
    ([0x760000000000000000000000, 0x0F0000000000000000000000, 0xFF8000000000000000000001] : List InstrWord).all (fun u => match decode u with | .error .unassigned => true | _ => false) = true := by decide +kernel

/-- PARITY of the line that ch. 22 works through is 0x2E. -/
theorem test_line_parity :
    lineParity ((0x200080048018040000C00000 : BitVec 512) <<< 384 ||| (0x410000028000008004100000 : BitVec 512) <<< 192 ||| (0x200000040046008000C00000 : BitVec 512) <<< 96 |||
      0x33800001800000001F41C000) = 0x2E := by decide +kernel

/-- The control words (R432 to R434, R460, R479, R501, R503, R518, R553), each field laid out by hand at its place. -/
def controlWords : List (InstrWord × Instr) := [
  (0x018024000007FFFFFDC00000, .bra { ri with hdr := ⟨false, false, 9⟩, isImm := true, imm := 0xFFFFFFB8 }),
  (0x0200000020A0000000000000, .jmp { ri with a := .s 20 }),
  (0x0380020F00000001BE000000, .call { ri with isImm := true, d := .s 30, imm := 0x37C0 }),
  (0x030000030040000000000000, .callReg { ri with d := .v 6, a := .v 8 }),
  (0x0400000020F0000000000000, .ret { ri with a := .s 30 }),
  (0x050080000000000000000000, .exit { ri with hdr := ⟨true, false, 0⟩ }),
  (0x068000000000000002680000, .trap { ri with isImm := true, imm := 0x4D }),
  (0x070000000000000000000ABC, .brk { ri with xf := 2748 }),
  (0x080000000018000000000000, .join { ri with a := .idx 3 }),
  (0x090000000058000000000000, .leave { ri with a := .idx 11 }),
  (0x0A0000000008000000000000, .wait { ri with a := .idx 1 }),
  (0x0B8000000000000001E00000, .meet { ri with isImm := true, imm := 0x3C }),
  (0x0B0000002020000000000000, .meetReg { ri with a := .s 4 }),
  (0x0B0100000000000000000000, .meetClr { ri with var := 1 }),
  (0x0C0000000016078000000000, .mskopMov { ri with a := .idx 2, b := .imm 15 }),
  (0x0C0100000012048000000000, .mskopAnd { ri with var := 1, a := .idx 2, b := .s 9 }),
  (0x0C0200000012048000000000, .mskopOr { ri with var := 2, a := .idx 2, b := .s 9 }),
  (0x0C0300000014808000000000, .mskopXor { ri with var := 3, a := .idx 2, b := .sp 1 }),
  (0x0C0400000014810000000000, .mskopAndn { ri with var := 4, a := .idx 2, b := .sp 2 }),
  (0x0C0502038010000000000000, .mskopRd { ri with var := 5, d := .s 7, a := .idx 2 }),
  (0x0D80000000500001BE00000C, .graft { ri with isImm := true, a := .idx 10, imm := 0x37C0, xf := 12 }),
  (0x0D000000204000005000000C, .graftReg { ri with a := .s 8, c := .idx 10, xf := 12 }),
  (0x0E0080002028000000000000, .migr { ri with hdr := ⟨true, false, 0⟩, a := .s 5 })]

theorem test_decode_control : controlWords.all (fun p => decide (instrOf p.1 = some p.2)) = true := by decide +kernel

/-- The integer words (R450, R498, R524, R532 to R535), each field laid out by hand at its place. -/
def integerWords : List (InstrWord × Instr) := [
  (0x200080048018040000C00000, .iadd { ri with hdr := ⟨true, false, 0⟩, d := .v 9, a := .v 3, b := .v 8, t := 3 }),
  (0x218000008010000C3501C800, .isub { ri with isImm := true, d := .v 1, a := .v 2, imm := 0x186A0, t := 7, sat := true }),
  (0x220000020032040001000001, .imul { ri with d := .v 4, a := .v 6, b := .s 8, t := 4, xf := 1 }),
  (0x230000008010018020C00000, .imad { ri with d := .v 1, a := .v 2, b := .v 3, c := .v 4, t := 3 }),
  (0x24000200A017000000400000, .imin { ri with d := .s 1, a := .s 2, b := .imm (-512), t := 1 }),
  (0x25000000C806FF8001400000, .imax { ri with d := .v 1, a := .sp 0, b := .imm 511, t := 5 }),
  (0x260000008010000000C80000, .iabs { ri with d := .v 1, a := .v 2, t := 3, sat := true }),
  (0x270200000018038000C0000A, .icmp { ri with var := 2, a := .v 3, b := .v 7, t := 3, xf := 10 }),
  (0x280000008010018001C00000, .and { ri with d := .v 1, a := .v 2, b := .v 3, t := 7 }),
  (0x290000008010018001C00000, .or { ri with d := .v 1, a := .v 2, b := .v 3, t := 7 }),
  (0x2A0040008010018001C00000, .xor { ri with hdr := ⟨false, true, 0⟩, d := .v 1, a := .v 2, b := .v 3, t := 7 }),
  (0x2B0000008016018001C00000, .shl { ri with d := .v 1, a := .v 2, b := .imm 3, t := 7 }),
  (0x2C0000008016018001C00000, .shr { ri with d := .v 1, a := .v 2, b := .imm 3, t := 7 }),
  (0x2C8100008010000C3500C000, .shrA { ri with isImm := true, var := 1, d := .v 1, a := .v 2, imm := 0x186A0, t := 3 }),
  (0x2D0000008016026041C00000, .bfe { ri with d := .v 1, a := .v 2, b := .imm 4, c := .imm 8, t := 7 }),
  (0x2E000000801001A020C00000, .bfi { ri with d := .v 1, a := .v 2, b := .v 3, c := .s 4, t := 3 }),
  (0x2F0000008010000002000000, .popc { ri with d := .v 1, a := .v 2, t := 8 }),
  (0x300000008010000001000000, .clz { ri with d := .v 1, a := .v 2, t := 4 }),
  (0x310000010020000002000000, .brev { ri with d := .v 2, a := .v 4, t := 8 }),
  (0x32000000A048000004000000, .mov { ri with d := .v 1, a := .s 9, t := 16 }),
  (0x33800001800000001F41C000, .movi { ri with isImm := true, d := .v 3, imm := 0x3E8, t := 7 }),
  (0x34000402A0A0028004000000, .sel { ri with hdr := ⟨false, false, 1⟩, d := .v 5, a := .s 20, b := .v 5, t := 16 }),
  (0x350000012020038000C00002, .addr { ri with d := .v 2, a := .s 4, b := .v 7, t := 3, xf := 2 }),
  (0x360000000008010000000388, .plop { ri with a := .idx 1, b := .idx 2, c := .idx 0, xf := 904 })]

theorem test_decode_integer : integerWords.all (fun p => decide (instrOf p.1 = some p.2)) = true := by decide +kernel

/-- The float words (R483 to R485, R492), each field laid out by hand at its place. -/
def floatWords : List (InstrWord × Instr) := [
  (0x408000008011FC0000042000, .fadd { ri with isImm := true, d := .v 1, a := .v 2, imm := 0x3F800000, t := 16, rm := 2 }),
  (0x410000028000008004100000, .fmul { ri with d := .v 5, a := .v 0, b := .v 1, t := 16, rm := 1 }),
  (0x4200000080100180244C0000, .fma { ri with d := .v 1, a := .v 2, b := .v 3, c := .v 4, t := 17, sat := true, ftz := true }),
  (0x430000008010018004840000, .fmin { ri with d := .v 1, a := .v 2, b := .v 3, t := 18, ftz := true }),
  (0x440000008010018004000000, .fmax { ri with d := .v 1, a := .v 2, b := .v 3, t := 16 }),
  (0x45070000001001800400000F, .fcmp { ri with var := 7, a := .v 2, b := .v 3, t := 16, xf := 15 }),
  (0x460000008010000004300000, .frcp { ri with d := .v 1, a := .v 2, t := 16, rm := 3 }),
  (0x470000008010000004080000, .frsq { ri with d := .v 1, a := .v 2, t := 16, sat := true }),
  (0x480000008010000004000000, .fsqrt { ri with d := .v 1, a := .v 2, t := 16 }),
  (0x490000008010000004000000, .fexp { ri with d := .v 1, a := .v 2, t := 16 }),
  (0x4A0000008010000004400000, .flog { ri with d := .v 1, a := .v 2, t := 17 }),
  (0x4B000200A010000004800000, .ftanh { ri with d := .s 1, a := .s 2, t := 18 }),
  (0x4C0000008010000004000000, .fclass { ri with d := .v 1, a := .v 2, t := 16 })]

theorem test_decode_float : floatWords.all (fun p => decide (instrOf p.1 = some p.2)) = true := by decide +kernel

/-- The conversion and cross-lane words (R470, R517, R537, R539, R540), each field laid out by hand at its place. -/
def lanesWords : List (InstrWord × Instr) := [
  (0x600000020048000004920000, .cvt { ri with d := .v 4, a := .v 9, t := 18, rm := 1, t2 := 16 }),
  (0x610000040020028044400000, .pack { ri with d := .v 8, a := .v 4, b := .v 5, c := .v 8, t := 17 }),
  (0x620000040020000001400003, .unpk { ri with d := .v 8, a := .v 4, t := 5, xf := 3 }),
  (0x630300008016040000C00000, .shfl { ri with var := 3, d := .v 1, a := .v 2, b := .imm 8, t := 3 }),
  (0x640202008018000000000001, .vote { ri with var := 2, d := .s 1, a := .idx 3, xf := 1 }),
  (0x650502008010000001C00000, .redx { ri with var := 5, d := .s 1, a := .v 2, t := 7 }),
  (0x660100008010000004100000, .prfx { ri with var := 1, d := .v 1, a := .v 2, t := 16, rm := 1 }),
  (0x670100008010000001C00000, .matchLanes { ri with var := 1, d := .v 1, a := .v 2, t := 7 })]

theorem test_decode_lanes : lanesWords.all (fun p => decide (instrOf p.1 = some p.2)) = true := by decide +kernel

/-- The memory words (R419, R436, R442, R475, R511, R516, R541, R544, R547), each field laid out by hand at its place. -/
def memoryWords : List (InstrWord × Instr) := [
  (0x700300020010000001DA8010, .ld { mem with space := 3, d := .v 4, a := .v 2, t := 7, ord := 1, scope := 5, wide := true, off := 0x10 }),
  (0x710100000030020001C00000, .st { mem with space := 1, a := .v 6, b := .v 4, t := 7 }),
  (0x7201000A0000040004400000, .ldt { mem with space := 1, d := .v 20, b := .idx 0x8, t := 17 }),
  (0x730300000002FF0044400000, .stt { mem with space := 3, c := .v 8, b := .idx 0x5FE, t := 17 }),
  (0x740300022010002030C08000, .ldv { mem with space := 3, d := .v 4, a := .s 2, c := .s 6, t := 3, wide := true }),
  (0x750000020010000006400000, .swld { mem with space := 0, d := .v 4, a := .v 2, t := 25 }),
  (0x750700020010000006408000, .swldRaw { mem with op := 1, space := 3, d := .v 4, a := .v 2, t := 25, wide := true }),
  (0x780300048010020000EA0000, .atomAdd { mem with space := 3, d := .v 9, a := .v 2, b := .v 4, t := 3, ord := 2, scope := 5 }),
  (0x780700048010020000C00000, .atomMin { mem with op := 1, space := 3, d := .v 9, a := .v 2, b := .v 4, t := 3 }),
  (0x780B00048010020001C00000, .atomMax { mem with op := 2, space := 3, d := .v 9, a := .v 2, b := .v 4, t := 7 }),
  (0x780E00048010020001C00000, .atomAnd { mem with op := 3, space := 2, d := .v 9, a := .v 2, b := .v 4, t := 7 }),
  (0x781000048010020001C00000, .atomOr { mem with op := 4, space := 0, d := .v 9, a := .v 2, b := .v 4, t := 7 }),
  (0x781700040010020002000000, .atomXor { mem with op := 5, space := 3, d := .v 8, a := .v 2, b := .v 4, t := 8 }),
  (0x781900048030038001C00000, .atomExch { mem with op := 6, space := 1, d := .v 9, a := .v 6, b := .v 7, t := 7 }),
  (0x790300018012060004808020, .atomf { mem with space := 3, d := .v 3, a := .v 2, b := .s 12, t := 18, wide := true, off := 0x20 }),
  (0x7A0308050010020029FA0000, .acas { mem with hdr := ⟨false, false, 2⟩, space := 3, d := .v 10, a := .v 2, c := .v 5, b := .v 4, t := 7, ord := 3, scope := 5 }),
  (0x7B1700000010020001C04000, .red { mem with op := 5, space := 3, a := .v 2, b := .v 4, t := 7, off := 0x4000 }),
  (0x7C03000300100B602E668000, .swadd { mem with space := 3, d := .v 6, a := .v 2, c := .imm 5, b := .v 22, t := 25, ord := 2, scope := 3, wide := true }),
  (0x7D0300048010020001EA0000, .enq { mem with space := 3, d := .v 9, a := .v 2, b := .v 4, t := 7, ord := 2, scope := 5 }),
  (0x7E01000480100000C2000008, .deq { mem with space := 1, d := .v 9, a := .v 2, c := .v 12, t := 8, off := 0x8 })]

theorem test_decode_memory : memoryWords.all (fun p => decide (instrOf p.1 = some p.2)) = true := by decide +kernel

/-- The order and synchronisation words (R435, R473, R489, R549, R555), each field laid out by hand at its place. -/
def syncWords : List (InstrWord × Instr) := [
  (0x901600000000000000000000, .fence { ri with var := 22 }),
  (0x9100020F2050000000000000, .rfence { ri with d := .s 30, a := .s 10 }),
  (0x9200020A205E002080000012, .cwait { ri with d := .s 20, a := .s 11, b := .imm 0, c := .s 16, xf := 18 }),
  (0x93000201201E218000000000, .wcnt { ri with d := .s 2, a := .s 3, b := .imm 67 }),
  (0x940080000006020000000000, .bar { ri with hdr := ⟨true, false, 0⟩, a := .idx 0, b := .imm 4 }),
  (0x95000000201E078000000000, .stgwaitEmpty { ri with a := .s 3, b := .imm 15 }),
  (0x95010000601E038000000000, .stgwaitFull { ri with var := 1, a := .imm 3, b := .imm 7 }),
  (0x96000000603A008000000000, .stgfree { ri with a := .imm 7, b := .s 1 })]

theorem test_decode_sync : syncWords.all (fun p => decide (instrOf p.1 = some p.2)) = true := by decide +kernel

/-- The layout, record and operand-buffer words (R112 to R119, R455, R494 to R496, R506, R508), each field laid out by hand at its place. -/
def layoutWords : List (InstrWord × Instr) := [
  (0xA00000022200000000000000, .lset { ri with d := .idx 4, a := .s 64 }),
  (0xA1000002002A03601000000E, .lmode { ri with d := .idx 4, a := .idx 5, b := .s 6, c := .imm 2, xf := 14 }),
  (0xA20000020028030000000000, .lchain { ri with d := .idx 4, a := .idx 5, b := .idx 6 }),
  (0xA30000020028032008000000, .lpart { ri with d := .idx 4, a := .idx 5, b := .idx 6, c := .s 1 }),
  (0xA40000008006008000000000, .ltrans { ri with d := .idx 1, a := .idx 0, b := .imm 1 }),
  (0xA50000008010000000000006, .lflat { ri with d := .idx 1, a := .idx 2, xf := 6 }),
  (0xA50100008010000000000000, .lflatAll { ri with var := 1, d := .idx 1, a := .idx 2 }),
  (0xA68000008010000049900000, .lswz { ri with isImm := true, d := .idx 1, a := .idx 2, imm := 0x932 }),
  (0xA70080000008000004400004, .lchk { ri with hdr := ⟨true, false, 0⟩, a := .idx 1, t := 17, xf := 4 }),
  (0xA80000000008018004400001, .lbcd { ri with a := .idx 1, b := .idx 3, t := 17, xf := 1 }),
  (0xA9000202000E0B8000000000, .lget { ri with d := .s 4, a := .idx 1, b := .imm 23 }),
  (0xAA800001800000001F400000, .hbind { ri with isImm := true, d := .idx 3, imm := 0x3E8 }),
  (0xAB0500000018000000000000, .hflush { ri with var := 5, a := .idx 3 }),
  (0xAC000201001E178000000000, .hinfo { ri with d := .s 2, a := .idx 3, b := .imm 47 }),
  (0xAD00000FA040000000000000, .obres { ri with d := .idx 31, a := .s 8 }),
  (0xAE00000000F8000000000000, .obrel { ri with a := .idx 31 })]

theorem test_decode_layout : layoutWords.all (fun p => decide (instrOf p.1 = some p.2)) = true := by decide +kernel

/-- The copy words (R420, R421, R437, R464), each field laid out by hand at its place. -/
def copiesWords : List (InstrWord × Instr) := [
  (0xB0030200A320100808A00000, .cpy { cpe with stg := true, tdec := true, dside := ⟨2, 0, 1⟩, sside := ⟨1, 3, 2⟩, p0 := .imm 0, p1 := .imm 1, p2 := .s 40 }),
  (0xB1040000A323A09000000000, .cpygGth { cpe with sts := true, dside := ⟨0, 0, 1⟩, sside := ⟨1, 3, 2⟩, xl := 3, dim := 5, p0 := .s 9 }),
  (0xB1180120A323208000000000, .cpygSct { cpe with ver := true, dside := ⟨1, 4, 1⟩, sside := ⟨1, 3, 2⟩, xl := 3, dim := 1, p0 := .s 8 }),
  (0xB2000000AF00000000000000, .cpyz { cpe with dside := ⟨0, 0, 1⟩, sside := ⟨1, 15, 0⟩ }),
  (0xB30002FFEFF0000000000000, .cpyf { cpe with dside := ⟨2, 31, 15⟩, sside := ⟨3, 15, 15⟩ })]

theorem test_decode_copies : copiesWords.all (fun p => decide (instrOf p.1 = some p.2)) = true := by decide +kernel

/-- The matrix-stream words (R422, R447, R448, R452, R521, R523), each field laid out by hand at its place. -/
def matrixWords : List (InstrWord × Instr) := [
  (0xC00000040082200252000000, .mma { mat with ta := 18, tb := 18, x := ⟨2, 0, 0⟩, y := ⟨2, 1, 1⟩ }),
  (0xC10001F80300400274040000, .mmab { mat with zc := true, tile := 63, ta := 19, tb := 20, x := ⟨0, 0, 3⟩, y := ⟨0, 0, 2⟩ }),
  (0xC20002280100400038000000, .mmat { mat with tq := true, tile := 5, ta := 1, tb := 24, x := ⟨0, 0, 1⟩, y := ⟨0, 0, 2⟩ }),
  (0xC30000280000000000001800, .aclr { mat with tile := 5, cnt := 3 }),
  (0xC40000022200000240800000, .adrn { mat with ta := 18, tc := 16, x := ⟨1, 2, 2⟩ }),
  (0xC500000A601A038000000000, .axfrRd { ri with d := .v 20, a := .imm 3, b := .s 7 }),
  (0xC5010000201E1F80A0000000, .axfrWr { ri with var := 1, a := .s 3, b := .imm 63, c := .v 20 }),
  (0xC88002000007FFFFFDA00000, .mloop { ri with isImm := true, d := .s 0, imm := 0xFFFFFFB4 }),
  (0xC98000000000000002000000, .mjmp { ri with isImm := true, imm := 0x40 }),
  (0xCA0000000000000000000000, .mend ri)]

theorem test_decode_matrix : matrixWords.all (fun p => decide (instrOf p.1 = some p.2)) = true := by decide +kernel

/-- The task, step, near-memory and system words (R95, R98, R348, R379, R526 to R528, R546, R550, R551, R563), each field laid out by hand at its place. -/
def tasksWords : List (InstrWord × Instr) := [
  (0xD0000201A020000000000000, .tlaunch { ri with d := .s 3, a := .s 4 }),
  (0xD10000006960000000000000, .tdec { ri with a := .imm 300 }),
  (0xD40002140000000000000000, .stepadv { ri with d := .s 40 }),
  (0xD50002140000000000000000, .steprd { ri with d := .s 40 }),
  (0xD60000020030000006400000, .swfold { ri with d := .v 4, a := .v 6, t := 25 }),
  (0xD70000020030040006400000, .swmrg { ri with d := .v 4, a := .v 6, b := .v 8, t := 25 }),
  (0xE00300040020000000000000, .nmld { mem with space := 3, d := .v 8, a := .v 4 }),
  (0xE103000000201E0000008000, .nmst { mem with space := 3, a := .v 4, b := .v 60, wide := true }),
  (0xE20300000020000000000000, .nmlog { mem with space := 3, a := .v 4 }),
  (0xE300000000A0000000000000, .nmcommit { ri with a := .v 20 }),
  (0xE40000000010000000000000, .nmabort { ri with a := .v 2 }),
  (0xF00002018000000000000030, .sysrd { ri with d := .s 3, xf := 48 }),
  (0xF10000002010000000000000, .syswr { ri with a := .s 2 }),
  (0xF10000002010000000000010, .syswrGstep { ri with a := .s 2, xf := 16 }),
  (0xF10000002010000000000021, .syswrFactbase { ri with a := .s 2, xf := 33 }),
  (0xF10000002010000000000020, .syswrRecbase { ri with a := .s 2, xf := 32 }),
  (0xF10000002010000000000022, .syswrTrapvec { ri with a := .s 2, xf := 34 }),
  (0xF10000002010000000000005, .syswrTrnxAsat { ri with a := .s 2, xf := 5 }),
  (0xF10000002010000000000040, .syswrArr { ri with a := .s 2, xf := 64 }),
  (0xF20080000000000000000000, .tret { ri with hdr := ⟨true, false, 0⟩ })]

theorem test_decode_tasks : tasksWords.all (fun p => decide (instrOf p.1 = some p.2)) = true := by decide +kernel

/-- The words that read latches (R412), each field laid out by hand at its place. -/
def latchesWords : List (InstrWord × Instr) := [
  (0x0C0400000014008000000000, .mskopAndn { ri with var := 4, a := .idx 2, b := .x 1 }),
  (0x23000000801001C038C00000, .imad { ri with d := .v 1, a := .v 2, b := .v 3, c := .x 7, t := 3 })]

theorem test_decode_latches : latchesWords.all (fun p => decide (instrOf p.1 = some p.2)) = true := by decide +kernel

/-- The words that the manual writes out in full (ch. 22, 23, 25), each field laid out by hand at its place. -/
def specWords : List (InstrWord × Instr) := [
  (0x000000000000000000000000, .nop false),
  (0x000080000000000000000000, .nop true),
  (0x0400000000F0000000000000, .ret { ri with a := .v 30 }),
  (0x050000000000000000000000, .exit ri),
  (0x0E0000006028000000000000, .migr { ri with a := .imm 5 }),
  (0x200000040046008000C00000, .iadd { ri with d := .v 8, a := .v 8, b := .imm 1, t := 3 }),
  (0x27020000001E038000C0000A, .icmp { ri with var := 2, a := .v 3, b := .imm 7, t := 3, xf := 10 }),
  (0x700000022020000001C00000, .ld { mem with space := 0, d := .v 4, a := .s 4, t := 7 }),
  (0x700102142060000001C00008, .ld { mem with space := 1, d := .s 40, a := .s 12, t := 7, off := 0x8 }),
  (0x7002020A2080000001C0003C, .ld { mem with space := 2, d := .s 20, a := .s 16, t := 7, off := 0x3C }),
  (0x710000002020010001C00000, .st { mem with space := 0, a := .s 4, b := .v 2, t := 7 }),
  (0x730100000000000044400000, .stt { mem with space := 1, c := .v 8, b := .idx 0x0, t := 17 }),
  (0x780304030022010001FA8000, .atomAdd { mem with hdr := ⟨false, false, 1⟩, space := 3, d := .v 6, a := .v 4, b := .s 2, t := 7, ord := 3, scope := 5, wide := true }),
  (0x7A0300050010020029FA0000, .acas { mem with space := 3, d := .v 10, a := .v 2, c := .v 5, b := .v 4, t := 7, ord := 3, scope := 5 }),
  (0x7C03040300120B602E7A8000, .swadd { mem with hdr := ⟨false, false, 1⟩, space := 3, d := .v 6, a := .v 2, c := .imm 5, b := .s 22, t := 25, ord := 3, scope := 5, wide := true }),
  (0xA00000002000000000000000, .lset { ri with d := .idx 0, a := .s 0 }),
  (0xA70000000028000004400001, .lchk { ri with a := .idx 5, t := 17, xf := 1 }),
  (0xAA000001E918000000000000, .hbind { ri with d := .idx 3, a := .imm 291 }),
  (0xB0050108A000100800140000, .cpy { cpe with stg := true, sts := true, dside := ⟨1, 1, 1⟩, sside := ⟨1, 0, 0⟩, p0 := .imm 0, p1 := .imm 0, p2 := .s 5 }),
  (0xC00000000000200231000000, .mma { mat with ta := 17, tb := 17, x := ⟨0, 0, 0⟩, y := ⟨0, 0, 1⟩ })]

theorem test_decode_spec : specWords.all (fun p => decide (instrOf p.1 = some p.2)) = true := by decide +kernel

/-! ### Single steps -/

/-- The package with a word at hand, and its group as `f` makes it. -/
def ready (i : Instr) (f : Group → Group) : State := (State.reset.placeWord ((encode i).getD 0)).modGroup 0 0 f

/-- V registers 2 to 4 of every lane hold `a`, `b` and `c`. -/
def abc (a b c : Nat → Word) (G : Group) : Group :=
  { G with lanes := laneList.map (fun l => { G.lane l with v := [(2, a l), (3, b l), (4, c l)] }) }

/-- The group after an instruction. -/
def after (i : Instr) (s : State) : Option Group := match exec i s with | .next t => t.group? 0 0 | _ => none

/-- What V1 of lane `l` comes to by a word with operands V2, V3 and V4. -/
def v1At (i : Instr) (a b c : Nat → Word) (l : Nat) : Option Word := (after i (ready i (abc a b c))).map (fun H => H.vreg 1 l)

/-- The same with one value for all lanes. -/
def v1 (i : Instr) (a b c : Word) : Option Word := v1At i (fun _ => a) (fun _ => b) (fun _ => c) 0

/-- D V1, A V2, B V3, C V4. -/
def r2 (t : BitVec 5) : RIWord := { ri with d := .v 1, a := .v 2, b := .v 3, t := t }
def r1 (t : BitVec 5) : RIWord := { ri with d := .v 1, a := .v 2, t := t }
def r3 (t : BitVec 5) : RIWord := { ri with d := .v 1, a := .v 2, b := .v 3, c := .v 4, t := t }

/-- Borders of the integer instructions (ch. 24, "Borders"). -/
theorem test_integer_borders :
    v1 (.iadd (r2 1)) 100 100 0 = some 0xFFFFFFC8 ∧ v1 (.iadd { r2 1 with sat := true }) 100 100 0 = some 0x7F ∧ v1 (.isub { r2 6 with sat := true }) 3 5 0 = some 0 ∧
    v1 (.imul { r2 3 with xf := 1 }) 0x80000000 2 0 = some 0xFFFFFFFF ∧ v1 (.imul { r2 7 with xf := 1 }) 0x80000000 2 0 = some 1 ∧ v1 (.iabs (r1 3)) 0x80000000 0 0 = some 0x80000000 ∧
    v1 (.iabs { r1 3 with sat := true }) 0x80000000 0 0 = some 0x7FFFFFFF ∧ v1 (.icmp { r2 3 with var := 2 }) 0xFFFFFFFF 1 0 = some 1 ∧ v1 (.icmp { r2 7 with var := 2 }) 0xFFFFFFFF 1 0 = some 0 := by decide +kernel

/-- CVT at the borders (R471). -/
theorem test_cvt_borders :
    v1 (.cvt { r1 0x12 with t2 := 0x10, rm := 1 }) 0x3F818000 0 0 = some 0x3F81 ∧ v1 (.cvt { r1 1 with t2 := 0x10 }) 0x4396599A 0 0 = some 127 ∧ v1 (.cvt { r1 5 with t2 := 3 }) 300 0 0 = some 44 ∧
    v1 (.cvt { r1 5 with t2 := 3, sat := true }) 300 0 0 = some 255 ∧ v1 (.cvt { r1 0x13 with t2 := 0x10 }) 0x43FA0000 0 0 = some 0x7F ∧ v1 (.cvt { r1 0x13 with t2 := 0x10, sat := true }) 0x43FA0000 0 0 = some 0x7E ∧
    v1 (.cvt { r1 0x18 with t2 := 0x10 }) 0x3F000000 0 0 = some 0 ∧ v1 (.cvt { r1 0x18 with t2 := 0x10 }) 0xBF19999A 0 0 = some 3 ∧ v1 (.cvt { r1 0x17 with t2 := 0x10 }) 0x40400000 0 0 = some 0x80 := by decide +kernel

/-- Lanes 0 to 3 execute. -/
def four (a : Nat → Word) (G : Group) : Group := { abc a (fun _ => 0) (fun _ => 0) G with run := some { Run.start with act := 0xF } }

/-- PRFX.ADD.F32 of 1 and three times 2^-24 (R540); MATCH of four addresses (R517). -/
theorem test_prfx_match :
    (after (.prfx (r1 0x10)) (ready (.prfx (r1 0x10)) (four (fun l => if l = 0 then 0x3F800000 else 0x33800000)))).map (fun H => (upFrom 0 4).map (H.vreg 1)) =
      some [0x3F800000, 0x3F800000, 0x3F800001, 0x3F800001] ∧
    (after (.matchLanes (r1 7)) (ready (.matchLanes (r1 7)) (four (fun l => nth 0 [0x100, 0x104, 0x100, 0x108] l)))).map (fun H => (upFrom 0 4).map (H.vreg 1)) = some [5, 2, 5, 8] ∧
    (after (.matchLanes { r1 7 with var := 1 }) (ready (.matchLanes { r1 7 with var := 1 }) (four (fun l => nth 0 [0x100, 0x104, 0x100, 0x108] l)))).map (fun H => (upFrom 0 4).map (H.vreg 1)) = some [0, 0, 0, 0] := by decide +kernel

/-- FADD of opposite numbers under RNE and under RDN, of −0 and +0, and of NaN; FMIN of −0 and +0; FMUL under RTZ (R145, R148, R149). -/
theorem test_float_corners :
    v1 (.fadd (r2 0x10)) 0x3F800000 0xBF800000 0 = some 0 ∧ v1 (.fadd { r2 0x10 with rm := 3 }) 0x3F800000 0xBF800000 0 = some 0x80000000 ∧ v1 (.fadd (r2 0x10)) 0x80000000 0x80000000 0 = some 0x80000000 ∧
    v1 (.fadd (r2 0x10)) 0x7F800001 0 0 = some 0x7FC00000 ∧ v1 (.fmin (r2 0x10)) 0 0x80000000 0 = some 0x80000000 ∧ v1 (.fmax (r2 0x10)) 0x7FC00000 5 0 = some 5 ∧
    v1 (.fmul { r2 0x10 with rm := 1 }) 0x3F800001 0x3F800001 0 = some 0x3F800002 ∧ v1 (.fma (r3 0x10)) 0x40800000 0x3ED80000 0x40000000 = some 0x406C0000 := by decide +kernel

/-- SHFL.XOR by 8, VOTE.BALLOT of P0, REDX.ADD of the lane numbers, SEL by lane, BFE, BFI, SHR.a, POPC, CLZ. -/
theorem test_lane_words :
    v1At (.shfl { r1 3 with var := 3, b := .imm 8 }) (fun l => BitVec.ofNat 32 l) (fun _ => 0) (fun _ => 0) 3 = some 11 ∧ v1 (.vote { ri with d := .v 1, a := .idx 0, var := 2 }) 0 0 0 = some 0xFFFF ∧
    v1At (.redx (r1 3)) (fun l => BitVec.ofNat 32 l) (fun _ => 0) (fun _ => 0) 9 = some 120 ∧ v1 (.sel { r2 3 with hdr := ⟨false, false, 8⟩ }) 1 2 0 = some 2 ∧ v1 (.bfe { r2 3 with c := .imm 4 }) 0xF0 4 0 = some 0xFFFFFFFF ∧
    v1 (.bfi { r2 7 with c := .v 4 }) 0 0xF 0x804 = some 0xF0 ∧ v1 (.shrA { r2 3 with var := 1 }) 0x80000000 40 0 = some 0xFFFFFFFF ∧ v1 (.popc (r1 7)) 0xF0F 0 0 = some 8 ∧ v1 (.clz (r1 7)) 1 0 0 = some 31 := by decide +kernel

/-- ICMP writes P2 of the lanes where the relation holds; PLOP 0x88 is the conjunction (R534); MOV of an S source to S; MSKOP.rd. -/
theorem test_predicates_and_moves :
    (after (.icmp { ri with var := 2, a := .v 2, b := .imm 7, t := 3, xf := 10 }) (ready (.icmp { ri with var := 2, a := .v 2, b := .imm 7, t := 3, xf := 10 }) (abc (fun l => BitVec.ofNat 32 l) (fun _ => 0) (fun _ => 0)))).map
      (fun H => (H.preg 2 6, H.preg 2 7)) = some (true, false) ∧
    (after (.plop { ri with a := .idx 0, b := .idx 1, c := .idx 0, xf := 0x388 }) (ready (.plop { ri with a := .idx 0, b := .idx 1, c := .idx 0, xf := 0x388 }) id)).map (fun H => H.preg 3 0) = some false ∧
    (after (.mov { ri with d := .s 4, a := .s 6, t := 8 }) (ready (.mov { ri with d := .s 4, a := .s 6, t := 8 }) (fun G => { G with s := [(6, 5), (7, 9)] }))).map (fun H => (H.sreg 4, H.sreg 5)) = some (5, 9) ∧
    (after (.mskopRd { ri with var := 5, d := .s 1, a := .idx 3 }) (ready (.mskopRd { ri with var := 5, d := .s 1, a := .idx 3 }) (fun G => { G with m := [(3, 0xFF)] }))).map (fun H => H.sreg 1) = some 0xFF := by decide +kernel

/-- The mask example of R504: M3 holds 0x00FF, lanes 0 to 5 held at WAIT M3; becoming 0x003F releases them; becoming 0x000F releases lanes 0 to 3 alone. -/
theorem test_mask_release :
    let G := Group.modLanes ({ (startGroup (wordLaunch 0) 0 0 0 0 0) with m := [(3, 0xFF)] }) 0x3F (fun _ L => { L with hold := .wait 3 })
    ((G.write (.m 3 0x3F)).m, ((G.write (.m 3 0x3F)).lane 5).hold) = ([], .runnable) ∧
    (((G.write (.m 3 0x0F)).lane 3).hold, ((G.write (.m 3 0x0F)).lane 4).hold) = (.runnable, .wait 3) := by decide +kernel

/-- The layout of ch. 26's tile: 16 columns of step 1 and 16 rows of step 64, of 16-bit elements in team space; `tile1` its transposed walk with a bank-permuting function. -/
def tile0 : LayBits := BitVec.ofNat 1024 (16 ||| (1 <<< 32) ||| (16 <<< 64) ||| (64 <<< 96) ||| ((2 + 0x30 + 0x4000 + 0x20000000) <<< 704))
def tile1 (swz : Word) : LayBits := match lswzOf tile0 swz with | .inr y => (match ltransOf y 1 with | .inr z => z | .inl _ => 0) | .inl _ => 0

/-- LST or BCD after a check of L1. -/
def checked (i : Instr) (y : LayBits) : Option (Word × Word) := (after i (ready i (fun G => { G with l := [(1, y)] }))).map (fun H => (H.settled.lst, H.settled.bcd))

/-- LCHK and LBCD of the tile as the manual works them out (ch. 26, R506, R508). -/
theorem test_layout_checks :
    (checked (.lchk { ri with a := .idx 1, t := 0x11, xf := 4 }) (tile1 0)).map (·.1) = some 0x0411 ∧ (checked (.lchk { ri with a := .idx 1, t := 0x11, xf := 1 }) (tile1 0)).map (·.1) = some 0x0405 ∧
    (checked (.lchk { ri with a := .idx 1, t := 0x11, xf := 3 }) tile0).map (·.1) = some 0x020D ∧ (checked (.lbcd { ri with a := .idx 1, t := 0x11 }) (tile1 0)).map (·.2) = some 4 ∧
    (checked (.lbcd { ri with a := .idx 1, t := 0x11 }) (tile1 0x91A)).map (·.2) = some 1 := by decide +kernel

/-- The state after a step that goes on. -/
def then_ (i : Instr) (s : State) : Option State := match exec i s with | .next t => some t | _ => none

/-- Lane 0 alone executes; V2 holds an address, V3 and V4 data. -/
def lone (a b c : Word) (G : Group) : Group := { abc (fun _ => a) (fun _ => b) (fun _ => c) G with run := some { Run.start with act := 1 } }

/-- The state with the page of the word in the TLB of core 0. -/
def withTlb (s : State) : State := s.modCore 0 (fun k => { k with tlb := [{ asn := 0, page := 1, pages := 1, leaf := tableWord 4 0x31E, writeOk := true, marks := 0 }] })

/-- A byte of the team's scratchpad region. -/
def teamAt (off : Nat) : PAddr := { store := .scratch, unit := 0, off := off }

/-- ST.team stores little-endian; a store beyond the region takes 0x14 and a misaligned one 0x16, which kill the team without a handler; ST.glb waits in the store queue, and parks where the TLB does not hold the page (R205, R209, R231, R267, R544). -/
theorem test_stores :
    (then_ (.st { mem with space := 1, a := .v 2, b := .v 3, t := 7 }) (ready (.st { mem with space := 1, a := .v 2, b := .v 3, t := 7 }) (lone 0x108 0x11223344 0))).map
      (fun t => (t.mem.byte (teamAt 0x108), t.mem.byte (teamAt 0x10B), t.mem.byte (teamAt 0x10C))) = some (0x44, 0x11, 0) ∧
    ((then_ (.st { mem with space := 1, a := .v 2, b := .v 3, t := 7 }) (ready (.st { mem with space := 1, a := .v 2, b := .v 3, t := 7 }) (lone 0x10000 1 0))).bind (fun t => (t.team? 0).map (·.phase))) = some (.killed 0x14 false) ∧
    ((then_ (.st { mem with space := 1, a := .v 2, b := .v 3, t := 7 }) (ready (.st { mem with space := 1, a := .v 2, b := .v 3, t := 7 }) (lone 0x102 1 0))).bind (fun t => (t.team? 0).map (·.phase))) = some (.killed 0x16 false) ∧
    (then_ (.st { mem with a := .v 2, b := .v 3, t := 2 }) (withTlb (ready (.st { mem with a := .v 2, b := .v 3, t := 2 }) (lone 0x10100 0x1234 0)))).map (fun t => (t.core 0).sq.map (fun e => e.bytes.map (·.2))) = some [[0x34, 0x12]] ∧
    (after (.st { mem with a := .v 2, b := .v 3, t := 2 }) (ready (.st { mem with a := .v 2, b := .v 3, t := 2 }) (lone 0x10100 0x1234 0))).map (fun H => H.parks.length) = some 1 := by decide +kernel

/-- A state whose scratchpad holds a word at 0x108. -/
def holding (i : Instr) (f : Group → Group) (v : Nat) : State := let s := ready i f; { s with mem := s.mem.store (numBytes (teamAt 0x108) 8 v) }

/-- LD of a signed byte and of a pair; ACAS that succeeds and one that fails; ATOM.ADD (R140, R444, R511). -/
theorem test_loads_and_atomics :
    (after (.ld { mem with space := 1, d := .v 1, a := .v 2, t := 1 }) (holding (.ld { mem with space := 1, d := .v 1, a := .v 2, t := 1 }) (lone 0x108 0 0) 0x80)).map (fun H => H.vreg 1 0) = some 0xFFFFFF80 ∧
    (after (.ld { mem with space := 1, d := .v 6, a := .v 2, t := 8 }) (holding (.ld { mem with space := 1, d := .v 6, a := .v 2, t := 8 }) (lone 0x108 0 0) 0x1122334455667788)).map (fun H => (H.vreg 6 0, H.vreg 7 0)) = some (0x55667788, 0x11223344) ∧
    (then_ (.acas { mem with space := 1, d := .v 1, a := .v 2, b := .v 3, c := .v 4, t := 7 }) (holding (.acas { mem with space := 1, d := .v 1, a := .v 2, b := .v 3, c := .v 4, t := 7 }) (lone 0x108 5 9) 5)).map (fun t => t.mem.num (teamAt 0x108) 4) = some 9 ∧
    (then_ (.acas { mem with space := 1, d := .v 1, a := .v 2, b := .v 3, c := .v 4, t := 7 }) (holding (.acas { mem with space := 1, d := .v 1, a := .v 2, b := .v 3, c := .v 4, t := 7 }) (lone 0x108 6 9) 5)).map (fun t => t.mem.num (teamAt 0x108) 4) = some 5 ∧
    (then_ (.atomAdd { mem with space := 1, d := .v 1, a := .v 2, b := .v 3, t := 7 }) (holding (.atomAdd { mem with space := 1, d := .v 1, a := .v 2, b := .v 3, t := 7 }) (lone 0x108 0xFFFFFFFF 0) 5)).map (fun t => t.mem.num (teamAt 0x108) 4) = some 4 := by decide +kernel

/-- The factor table of the example of R563: factor 0.75, and its powers of two. -/
def F5 (_ j : Nat) : Nat := nth 0 [0x3F400000, 0x3F100000, 0x3EA20000] j

/-- The life of the two words of ch. 28: SWADDs at steps 0 and 3, reads at step 5, the folds at 8192. -/
theorem test_stamped_life :
    (atomWord .swadd 0x19 F5 0 0 0x40800000 5).new = some 0x0105000040800000 ∧ (atomWord .swadd 0x19 F5 3 0x0105000040800000 0x40000000 5).new = some 0x01050003406C0000 ∧
    (stampedOf 0x01050003406C0000).decayed F5 5 = 0x4004C000 ∧ (stampedOf 0x010500003F800000).decayed F5 5 = 0x3E730000 ∧ (stampedOf 0x010500003F800000).stale 32768 = true ∧ (stampedOf 0x010500003F800000).stale 32767 = false := by decide +kernel

/-- The block sum of the example of R159. -/
theorem test_block_sum :
    let h (k : Int) : FVal := .fin false 1 k
    rne32 (blockSum ([fmulExact (h 0) (h 0), fmulExact (h (-12)) (h (-12)), fmulExact (h (-12)) (h (-12)), fmulExact (h (-20)) (h (-25))] ++ List.replicate 12 (.fin false 0 0))) = 0x3F800001 := by decide +kernel
/-! ### Statements have something to speak of

Each case is an instruction, a state, and what its statement supposes of them beside the issue, with what the step then gives; `meets_X` says that the cases of `Obligations.X` meet its hypotheses. -/

theorem groupCtx_who {t g : Nat} {i : Instr} {s s' : State} {x : Ctx} (h : groupCtx t g i s = some (x, s')) : x.t = t ∧ x.g = g ∧ x.i = i := by
  unfold groupCtx at h
  split at h
  · cases h
  · split at h
    · cases h
    · split at h
      · simp at h; obtain ⟨rfl, rfl⟩ := h; exact ⟨rfl, rfl, rfl⟩
      · cases h

/-- An instruction that a group issues, a state, and what holds of what it issues with and of the next state. -/
structure Case where
  i : Instr
  s : State
  p : Ctx → State → State → Bool := fun _ _ _ => true

/-- The group whose turn it is issues the instruction of the case, the step goes on, and the case's condition holds. -/
def Case.ok (y : Case) : Bool :=
  match y.s.ctl.actor, exec y.i y.s with
  | some (.group t g), .next u =>
    match groupCtx t g y.i y.s with
    | some (x, s') => (x.turned s').isNone && y.p x s' u
    | none => false
  | _, _ => false

def Case.Meets (y : Case) : Prop := ∃ x s1 u, GroupIssues y.i y.s x s1 ∧ exec y.i y.s = .next u ∧ y.p x s1 u = true

theorem Case.meets {y : Case} (h : y.ok = true) : y.Meets := by
  unfold Case.ok at h
  split at h
  · rename_i t g u ha he
    split at h
    · rename_i x s' hc
      simp only [Bool.and_eq_true, Option.isNone_iff_eq_none] at h
      obtain ⟨h1, h2, -⟩ := groupCtx_who hc
      exact ⟨x, s', u, ⟨by rw [ha, h1, h2], by rw [h1, h2]; exact hc, h.1⟩, he, h.2⟩
    · cases h
  · cases h

theorem all_meet {l : List Case} (h : l.all Case.ok = true) : ∀ y ∈ l, y.Meets := fun y m => Case.meets (List.all_eq_true.mp h y m)

/-- The same for a sequencer. -/
structure SCase where
  i : Instr
  s : State
  p : SeqCtx → State → Bool := fun _ _ => true

def SCase.ok (y : SCase) : Bool :=
  match y.s.ctl.actor, exec y.i y.s with
  | some (.seq t j), .next u =>
    match seqCtx t j y.i y.s with
    | some x => (seqCheck (formOf y.i) y.i).isNone && x.t == t && x.j == j && y.p x u
    | none => false
  | _, _ => false

def SCase.Meets (y : SCase) : Prop := ∃ x u, SeqIssues y.i y.s x ∧ exec y.i y.s = .next u ∧ y.p x u = true

theorem SCase.meets {y : SCase} (h : y.ok = true) : y.Meets := by
  unfold SCase.ok at h
  split at h
  · rename_i t j u ha he
    split at h
    · rename_i x hc
      simp only [Bool.and_eq_true, Option.isNone_iff_eq_none, beq_iff_eq] at h
      obtain ⟨⟨⟨h1, rfl⟩, rfl⟩, h2⟩ := h
      exact ⟨x, u, ⟨ha, hc, h1⟩, he, h2⟩
    · cases h
  · cases h

theorem all_smeet {l : List SCase} (h : l.all SCase.ok = true) : ∀ y ∈ l, y.Meets := fun y m => SCase.meets (List.all_eq_true.mp h y m)

/-- The same for a slice thread. -/
structure TCase where
  i : Instr
  s : State
  p : ThCtx → State → Bool := fun _ _ => true

def TCase.ok (y : TCase) : Bool :=
  match y.s.ctl.actor, exec y.i y.s with
  | some (.thread a b), .next u =>
    match y.s.thread? a b with
    | some th => th.slice == a && th.num == b && (threadCheck (formOf y.i) y.i).isNone && y.p { th := th, i := y.i, env := threadEnv y.s th } u
    | none => false
  | _, _ => false

def TCase.Meets (y : TCase) : Prop := ∃ x u, ThreadIssues y.i y.s x ∧ exec y.i y.s = .next u ∧ y.p x u = true

theorem TCase.meets {y : TCase} (h : y.ok = true) : y.Meets := by
  unfold TCase.ok at h
  split at h
  · rename_i a b u ha he
    split at h
    · rename_i th hc
      simp only [Bool.and_eq_true, Option.isNone_iff_eq_none, beq_iff_eq] at h
      obtain ⟨⟨⟨rfl, rfl⟩, h1⟩, h2⟩ := h
      exact ⟨_, u, ⟨ha, hc, rfl, h1⟩, he, h2⟩
    · cases h
  · cases h

theorem all_tmeet {l : List TCase} (h : l.all TCase.ok = true) : ∀ y ∈ l, y.Meets := fun y m => TCase.meets (List.all_eq_true.mp h y m)

/-- The package with a word at hand, as `f` makes it, whose sequencer has its turn. -/
def readyS (i : Instr) (f : Share → Share) : State :=
  let s := (State.reset.placeWord ((encode i).getD 0)).modShare 0 0 (fun sh => f { sh with seq := { sh.seq with st := .running, pc := wordPc } })
  s.modCtl (fun c => { c with actor := some (.seq 0 0) })

/-- The package with a word at hand and a slice thread whose turn it is. -/
def readyT (i : Instr) (f : Thread → Thread) : State :=
  let s := (State.reset.placeWord ((encode i).getD 0)).modCtl (fun c => { c with actor := some (.thread 0 0) })
  { s with threads := [f wordThread] }

/-- A case of the placed group as `f` makes it; of the sequencer; of the slice thread. -/
def at_ (i : Instr) (f : Group → Group) (p : Ctx → State → State → Bool) : Case := { i := i, s := ready i f, p := p }
def atS (i : Instr) (f : Share → Share) (p : SeqCtx → State → Bool) : SCase := { i := i, s := readyS i f, p := p }
def atT (i : Instr) (f : Thread → Thread) (p : ThCtx → State → Bool) : TCase := { i := i, s := readyT i f, p := p }

/-- A state with its clock at 0: what a step takes is open (log 3). -/
def still (s : State) : State := { s with pkg := { s.pkg with time := 0 } }

/-- What the conclusions of the statements say of the next state, but for the clock. -/
def did (x : Ctx) (s1 s2 : State) (e : Eff) (u : State) : Bool := decide (still u = still (x.finish s1 e s2).tick)
def trapped (x : Ctx) (s1 : State) (c : Trap) (u : State) : Bool := decide (still u = still (trapHere x s1 c).tick)
def strapped (s : State) (c : Byte) (u : State) : Bool := decide (still u = still (s.seqTrap 0 0 c).tick)
def tfailed (s : State) (c : Byte) (u : State) : Bool := decide (still u = still (s.failThread 0 0 c).tick)

/-- Words that a group of the placed team issues, with the group as it stands. -/
def groupWords : List Instr :=
  ((controlWords ++ integerWords ++ floatWords ++ lanesWords ++ memoryWords ++ syncWords ++ layoutWords ++ copiesWords ++ tasksWords).map (·.2)).filter (fun i => groupOp .copy (formOf i).op || groupOp .vector (formOf i).op)

/-- Every group word issues somewhere, with nothing on its way to any register; this meets the hypotheses of the statements about a word's result (R441). -/
theorem meets_results : ∀ y ∈ groupWords.map (fun i => at_ i id (fun x _ _ => x.run.pend.isEmpty)), y.Meets := all_meet (by decide +kernel)

/-- Every sequencer word issues somewhere (R438). -/
theorem meets_stream : ∀ y ∈ ((matrixWords ++ syncWords ++ layoutWords).map (·.2)).filterMap (fun i => if (seqCheck (formOf i) i).isNone then some (atS i id (fun _ _ => true)) else none), y.Meets := all_smeet (by decide +kernel)

/-- Every slice-thread word issues somewhere (R358). -/
theorem meets_thread : ∀ y ∈ ((controlWords ++ integerWords ++ floatWords ++ lanesWords ++ memoryWords ++ tasksWords).map (·.2)).filterMap (fun i => if (threadCheck (formOf i) i).isNone then some (atT i id (fun _ _ => true)) else none), y.Meets := all_tmeet (by decide +kernel)

/-- FloatZeroSums: opposite numbers, two zeros of each sign, zeros of different sign; lane 0 of the operands. -/
def zeroSumCase (a b : Word) : Case :=
  at_ (.fadd (r2 0x10)) (abc (fun _ => a) (fun _ => b) (fun _ => 0)) (fun x _ _ => isFloatT 0x10 && fsrcA (r2 0x10) x.env 0 == a.toNat && fsrcB (r2 0x10) x.env 0 == b.toNat)

theorem meets_FloatZeroSums : ∀ y ∈ [zeroSumCase 1 0x80000001, zeroSumCase 0xFF7FFFFF 0x7F7FFFFF, zeroSumCase 0 0, zeroSumCase 0x80000000 0x80000000, zeroSumCase 0 0x80000000], y.Meets := all_meet (by decide +kernel)

/-- FloatNaNs: a NaN in each place, and the zeros. -/
theorem meets_FloatNaNs : isFloatT 0x10 = true ∧ isNanCode (fmtT 0x10) 0x7F800001 = true ∧ isNanCode (fmtT 0x10) 0xFFFFFFFF = true ∧ isNanCode (fmtT 0x10) 0x7F800000 = false ∧ isNanCode (fmtT 0x12) 0x7F81 = true ∧
    ([(0x7F800001, 0), (0, 0x7F800001), (0x7F800001, 0xFFFFFFFF), (0x80000000, 0), (0, 0x80000000)] : List (Word × Word)).all (fun y => (zeroSumCase y.1 y.2).ok) = true := by decide +kernel

/-- RoundingKeepsCodes: the greatest finite code, and infinity. -/
theorem meets_RoundingKeepsCodes : isFloatT 0x10 = true ∧ (0x7F7FFFFF < 2 ^ (fmtT 0x10).width ∧ isNanCode (fmtT 0x10) 0x7F7FFFFF = false) ∧ 0x7F800000 < 2 ^ (fmtT 0x10).width ∧ isNanCode (fmtT 0x10) 0x7F800000 = false := by decide +kernel

/-- PredicateResults: with PW and without, in a group with nothing on its way to the predicate, and in a slice thread. -/
def predWords : List Instr := [.icmp { ri with a := .v 2, b := .v 3, t := 3, xf := 15 }, .icmp (r2 3), .fcmp { ri with a := .v 2, b := .v 3, t := 0x10, xf := 8 }, .fcmp (r2 0x10), .plop { ri with a := .idx 7, b := .idx 0, c := .idx 1, xf := 0x7FF }]

theorem meets_PredicateResults : (∀ y ∈ predWords.map (fun i => at_ i id (fun x _ _ => x.run.pend.isEmpty)), y.Meets) ∧ ∀ y ∈ predWords.map (fun i => atT i id (fun _ _ => true)), y.Meets :=
  ⟨all_meet (by decide +kernel), all_tmeet (by decide +kernel)⟩

/-- Is a set of TRNX due four cycles after the issue? -/
def trnxDueIn (x : Ctx) (u : State) : Bool := (u.group? 0 0).bind (fun H => H.run.map (fun r => r.pend.any (fun p => p.w == .trnx && p.due == x.run.clk + 4))) == some true

/-- Conversions: PACK of the highest slots; the reserved ternary code in every lane of CVT, in A of PACK, in the base of PACK beside the slots written, and in slot 3 of UNPK. -/
def cvtCases : List Case := [at_ (.pack { r3 0x15 with xf := 3 }) id (fun x _ _ => x.i.wf),
  at_ (.pack { r3 0x18 with xf := 0 }) (abc (fun _ => 2) (fun _ => 0) (fun _ => 0)) (fun x _ u => x.ex == 0xFFFF && trnxDueIn x u),
  at_ (.pack { r3 0x18 with xf := 0 }) (abc (fun _ => 1) (fun _ => 0) (fun _ => 0x80)) (fun x _ u => x.ex == 0xFFFF && trnxDueIn x u),
  at_ (.unpk { r1 0x18 with xf := 3 }) (abc (fun _ => 0x80) (fun _ => 0) (fun _ => 0)) (fun x _ u => x.ex == 0xFFFF && trnxDueIn x u),
  at_ (.cvt { r1 3 with t2 := 0x18 }) (abc (fun _ => 6) (fun _ => 0) (fun _ => 0)) (fun x _ u => x.ex == 0xFFFF && (x.env.src (.v 2) 15).toNat % 4 == 2 && trnxDueIn x u)]

theorem meets_Conversions : ∀ y ∈ cvtCases, y.Meets := all_meet (by decide +kernel)

/-- CrossLane and Reductions: each form, with lanes 0 to 3 executing. -/
def crossWords : List Instr := [.shfl { r1 3 with b := .imm 15 }, .shfl { r1 3 with var := 1, b := .imm 1 }, .shfl { r1 3 with var := 2, b := .imm 31 }, .vote { ri with d := .v 1, a := .idx 7, xf := 1 }, .vote { ri with var := 1, d := .v 1, a := .idx 7 },
  .vote { ri with var := 3, d := .v 1, a := .idx 7 }, .matchLanes (r1 7), .matchLanes { r1 7 with var := 1 }] ++ (upFrom 0 6).map (fun k => .redx { r1 3 with var := BitVec.ofNat 7 k }) ++ (upFrom 0 3).map (fun k => .redx { r1 0x10 with var := BitVec.ofNat 7 k }) ++
  (upFrom 0 4).map (fun k => .prfx { r1 3 with var := BitVec.ofNat 7 k }) ++ (upFrom 0 4).map (fun k => .prfx { r1 0x10 with var := BitVec.ofNat 7 k })

theorem meets_CrossLane_Reductions : ∀ y ∈ crossWords.map (fun i => at_ i (four (fun l => BitVec.ofNat 32 (l / 2))) (fun x _ _ => x.ex == 0xF && x.run.pend.isEmpty)), y.Meets := all_meet (by decide +kernel)

/-- Lanes 0 to 7 have P1 set. -/
def half (G : Group) : Group := G.modLanes 0xFF (fun _ L => { L with p := 2 })

/-- The PCs of two lanes, and whether the run goes on, after a step. -/
def pcs (u : State) (a b : Nat) : Option (DWord × DWord × Bool) := (u.group? 0 0).map (fun H => ((H.lane a).pc, (H.lane b).pc, H.run.isSome))

/-- The targets that the group is still to test. -/
def later (u : State) : Option (List DWord) := (u.group? 0 0).map (·.untested)

/-- The page after that of the word is not resident. -/
def absentPage (s : State) : State := { s with mem := s.mem.store (numBytes { store := .sram, unit := 0, off := 65536 * 3 + 16 } 8 (1 + 2 + 4 + 8 + 16 + 256 + 512)) }

/-- Branches: a target on a page that is not resident, to be tested later; no lane takes it; all do; half do; a target that is no slot; calls; per-lane targets. -/
def branchCases : List Case := [
  { i := .bra { ri with isImm := true, imm := 0x10000 }, s := absentPage (ready (.bra { ri with isImm := true, imm := 0x10000 }) id),
    p := fun x s1 u => !x.lead s1 && s1.targetFar x.c x.T.asn (x.pc + 0x10000) && !s1.targetBad x.c x.T.asn (x.pc + 0x10000) && pcs u 0 15 == some (wordPc + 0x10000, wordPc + 0x10000, false) && later u == some [wordPc + 0x10000] },
  at_ (.bra { ri with hdr := ⟨false, false, 8⟩, isImm := true, imm := 12 }) id (fun x s1 u => !x.lead s1 && did x s1 s1 {} u),
  at_ (.bra { ri with isImm := true, imm := 48 }) id (fun x s1 u => !x.lead s1 && pcs u 0 15 == some (wordPc + 48, wordPc + 48, false)),
  at_ (.bra { ri with hdr := ⟨false, false, 1⟩, isImm := true, imm := 24 }) half (fun x s1 u => !x.lead s1 && pcs u 7 8 == some (wordPc + 24, wordPc + 12, false)),
  at_ (.bra { ri with isImm := true, imm := 60 }) id (fun x s1 u => !x.lead s1 && trapped x s1 { cause := 0x03 } u),
  at_ (.call { ri with isImm := true, d := .s 30, imm := 36 }) id (fun x s1 u => !x.lead s1 && x.run.pend.isEmpty && (u.group? 0 0).map (fun H => (H.sreg 30, H.sreg 31)) == some (wordPc.setWidth 32 + 12, 0)),
  at_ (.callReg { ri with d := .v 6, a := .v 2 }) (abc (fun _ => 0x10018) (fun _ => 0) (fun _ => 0)) (fun x s1 u => !x.lead s1 && (u.group? 0 0).map (fun H => (H.vreg 6 9, H.vreg 7 9)) == some (wordPc.setWidth 32 + 12, 0)),
  at_ (.jmp { ri with a := .v 2 }) (abc (fun l => if l < 4 then 0x10018 else 0x10024) (fun _ => 0) (fun _ => 0)) (fun x s1 u => !x.lead s1 && pcs u 3 4 == some (wordPc + 24, wordPc + 36, false)),
  at_ (.ret { ri with a := .v 2 }) (abc (fun l => if l = 15 then 1 else 0x10000) (fun _ => 0) (fun _ => 0)) (fun x s1 u => !x.lead s1 && trapped x s1 { cause := 0x03 } u)]

/-- The four ways of a slice thread's BRA. -/
def branchTCases : List TCase := [
  atT (.bra { ri with isImm := true, imm := 48 }) id (fun _ u => (u.thread? 0 0).map (·.pc) == some (wordPc + 48)),
  atT (.bra { ri with isImm := true, imm := 60 }) id (fun x u => tfailed (readyT x.i id) 0x03 u),
  atT (.bra { ri with hdr := ⟨false, false, 8⟩, isImm := true, imm := 60 }) id (fun _ u => (u.thread? 0 0).map (·.pc) == some (wordPc + 12)),
  atT (.bra { ri with hdr := ⟨false, false, 1⟩, isImm := true, imm := 12 }) (fun th => { th with p := [(1, 0xFF)] }) (fun x u => tfailed (readyT x.i (fun th => { th with p := [(1, 0xFF)] })) 0x02 u)]

theorem meets_Branches : (∀ y ∈ branchCases, y.Meets) ∧ ∀ y ∈ branchTCases, y.Meets := ⟨all_meet (by decide +kernel), all_tmeet (by decide +kernel)⟩

/-- NopDoesNothing: a NOP after which the run goes on, and faulty words of its opcode. -/
def nopCases : List Case := [at_ (.nop false) id (fun x s1 u => did x s1 s1 {} u && !x.cut && !x.cutPair s1 && (u.group? 0 0).map (fun H => H.run.map (·.count)) == some (some 1))]

theorem meets_NopDoesNothing : (∀ y ∈ nopCases, y.Meets) ∧ wordOp (1 : InstrWord) = 0 ∧ instrOf 1 = none ∧ instrOf (1#96 <<< 79) = some (.nop true) := ⟨all_meet (by decide +kernel), by decide +kernel⟩

/-- Exits, TrapInstructions: each instruction, and EXIT of a slice thread. -/
def exitCases : List Case := [
  at_ (.exit ri) (four (fun _ => 0)) (fun x _ u => x.G.allAtBar.isNone && ((u.group? 0 0).map (fun H => ((H.lane 3).hold, (H.lane 4).hold)) == some (.exited, .runnable))),
  at_ (.trap { ri with isImm := true, imm := 0xFFFFFFFF }) id (fun x s1 u => trapped x s1 { cause := 0x08, eaddr := some 0xFFFFFFFF, performed := x.ex } u),
  at_ (.brk { ri with xf := 0xFFF }) id (fun x s1 u => trapped x s1 { cause := 0x09, eaddr := some 0xFFF, performed := x.ex } u)]

theorem meets_Exits_TrapInstructions : (∀ y ∈ exitCases, y.Meets) ∧ ∀ y ∈ [atT (.exit ri) id (fun _ u => u.threads.isEmpty)], y.Meets := ⟨all_meet (by decide +kernel), all_tmeet (by decide +kernel)⟩

/-- MaskRegisters: a new value for M11 by each instruction; the release test's two ways stand in `test_mask_release`, and a release that frees a lane whose bit had been cleared before in `meets_MaskRegisters_earlier`. -/
def maskCases : List Case := ([(.join { ri with a := .idx 11 }, 0xFF0F), (.leave { ri with a := .idx 11 }, 0xFF00), (.mskopMov { ri with a := .idx 11, b := .imm 3 }, 3), (.mskopAnd { ri with var := 1, a := .idx 11, b := .imm (-1) }, 0xFF00),
  (.mskopOr { ri with var := 2, a := .idx 11, b := .imm 3 }, 0xFF03), (.mskopXor { ri with var := 3, a := .idx 11, b := .imm (-1) }, 0xFF), (.mskopAndn { ri with var := 4, a := .idx 11, b := .imm (-256) }, 0)] : List (Instr × Half)).map
    (fun y => at_ y.1 (fun G => { four (fun _ => 0) G with m := [(11, 0xFF00)] }) (fun x _ u => x.ex == 0xF && (u.group? 0 0).map (fun H => H.mreg 11) == some y.2))

theorem meets_MaskRegisters : ∀ y ∈ maskCases, y.Meets := all_meet (by decide +kernel)

theorem meets_MaskRegisters_earlier : (match (ready (.nop false) (fun G => { G.modLanes 0x23 (fun _ L => { L with hold := .wait 3 }) with m := [(3, 7)] })).group? 0 0 with
    | some G => (let H := G.write (.m 3 3); (H.mreg 3, (H.lane 0).hold, (H.lane 5).hold, (H.lane 5).pc) == (0, .runnable, .runnable, nextSlot (G.lane 5).pc))
    | none => false) = true := by decide +kernel

/-- WaitsAndMeetings: lanes held and lanes that go on; targets that are slots and targets that are not. -/
def meetCases : List Case := [
  at_ (.wait { ri with a := .idx 3 }) (fun G => { four (fun _ => 0) G with m := [(3, 0xF3)] }) (fun _ _ u => (u.group? 0 0).map (fun H => ((H.lane 1).hold, (H.lane 2).hold, (H.lane 2).pc)) == some (.wait 3, .runnable, wordPc + 12)),
  at_ (.meet { ri with isImm := true, imm := 48 }) id (fun _ _ u => (u.group? 0 0).map (fun H => (H.lane 15).meet) == some (some (wordPc + 48))),
  at_ (.meet { ri with isImm := true, imm := 60 }) id (fun x s1 u => x.ex != 0 && trapped x s1 { cause := 0x03 } u),
  at_ (.meetReg { ri with a := .v 2 }) (abc (fun l => if l = 0 then 0x10000 else 0x10018) (fun _ => 0) (fun _ => 0)) (fun _ _ u => (u.group? 0 0).map (fun H => ((H.lane 0).meet, (H.lane 1).meet)) == some (some wordPc, some (wordPc + 24))),
  at_ (.meetReg { ri with a := .v 2 }) (abc (fun l => if l = 15 then 1 else 0x1000C) (fun _ => 0) (fun _ => 0)) (fun x s1 u => trapped x s1 { cause := 0x03 } u),
  { i := .meet { ri with isImm := true, imm := 0x10000 }, s := absentPage (ready (.meet { ri with isImm := true, imm := 0x10000 }) id),
    p := fun x s1 u => x.ex != 0 && s1.targetFar x.c x.T.asn (x.pc + 0x10000) && (u.group? 0 0).map (fun H => (H.lane 15).meet) == some (some (wordPc + 0x10000)) && later u == some [wordPc + 0x10000] },
  { i := .meetReg { ri with a := .v 2 }, s := absentPage (ready (.meetReg { ri with a := .v 2 }) (abc (fun l => if l = 0 then 0x10000 else 0x20000) (fun _ => 0) (fun _ => 0))),
    p := fun x s1 u => s1.targetFar x.c x.T.asn 0x20000 && !s1.targetBad x.c x.T.asn 0x10000 && !s1.targetBad x.c x.T.asn 0x20000 && (u.group? 0 0).map (fun H => ((H.lane 0).meet, (H.lane 15).meet)) == some (some 0x10000, some 0x20000) && later u == some [0x20000] },
  at_ (.meetClr { ri with var := 1 }) (fun G => G.modLanes 1 (fun _ L => { L with meet := some wordPc })) (fun _ _ u => (u.group? 0 0).map (fun H => (H.lane 0).meet) == some none)]

theorem meets_WaitsAndMeetings : ∀ y ∈ meetCases, y.Meets := all_meet (by decide +kernel)

/-- A case of the placed package as `g` makes it. -/
def on (i : Instr) (g : State → State) (p : Ctx → State → State → Bool) : Case := { i := i, s := g (ready i id), p := p }

/-- GRAFT: counts above the budget, no bed, a bed without cores, the pinned bed with a target that is a slot and one that is not, one in a page that is not resident, another bed with a group not converged and converged; MIGR: bits above 3, the own rank, another. -/
def graftWord (imm : Word) (vc : BitVec 13) : Instr := .graft { ri with isImm := true, a := .idx 10, imm := imm, xf := vc }
def graftCases : List Case := [
  on (graftWord 24 256) (fun s => s.modTeam 0 (fun T => { T with launch := { T.launch with vbudV := 255 } })) (fun x s1 u => decide ((x.T.launch.budget x.G.role).1 < 256) && trapped x s1 { cause := 0x02 } u),
  on (graftWord 0x10000 12) id (fun x s1 u => (x.T.bedAt (x.pc + 0x10000)).isNone && trapped x s1 { cause := 0x38 } u),
  on (graftWord 24 12) (fun s => s.modTeam 0 (fun T => { T with beds := [(0, { base := wordPc, lines := 1, cores := [] })] })) (fun x s1 u => (x.T.bedAt (x.pc + 24)).isSome && trapped x s1 { cause := 0x38 } u),
  on (graftWord 24 12) id (fun x s1 u => x.sh.pinned == some 0 && did x s1 s1 { goto := (lanesOf x.ex).map (fun l => (l, wordPc + 24)) } u),
  on (graftWord 5 12) id (fun x s1 u => x.sh.pinned == some 0 && trapped x s1 { cause := 0x03 } u),
  on (graftWord 24 12) (fun s => (s.modShare 0 0 (fun sh => { sh with pinned := some 1 })).modGroup 0 0 (fun G => { G.modLanes 0x8000 (fun _ L => { L with pc := wordPc + 12 }) with run := some { Run.start with act := 0x7FFF } }))
    (fun x s1 u => !x.G.converged && trapped x s1 { cause := 0x3A } u),
  on (.graftReg { ri with a := .s 8, c := .idx 10, xf := 12 }) (fun s => (s.modShare 0 0 (fun sh => { sh with pinned := none })).modGroup 0 0 (fun G => { G with s := [(8, 0x10018)] }))
    (fun x _ u => x.G.converged && (u.group? 0 0).map (fun H => (H.parks, H.run)) == some ([.graft 0x10018 12 10 wordPc], none)),
  on (graftWord 0x10000 12) (fun s => absentPage (s.modTeam 0 (fun T => { T with beds := [(0, { base := wordPc, lines := 1200, cores := [0] })] })))
    (fun x s1 u => x.sh.pinned == some 0 && s1.targetFar x.c x.T.asn (x.pc + 0x10000) && !s1.targetBad x.c x.T.asn (x.pc + 0x10000) && pcs u 0 15 == some (wordPc + 0x10000, wordPc + 0x10000, false) && later u == some [wordPc + 0x10000]),
  on (.migr { ri with a := .imm 16 }) id (fun x s1 u => trapped x s1 { cause := 0x02 } u),
  on (.migr { ri with a := .imm 0 }) id (fun _ _ u => (u.group? 0 0).map (fun H => (H.parks, (H.lane 0).pc, H.run)) == some ([.done], wordPc + 12, none)),
  on (.migr { ri with a := .imm 15 }) id (fun _ _ u => (u.group? 0 0).map (fun H => H.parks) == some [.migr 15 wordPc 0xFFFF])]

theorem meets_GraftsAndMigrations : ∀ y ∈ graftCases, y.Meets := all_meet (by decide +kernel)

/-- LayoutInstructions: LSET of zeros, and of a mode without COUNT; LTRANS by a permutation, and by none. -/
def layoutCases : List Case := [
  on (.lset { ri with d := .idx 4, a := .s 64 }) id (fun _ _ u => (u.group? 0 0).map (fun H => H.lreg 4) == some 0),
  on (.lset { ri with d := .idx 4, a := .s 64 }) (fun s => s.modGroup 0 0 (fun G => { G with s := [(64, 5)] })) (fun x s1 u => lsetOf ((upFrom 64 32).map x.env.s) == .inl 0x02 && trapped x s1 { cause := 0x02 } u),
  on (.ltrans { ri with d := .idx 15, a := .idx 1, b := .imm 1 }) (fun s => s.modGroup 0 0 (fun G => { G with l := [(1, tile0)] })) (fun _ _ u => (u.group? 0 0).map (fun H => fldN (H.lreg 15) 32 32) == some 64),
  on (.ltrans { ri with d := .idx 15, a := .idx 1, b := .imm 2 }) (fun s => s.modGroup 0 0 (fun G => { G with l := [(1, tile0)] })) (fun x s1 u => trapped x s1 { cause := 0x02 } u)]

def layoutSCases : List SCase := [
  atS (.lset { ri with d := .idx 3, a := .s 32 }) (fun sh => { sh with seq := { sh.seq with q := [(32, 16), (33, 1), (54, 0x20004011)] } }) (fun _ u => ((u.team? 0).bind (fun T => T.share? 0)).map (fun sh => layWf (spGet 0 sh.seq.l 3)) == some true),
  atS (.ltrans { ri with d := .idx 3, a := .idx 0, b := .imm 1 }) id (fun x u => strapped (readyS x.i id) 0x02 u)]

/-- LayoutFields and LayoutReads: operands at the borders of their clauses. -/
def lgetCases : List Case := [
  on (.lget { ri with d := .s 4, a := .idx 1, b := .imm 24 }) id (fun x s1 u => trapped x s1 { cause := 0x02 } u),
  on (.lget { ri with d := .s 4, a := .idx 1, b := .imm 23 }) (fun s => s.modGroup 0 0 (fun G => { G with l := [(1, tile0)] })) (fun x s1 u => layWf (x.layout s1 1) && (u.group? 0 0).map (fun H => H.sreg 4) == some 256),
  on (.lget { ri with d := .s 4, a := .idx 1, b := .imm 9 }) (fun s => s.modGroup 0 0 (fun G => { G with l := [(1, tile0)] })) (fun _ _ u => (u.group? 0 0).map (fun H => H.sreg 4) == some 64),
  on (.lget { ri with d := .s 4, a := .idx 1, b := .imm 7 }) (fun s => s.modGroup 0 0 (fun G => { G with l := [(1, tile0)] })) (fun x s1 u => decide (layCount (x.layout s1 1) ≤ 7) && (u.group? 0 0).map (fun H => H.sreg 4) == some 0)]

theorem meets_LayoutInstructions : (∀ y ∈ layoutCases, y.Meets) ∧ ∀ y ∈ layoutSCases, y.Meets := ⟨all_meet (by decide +kernel), all_smeet (by decide +kernel)⟩
theorem meets_LayoutReads : ∀ y ∈ lgetCases, y.Meets := all_meet (by decide +kernel)
theorem meets_LayoutFields : (List.replicate 32 (0 : Word)).length = 32 ∧ fldN (0x2000 : Word) 13 19 ≠ 0 ∧ fldN (0x1FFF : Word) 13 19 = 0 := by decide +kernel

/-- AccessChecks: each cause of R205, in the lanes that fail. -/
def checkCase (i : Instr) (c : Byte) (names : Lanes) (f : State → State) : Case :=
  on i f (fun x s1 u => match i with
    | .ld w => decide (still u = still (trapHere x s1.bumpStamp (elemTrap c ((loadAccess w x s1.bumpStamp 0).elems.filter (fun e => inMask names e.lane)))).tick)
    | _ => false)
def addrs (a : Nat → Word) (hi : Word) (s : State) : State := s.modGroup 0 0 (fun G => { abc a (fun _ => hi) (fun _ => 0) G with s := [] })
def checkCases : List Case := [
  checkCase (.ld { mem with space := 1, d := .v 1, a := .v 2, t := 7 }) 0x16 0xFFFE (addrs (fun l => if l = 0 then 0 else 2) 0), checkCase (.ld { mem with space := 0, d := .v 1, a := .v 2, t := 7 }) 0x13 0xFFFF (addrs (fun _ => 0) 0),
  checkCase (.ld { mem with space := 1, d := .v 1, a := .v 2, t := 7 }) 0x14 0x8000 (addrs (fun l => if l = 15 then 65536 else 65532) 0), checkCase (.ld { mem with d := .v 1, a := .v 2, t := 7, wide := true }) 0x10 0xFFFF (addrs (fun _ => 0) 0x100000),
  checkCase (.ld { mem with space := 2, d := .v 1, a := .v 2, t := 7 }) 0x10 1 (addrs (fun l => if l = 0 then 0x10000000 else 0) 0), checkCase (.ld { mem with space := 2, d := .v 1, a := .v 2, t := 7 }) 0x15 2 (addrs (fun l => if l = 1 then 0x0F000000 else 0) 0),
  checkCase (.ld { mem with space := 2, d := .v 1, a := .v 2, t := 7 }) 0x14 4 (addrs (fun l => if l = 2 then 65536 else 65532) 0)]

theorem meets_AccessChecks : ∀ y ∈ checkCases, y.Meets := all_meet (by decide +kernel)

/-- The hypotheses of `AccessFree`, as a test; an access to peer space is a load here. -/
def freeB (x : Ctx) (s : State) (a : Access) (ps : List Spot) : Bool :=
  decide (firstFail a.real (spaceChecks x.who a.space) = none) &&
  decide (a.real.map (fun e => (e, s.find x.who a.space (accKind a.instr).need e)) = ps.map (fun p => (p.e, .spot p.bs p.leaf))) &&
  decide (s.markTrap x.who (accKind a.instr) ps = none) && ps.all (fun p => s.reaches (dieOf x.c) p.at_.unit) && !s.sqFull x.c &&
  !s.blocked x.who (accKind a.instr) a.stamp a.promoted ps && !s.slotAbsent x.who a ps && !s.parksFirst x.who (accKind a.instr) a.space a.real ps && !x.G.logBefore a &&
  (accKind a.instr != .atomic || a.space != .peer) && decide (s.mem.poison = [])

theorem freeB_spec {x : Ctx} {s : State} {a : Access} {ps : List Spot} (h : freeB x s a ps = true) : AccessFree x s a ps := by
  simp only [freeB, Bool.and_eq_true, decide_eq_true_eq, Bool.not_eq_true', List.all_eq_true, Bool.or_eq_true, bne_iff_ne] at h
  obtain ⟨⟨⟨⟨⟨⟨⟨⟨⟨⟨h1, h2⟩, h3⟩, h4⟩, h5⟩, h6⟩, h7⟩, h8⟩, h9⟩, h10⟩, h11⟩ := h
  exact ⟨h1, h2, h3, fun _ => h4, fun _ _ _ => h5, h6, fun _ _ => h7, h8, h9, fun a b _ => absurd b (h10.resolve_left (not_not_intro a)), h11⟩

/-- The places of the elements of an access. -/
def found (x : Ctx) (s : State) (a : Access) : List Spot := spotsOf (a.real.map (fun e => (e, s.find x.who a.space (accKind a.instr).need e)))

/-- Private space of 64 bytes a lane, with its lines in L1 of the core. -/
def withPriv (s : State) : State := (s.modTeam 0 (fun T => { T with launch := { T.launch with privb := 64 } })).modCore 0 (fun k => { k with l1 := (upFrom 0 16).map (fun n => { die := 0, line := n, priv := true, dirty := false, data := 0, bad := false }) })

/-- An access of the lone lane that nothing stands in the way of. -/
def freeCase (i : Instr) (acc : Ctx → State → Access) (a : Word) (f : State → State) (p : Ctx → State → State → Bool) : Case :=
  on i (fun s => f (s.modGroup 0 0 (lone a 0x11223344 0))) (fun x s1 u => freeB x s1.bumpStamp (acc x s1.bumpStamp) (found x s1.bumpStamp (acc x s1.bumpStamp)) && p x s1 u)

/-- Loads: from each space; LDV of a region that is not logged; SWLD of a word without SV. -/
def loadCases : List Case := [
  freeCase (.ld { mem with d := .v 1, a := .v 2, t := 7 }) (fun x s => loadAccess { mem with d := .v 1, a := .v 2, t := 7 } x s 0) 0x10008 withTlb (fun x _ u => x.run.pend.isEmpty && (u.group? 0 0).map (fun H => H.vreg 1 0) == some 0x70030000),
  freeCase (.ld { mem with space := 1, d := .v 6, a := .v 2, t := 8 }) (fun x s => loadAccess { mem with space := 1, d := .v 6, a := .v 2, t := 8 } x s 0) 0xFFF8 id (fun _ _ u => (u.group? 0 0).map (fun H => H.vreg 7 0) == some 0),
  freeCase (.ld { mem with space := 2, d := .s 6, a := .s 2, t := 2 }) (fun x s => loadAccess { mem with space := 2, d := .s 6, a := .s 2, t := 2 } x s 0) 0 id (fun _ _ u => (u.group? 0 0).map (fun H => H.sreg 6) == some 0),
  freeCase (.ld { mem with space := 0, d := .v 1, a := .v 2, t := 3 }) (fun x s => loadAccess { mem with space := 0, d := .v 1, a := .v 2, t := 3 } x s 0) 60 withPriv (fun _ _ u => (u.group? 0 0).map (fun H => H.vreg 1 0) == some 0),
  freeCase (.ldv { mem with d := .v 1, a := .v 2, c := .s 6, t := 7 }) (fun x s => loadAccess { mem with d := .v 1, a := .v 2, c := .s 6, t := 7 } x s (x.env.src64 (.s 6) 0)) 0x10000 withTlb (fun x s1 _ => !s1.bumpStamp.versionFollows 0 (found x s1.bumpStamp (loadAccess { mem with d := .v 1, a := .v 2, c := .s 6, t := 7 } x s1.bumpStamp 0))),
  freeCase (.swld { mem with space := 1, d := .v 1, a := .v 2, t := 0x19 }) (fun x s => loadAccess { mem with space := 1, d := .v 1, a := .v 2, t := 0x19 } x s (s.stepOf x.c)) 0x108 id (fun _ _ _ => true)]

/-- A slice thread's load from a page of its die, and one from a page that is not mapped. -/
def loadTCases : List TCase := [
  atT (.ld { mem with d := .v 1, a := .v 2, t := 7 }) (fun th => { th with v := [(2, List.replicate 16 0x10008)] }) (fun x u => (match (readyT x.i (fun _ => x.th)).threadSpots x.th Need.load (laneList.map (fun l => plainElem l (x.env.addr { mem with d := .v 1, a := .v 2, t := 7 } l) 4 0 0)) with
    | .inr ps => !(readyT x.i (fun _ => x.th)).threadHeld ps | .inl _ => false) && (u.thread? 0 0).map (fun th => th.vreg 1 15) == some 0x70030000),
  atT (.ld { mem with d := .v 1, a := .v 2, t := 7 }) (fun th => { th with v := [(2, List.replicate 16 0x20000)] }) (fun x u => tfailed (readyT x.i (fun _ => x.th)) 0x10 u)]

/-- Stores: into team, global and private space, a release to peer space wider than its core, and a slice thread's. -/
def storeCases : List Case := [
  freeCase (.st { mem with space := 1, a := .v 2, b := .v 3, t := 7 }) (storeAccess { mem with space := 1, a := .v 2, b := .v 3, t := 7 }) 0xFFFC id (fun _ _ u => u.mem.num (teamAt 0xFFFC) 4 == 0x11223344),
  freeCase (.st { mem with space := 2, ord := 2, scope := 3, a := .v 2, b := .v 3, t := 7 }) (storeAccess { mem with space := 2, ord := 2, scope := 3, a := .v 2, b := .v 3, t := 7 }) 0x104 id
    (fun x s1 u => x.who.relKind { mem with space := 2, ord := 2, scope := 3, a := .v 2, b := .v 3, t := 7 } .peer == 2 && decide (u.mem = s1.mem) && ((u.core x.c).sq.map (fun e => (e.bytes.map (·.2), e.rel))) == [([0x44, 0x33, 0x22, 0x11], true)]),
  freeCase (.st { mem with a := .v 2, b := .v 3, t := 2 }) (storeAccess { mem with a := .v 2, b := .v 3, t := 2 }) 0x100FE withTlb (fun x s1 u => decide (u.mem = s1.mem) && ((u.core x.c).sq.map (fun e => e.bytes.map (·.2))) == [[0x44, 0x33]]),
  freeCase (.st { mem with space := 0, a := .v 2, b := .v 3, t := 7 }) (storeAccess { mem with space := 0, a := .v 2, b := .v 3, t := 7 }) 60 withPriv (fun x s1 u => decide (u.mem = s1.mem) && u.laneByte x.c .priv false (privPlace x.T x.G 0 61) == 0x33)]
def storeTCases : List TCase := [
  atT (.st { mem with a := .v 2, b := .v 3, t := 7 }) (fun th => { th with v := [(2, List.replicate 16 0x10080), (3, laneList.map (BitVec.ofNat 32))] }) (fun _ u => u.mem.num { store := .sram, unit := 0, off := 0x40080 } 4 == 15),
  atT (.st { mem with a := .v 2, b := .v 3, t := 7 }) (fun th => { th with v := [(2, List.replicate 16 0x10082)] }) (fun x u => tfailed (readyT x.i (fun _ => x.th)) 0x16 u)]

theorem meets_Loads : (∀ y ∈ loadCases, y.Meets) ∧ ∀ y ∈ loadTCases, y.Meets := ⟨all_meet (by decide +kernel), all_tmeet (by decide +kernel)⟩
theorem meets_Stores : (∀ y ∈ storeCases, y.Meets) ∧ ∀ y ∈ storeTCases, y.Meets := ⟨all_meet (by decide +kernel), all_tmeet (by decide +kernel)⟩

/-- ResetAndBringUp, MemoryStaysCanonical, LayoutsStayWellFormed: the state at power-on; images that verify, and images that do not. -/
theorem meets_ResetAndBringUp : State.reset.mem.wf = true ∧ State.reset.teams = [] ∧ State.reset.pkg.frozen = false ∧ State.reset.pkg.power = .inReset ∧
    (let good : List Image := [{ sigOk := true, svn := 0, meas := 7, debug := true }]
     (good ≠ [] ∧ ∀ x ∈ good, x.sigOk = true ∧ State.reset.pkg.svn ≤ x.svn) ∧ ¬ (∀ x ∈ good, x.sigOk = true ∧ 1 ≤ x.svn)) ∧
    (match step State.reset with | .next t => t.pkg.power == .on && t.pkg.debugOn == State.reset.pkg.flash.all (·.debug) && t.mem.wf && t.teams.isEmpty | _ => false) = true := by decide +kernel

/-- StepRunsDecoded, StepsGoOn: a group, a sequencer and a slice thread with a word at hand; and a package in which nobody has a turn. -/
def runsDecoded (s : State) (w : InstrWord) : Bool :=
  !s.pkg.frozen && s.pkg.power == .on &&
  match s.ctl.actor with
  | some (.group t g) => (match s.who t g with
    | some w => (match w.G.run, s.lineAt w wordPc with
      | some r, .inr x => isSlot wordPc && !w.T.launch.graft && slotFault w.G r x wordPc == none && (w.G.lane ((lowestLane r.act).getD 0)).pc == wordPc && (match decode (x.slot (slotOf wordPc)) with | .ok _ => true | _ => false)
      | _, _ => false)
    | none => false)
  | some (.seq t j) => (match (s.team? t).bind (fun T => T.share? j) with
    | some sh => sh.seq.st == .running && sh.seq.pc == wordPc && (match s.iline sh.core 0 wordPc with
      | some x => x.fault == none && fldN x.word 5 4 == 0 && decide (x.slot 0 = w)
      | none => false)
    | none => false)
  | some (.thread a b) => (match s.thread? a b with
    | some th => th.pc == wordPc && (match s.threadPlace th Need.fetch (lineAddr wordPc) with
      | .inr pa => (let x := s.lineOf th.asn wordPc pa; !x.bad && fldN x.word 5 4 == 0 && decide (x.slot 0 = w))
      | .inl _ => false)
    | none => false)
  | none => false

/-- A step that goes on. -/
def goesOn (s : State) : Bool := match step s with | .next _ => true | _ => false

theorem meets_StepRunsDecoded : ([(.iadd (r2 3) : Instr), .mend ri, .nmcommit ri].map (fun i => (encode i).getD 0)).all (fun w => let s := State.reset.placeWord w; runsDecoded s w && goesOn s) = true := by decide +kernel
theorem meets_StepsGoOn : State.reset.pkg.frozen = false ∧ State.reset.pkg.power ≠ .refused ∧ State.reset.ctl.inputs = [] ∧ goesOn State.reset = true := by decide +kernel

/-- UnassignedOpcodes: a word of opcode 0xFF. -/
def noWord : InstrWord := 0xFF0000000000000000000000
theorem meets_UnassignedOpcodes : instrOf noWord = some (.unassignedOpcode noWord) ∧
    (let s := State.reset.placeWord noWord
     s.ctl.actor = some (.group 0 0) ∧ ((s.group? 0 0).bind (·.run)).isSome = true ∧ goesOn s = true) ∧
    (readyS (.unassignedOpcode noWord) id).ctl.actor = some (.seq 0 0) ∧ (readyT (.unassignedOpcode noWord) id).ctl.actor = some (.thread 0 0) := by decide +kernel

/-- EncodeThenDecode, DecodeThenEncode: the words of `test_decode_integer`. -/
theorem meets_EncodeThenDecode : integerWords.all (fun p => p.2.wf && decide (encode p.2 = some p.1)) = true := by decide +kernel

/-- RegisterFrame, PerformedFrame: the words of `meets_results` that act on registers alone; one with N. -/
theorem meets_RegisterFrame : ∀ y ∈ [at_ (.iadd { r2 3 with hdr := ⟨true, false, 0⟩ }) id (fun _ _ _ => true), at_ (.cvt { r1 3 with t2 := 0x18 }) id (fun _ _ _ => true), at_ (.nop false) id (fun _ _ _ => true)], y.Meets := all_meet (by decide +kernel)

/-- The placed team with a handler, and its group as `f` makes it. -/
def trapAt (vec : DWord) (f : Group → Group) : State := (ready (.nop false) f).modTeam 0 (fun T => { T with trapvec := vec })

/-- TrapEntry: no handler; cause 0x04 with one; a handler address that is no slot; entry with lanes 0 to 3 executing, two of them performed, and lane 9 exited. -/
theorem meets_TrapEntry :
    (((trapAt 0 id).takeTrap 0 0 { cause := 0x16 } 1 wordPc).team? 0).map (·.phase) = some (.killed 0x16 false) ∧
    (((trapAt 0x10018 id).takeTrap 0 0 { cause := 0x04 } 1 wordPc).team? 0).map (·.phase) = some (.killed 0x04 false) ∧
    (((trapAt 0x10018 (fun G => { G with inHandler := true })).takeTrap 0 0 { cause := 0x31 } 1 wordPc).team? 0).map (·.phase) = some (.killed 0x31 false) ∧
    (((trapAt 0x10017 id).takeTrap 0 0 { cause := 0x16 } 1 wordPc).team? 0).map (·.phase) = some (.killed 0x03 false) := by decide +kernel

theorem meets_TrapEntry_handler :
    (let u := (trapAt 0x10018 (fun G => G.modLanes 0x200 (fun _ L => { L with hold := .exited }))).takeTrap 0 0 { cause := 0x16, eaddr := some 0x102, performed := 3 } 0xF wordPc
     (u.group? 0 0).map (fun H => (H.inHandler, H.epc, H.eaddr, H.elanes, (H.lane 0).pc, (H.lane 8).pc, (H.lane 9).hold)) == some (true, wordPc, 0x102, 0xF, 0x10018, 0x10018, .exited) &&
     ((u.group? 0 0).bind (·.frame)).map (fun fr => fr.lanes.map (·.pc)) == some ((List.replicate 2 (wordPc + 12)) ++ List.replicate 14 wordPc)) = true := by decide +kernel

/-- TrapReturn: TRET outside a handler and in one; a return that restores the frame. -/
def handled (G : Group) : Group := { G with inHandler := true, epc := 0x10024, run := none, parks := [.tret], frame := some { lanes := (upFrom 0 16).map (fun l => { pc := if l < 4 then wordPc else 0x1000C, meet := if l = 5 ∨ l = 6 then some 0x1000C else none, hold := if l = 5 then .meet else .runnable, p := 4, wcnt := 0 }), xs := [], epc := wordPc, held := [], counted := false } }
def tretCases : List Case := [at_ (.tret ri) id (fun x s1 u => !x.G.inHandler && trapped x s1 { cause := 0x02 } u),
  at_ (.tret ri) (fun G => { G with inHandler := true }) (fun x _ u => x.G.inHandler && (u.group? 0 0).map (fun H => (H.parks, H.run.isSome)) == some ([.tret], false))]

/-- An event that happens, with what holds after it; one that changes nothing. -/
def ev (i : Instr) (s : State) (p : State → Bool) : Bool := match exec i s with | .next u => p u | _ => false
def idle (i : Instr) (s : State) : Bool := ev i s (fun u => decide (still u = still s.tick))

theorem meets_TrapReturn : (∀ y ∈ tretCases, y.Meets) ∧
    (let s := ready (.nop false) handled
     (s.who 0 0).map (fun w => (w.parked, w.G.log.isEmpty, w.T.launch.graft)) = some (true, true, false) ∧
     ev (.groupResume 0 0) s (fun u => (u.group? 0 0).map (fun H => ((H.lane 0).pc, (H.lane 4).pc, (H.lane 5).hold, (H.lane 5).p, H.inHandler)) == some (0x10024, 0x1000C, .meet, 4, false)) = true) :=
  ⟨all_meet (by decide +kernel), by decide +kernel⟩

/-- A slice thread with a row address in V2, in a state as `g` makes it. -/
def rowCase (i : Instr) (a : Word) (g : State → State) (p : ThCtx → State → State → Bool) : TCase :=
  let s := g (readyT i (fun th => { th with v := [(2, List.replicate 16 a), (8, laneList.map (BitVec.ofNat 32))] }))
  { i := i, s := s, p := fun x u => p x s u }

/-- A logged region of the page of the word, its tags in frame 6, with an undo area in frame 7. -/
def logged (s : State) : State := s.modMmp (fun m => { m with logged := [(0, [{ asn := 0, base := 0x10000, len := 65536, tags := 6 * 65536 }])], undo := [(0, { base := 7 * 65536, size := 65536, used := [], next := 0 })], frames := m.frames.map (fun f => if f.num = 4 then { f with marks := 1 <<< 48 } else f) })

/-- NearMemory: a misaligned row; a load and a store of a row; a row logged, logged again, and with no room; a commit, an abort of an earlier step and of a later one. -/
def rowTCases : List TCase := [
  rowCase (.nmld { mem with d := .v 4, a := .v 2 }) 0x10080 id (fun x s u => decide ((x.env.addr { mem with d := .v 4, a := .v 2 } 0).toNat % 256 ≠ 0) && decide (still u = still (s.failThread 0 0 0x16).tick)),
  rowCase (.nmld { mem with d := .v 4, a := .v 2 }) 0x10000 id (fun x s u => (match x.row { mem with d := .v 4, a := .v 2 } Need.load s with | .inr pa => !s.rowHeld pa && !s.rowPoisoned pa | .inl _ => false) && (u.thread? 0 0).map (fun th => th.vreg 4 15) == some (BitVec.ofNat 32 (s.mem.num { store := .sram, unit := 0, off := 0x4003C } 4))),
  rowCase (.nmst { mem with b := .v 8, a := .v 2 }) 0x10100 id (fun x s u => (match x.row { mem with b := .v 8, a := .v 2 } Need.store s with | .inr pa => !s.rowHeld pa && !(s.marks pa).unmapped && !s.rowUnlogged x.th pa && !(s.marks (pa.add 255)).tx | .inl _ => false) && u.mem.num { store := .sram, unit := 0, off := 0x4013C } 4 == 15),
  rowCase (.nmlog { mem with a := .v 2 }) 0x10100 logged (fun _ s u => s.tagStep { store := .sram, unit := 0, off := 6 * 65536 + 16 } == 0 && u.tagStep { store := .sram, unit := 0, off := 6 * 65536 + 16 } == 1 && u.entryRow (entryAt 0 (7 * 65536)) == 0x10100 && (u.undoOf 0).used.length == 1),
  rowCase (.nmlog { mem with a := .v 2 }) 0x10100 (fun s => let s := logged s; { s with mem := s.mem.store (numBytes { store := .sram, unit := 0, off := 6 * 65536 + 16 } 8 1) }) (fun x s u => s.tagStep { store := .sram, unit := 0, off := 6 * 65536 + 16 } == x.th.step.toNat + 1 && decide (u.mem = s.mem)),
  rowCase (.nmlog { mem with a := .v 2 }) 0x10100 (fun s => (logged s).modMmp (fun m => { m with undo := [(0, { base := 7 * 65536, size := 0, used := [], next := 0 })] })) (fun _ s u => (s.undoOf 0).freeSlot == none && decide (still u = still (s.failThread 0 0 0x4A).tick)),
  rowCase (.nmcommit { ri with a := .v 2 }) 0 (fun s => let s := logged s; { s with mem := s.mem.store (numBytes { store := .sram, unit := 0, off := 6 * 65536 + 16 } 8 1) }) (fun x _ u => (x.stepArg { ri with a := .v 2 }).toNat == 0 && u.tagStep { store := .sram, unit := 0, off := 6 * 65536 + 16 } == 0),
  rowCase (.nmabort { ri with a := .v 2 }) 0 logged (fun x s u => decide ((x.stepArg { ri with a := .v 2 }).toNat ≤ x.th.step.toNat) && decide (still u = still (s.failThread 0 0 0x02).tick)),
  rowCase (.nmabort { ri with a := .v 2 }) 1 logged (fun x _ _ => decide (x.th.step.toNat < (x.stepArg { ri with a := .v 2 }).toNat))]

theorem meets_NearMemory : ∀ y ∈ rowTCases, y.Meets := all_tmeet (by decide +kernel)

/-- A store of the group, not yet performed. -/
def pendingStore (s : State) : State := s.modCore 0 (fun k => { k with sq := [{ stamp := 0, t := 0, g := 0, bytes := [({ store := .sram, unit := 0, off := 0x40080 }, 1)], red := none, stage := none, rel := false, coreRel := false }] })

/-- A record of zeros in the record cache of core 0, at the record base. -/
def cached (s : State) : State := s.modCore 0 (fun k => { k with recs := [{ asn := 0, addr := 0, image := 0 }] })

/-- Fences: a fence of every order with nothing to wait for, one with a store before it; HFLUSH of each scope, and one held. -/
def fenced (n : Nat) (x : Ctx) (s2 : State) : State := s2.modGroup x.t x.g (fun G => { G with relFence := max G.relFence n })
/-- What a fence makes of the group's later stores: nothing, releases of CORE scope, releases of a wider one. -/
def fenceKind (f : Nat) : Nat := if f / 2 % 2 = 0 ∨ f / 4 % 8 < 2 then 0 else if f / 4 % 8 = 2 then 1 else 2
def fenceCases : List Case := Sig.fence.vars.map (fun f => at_ (.fence { ri with var := BitVec.ofNat 7 f }) id (fun x s1 u => did x s1 (fenced (fenceKind f) x s1.bumpStamp) {} u)) ++
  ([11, 13, 14, 23] : List Nat).map (fun f => on (.fence { ri with var := BitVec.ofNat 7 f }) pendingStore (fun x s1 u =>
    let s2 := fenced (fenceKind f) x s1.bumpStamp
    if f = 14 ∨ f = 23 then fenceWide { ri with var := BitVec.ofNat 7 f } && !s2.relDone x.c x.t x.g s2.ctl.stamp && did x s1 (s2.modGroup x.t x.g (fun G => { G with parks := G.parks ++ [.release s2.ctl.stamp] })) {} u else did x s1 s2 {} u)) ++
  (upFrom 2 4).map (fun v => on (.hflush { ri with var := BitVec.ofNat 7 v, a := .idx 3 }) (fun s => (cached s).modGroup 0 0 (fun G => { G with h := [] })) (fun x s1 u => s1.relDone x.c x.t x.g (s1.ctl.stamp + 1) && (u.core 0).recs.isEmpty)) ++
  [on (.hflush { ri with var := 2, a := .idx 3 }) pendingStore (fun x s1 u => !s1.relDone x.c x.t x.g (s1.ctl.stamp + 1) && pcs u 0 15 == some (wordPc, wordPc, true))]

theorem meets_Fences : ∀ y ∈ fenceCases, y.Meets := all_meet (by decide +kernel)

/-- MemoryStaysCanonical, LayoutsStayWellFormed: the state at power-on, whose step goes on. -/
theorem meets_invariants : State.reset.MemOk ∧ State.reset.LayoutsOk ∧ ∃ t, Steps State.reset t :=
  ⟨by unfold State.MemOk; decide +kernel, fun T h => (by simp [State.reset] at h), _, rfl⟩

/-- A window of die 0 with two destinations and two members: `tx` and `rx` as given, with counters. -/
def window (id : Nat) (tx rx : Bool) (mode : Nat) : Window :=
  { id := id, die := 0, tx := tx, rx := rx, mode := mode, loop := false, base := 0x20000, size := 65536, asn := 0, pathId := 0, session := 0, deadline := 5, resid := 0, dests := [(1, 9), (2, 9)], mems := [(1, 9), (2, 9)],
    caps := [], captured := 8, sent := 8, paths := [{ sentCaps := 0, ackedCaps := 0, live := true, stopped := false, heard := 0 }, { sentCaps := 0, ackedCaps := 0, live := false, stopped := false, heard := 0 }],
    members := [{ landed := 5, live := true, heard := 0 }, { landed := 6, live := false, heard := 0 }], masks := [], copies := [(0, { captured := 8, sent := 8, landed := [5, 6], txLive := 1, rxLive := 1 })], updates := [] }
def withWindows (ws : List Window) (s : State) : State := { s with refl := { s.refl with windows := ws } }
def two : State → State := withWindows [window 7 true true 0, window 4095 false true 0]

/-- WCNT, CWAIT and RFENCE of window `n`, with the S operands `n`, `sel`, a target and a time in S2, S3, S4:S5 and S6. -/
def winCase (i : Instr) (n sel : Word) (target : Word) (us : Word) (g : State → State) (p : Ctx → State → State → Bool) : Case :=
  on i (fun s => g (s.modGroup 0 0 (fun G => { G with s := [(2, n), (3, sel), (4, target), (6, us)] }))) p
def wcntW : Instr := .wcnt { ri with d := .s 8, a := .s 2, b := .s 3 }
def cwaitW : Instr := .cwait { ri with d := .s 8, a := .s 2, b := .s 3, c := .s 4, xf := 6 }
def rfenceW : Instr := .rfence { ri with d := .s 8, a := .s 2 }
def s8 (u : State) : Option (Word × Word) := (u.group? 0 0).map (fun H => (H.sreg 8, H.sreg 9))

/-- Has a counter of window 7 reached a value, and is its member lost, by the copy of the die? -/
def cwaited (x : Ctx) (s : State) (sel : Nat) (target : DWord) : Option (Bool × Bool) :=
  (s.window? 7).bind (fun w => let c := w.copyOf (dieOf x.c); (c.value w sel).map (fun y => (reached y target, !c.rxLive.getLsbD sel)))

def windowCases : List Case := [
  winCase wcntW 4095 68 0 0 two (fun x s1 u => trapped x s1 { cause := 0x02 } u), winCase wcntW 4096 67 0 0 two (fun x s1 u => trapped x s1 { cause := 0x02 } u), winCase wcntW 4094 67 0 0 two (fun x s1 u => (s1.window? 4094).isNone && trapped x s1 { cause := 0x58 } u),
  winCase wcntW 7 2 0 0 two (fun x s1 u => (s1.window? 7).isSome && trapped x s1 { cause := 0x02 } u), winCase wcntW 4095 64 0 0 two (fun x s1 u => trapped x s1 { cause := 0x02 } u), winCase wcntW 4095 67 0 0 two (fun _ _ u => s8 u == some (1, 0)), winCase wcntW 7 1 0 0 two (fun _ _ u => s8 u == some (6, 0)),
  winCase wcntW 4094 68 0 0 two (fun x s1 u => trapped x s1 { cause := 0x58 } u), winCase cwaitW 8 66 0 0 two (fun x s1 u => trapped x s1 { cause := 0x58 } u),
  winCase cwaitW 7 66 0 0 two (fun x s1 u => trapped x s1 { cause := 0x02 } u), winCase cwaitW 8 65 0 0 two (fun x s1 u => trapped x s1 { cause := 0x58 } u), winCase cwaitW 7 0 5 0xFFFFFFFF two (fun x s1 _ => cwaited x s1 0 5 == some (true, false) && expiryOf s1.pkg.time (x.env.s 6) == BitVec.allOnes 64),
  winCase cwaitW 7 1 7 0xFFFFFFFF two (fun x s1 _ => cwaited x s1 1 7 == some (false, true)), winCase cwaitW 7 0 6 0 two (fun x s1 _ => cwaited x s1 0 6 == some (false, false) && expiryOf s1.pkg.time (x.env.s 6) == s1.pkg.time),
  winCase cwaitW 7 0 6 0xFFFFFFFF two (fun x _ u => (u.group? 0 0).map (fun H => H.parks) == some [.cwait 7 0 6 (BitVec.allOnes 64) 8 wordPc x.ex]), winCase cwaitW 7 65 9 1 two (fun x _ u => (u.group? 0 0).map (fun H => H.parks) == some [.cwait 7 65 9 1000 8 wordPc x.ex]),
  winCase rfenceW 4096 0 0 0 two (fun x s1 u => trapped x s1 { cause := 0x02 } u), winCase rfenceW 1 0 0 0 two (fun x s1 u => trapped x s1 { cause := 0x58 } u), winCase rfenceW 4095 0 0 0 two (fun x s1 u => trapped x s1 { cause := 0x02 } u),
  winCase rfenceW 7 0 0 0 two (fun x s1 _ => s1.bumpStamp.relDone x.c x.t x.g s1.bumpStamp.ctl.stamp && (s1.window? 7).map (fun w => (w.tx, reached w.sent w.captured, w.lostMask)) == some (true, true, 2)),
  winCase rfenceW 7 0 0 0 (fun s => pendingStore (two s)) (fun x s1 u => !s1.bumpStamp.relDone x.c x.t x.g s1.bumpStamp.ctl.stamp && (u.group? 0 0).map (fun H => H.parks) == some [.rfence 7 s1.bumpStamp.ctl.stamp none 8])]

theorem meets_WindowCounters : ∀ y ∈ windowCases, y.Meets := all_meet (by decide +kernel)

/-- BAR of barrier 3 with the count in S3, in a group as `f` makes it and a package as `g` makes it. -/
def barW : Instr := .bar { ri with a := .idx 3, b := .s 3 }
def barCase (c : Word) (f : Group → Group) (g : State → State) (p : Ctx → State → State → Bool) : Case := on barW (fun s => g (s.modGroup 0 0 (fun G => f { G with s := [(3, c)] }))) p
/-- Lanes 8 to 15 held as `h` says, lanes 0 to 7 executing. -/
def halfHeld (h : Hold) (G : Group) : Group := { G.modLanes 0xFF00 (fun _ L => { L with hold := h }) with run := some { Run.start with act := 0xFF } }
def barsAt (n a : Nat) (s : State) : State := s.modTeam 0 (fun T => { T with bars := [(3, { count := n, arrived := a, gen := false })] })
def bar3 (u : State) : Option Barrier := (u.team? 0).map (fun T => T.bar 3)

def barCases : List Case := [
  barCase 0 id id (fun x s1 u => trapped x s1 { cause := 0x02 } u), barCase 4113 id id (fun x s1 u => trapped x s1 { cause := 0x02 } u), barCase 2 (halfHeld (.bar 3 4)) id (fun x s1 u => trapped x s1 { cause := 0x30 } u),
  barCase 2 (halfHeld (.bar 4 2)) id (fun x s1 u => trapped x s1 { cause := 0x30 } u), barCase 2 (halfHeld (.wait 1)) id (fun _ _ u => (bar3 u).map (·.arrived) == some 0 && (u.group? 0 0).map (fun H => ((H.lane 0).hold, (H.lane 8).hold)) == some (.bar 3 2, .wait 1)),
  barCase 2 (halfHeld (.bar 3 2)) (barsAt 3 1) (fun x s1 u => (x.T.bar 3).refuses 2 && s1.relDone x.c x.t x.g (s1.ctl.stamp + 1) && trapped x s1 { cause := 0x30 } u),
  barCase 2 (halfHeld (.bar 3 2)) id (fun _ _ u => bar3 u == some { count := 2, arrived := 1, gen := false }), barCase 4112 id id (fun _ _ u => bar3 u == some { count := 4112, arrived := 1, gen := false }),
  barCase 2 (halfHeld .exited) (barsAt 2 1) (fun _ _ u => bar3 u == some { count := 0, arrived := 0, gen := true } && (u.group? 0 0).map (fun H => ((H.lane 0).hold, (H.lane 0).pc)) == some (.runnable, wordPc + 12)),
  barCase 1 id id (fun _ _ u => bar3 u == some { count := 0, arrived := 0, gen := true })]

def barSCases : List SCase := ([(0, true), (4113, true), (4112, false), (1, false)] : List (Word × Bool)).map (fun y => atS barW (fun sh => { sh with seq := { sh.seq with q := [(3, y.1)] } }) (fun _ u =>
  if y.2 then (u.team? 0).map (·.phase) != some .running || ((u.team? 0).bind (fun T => T.share? 0)).map (·.seq.st) == some .stopped else (bar3 u).map (fun b => b.arrived == 1 || b.gen) == some true))

theorem meets_Barriers : (∀ y ∈ barCases, y.Meets) ∧ ∀ y ∈ barSCases, y.Meets := ⟨all_meet (by decide +kernel), all_smeet (by decide +kernel)⟩

/-- Its other clauses: a group whose lanes are all held at barrier 3, with its release work done and not done, at a barrier that refuses its count; a counted group, and a trap frame of one. -/
def atBar (s : State) : State := s.modGroup 0 0 (fun G => G.modLanes 0xFFFF (fun _ L => { L with hold := .bar 3 2 }))
def barFrame (G : Group) : Group := { G with frame := some { lanes := List.replicate 16 { pc := wordPc, meet := none, hold := .bar 3 2, p := 0, wcnt := 0 }, xs := [], epc := wordPc, held := [], counted := true } }
def unarrived (s : State) : Bool := (s.who 0 0).map (fun w => (w.G.allAtBar, w.G.counted, w.G.parks.any Park.isArrive)) == some (some (3, 2), false, false)

theorem meets_Barriers_arrive :
    (let s := pendingStore (atBar (ready barW id)); unarrived s && !s.relDone 0 0 0 (s.ctl.stamp + 1) && ((s.arriveWith 0 0 0xFFFF wordPc).group? 0 0).map (·.parks.length) == some 1) = true ∧
    (let s := barsAt 2 0 (atBar (ready barW id)); unarrived s && s.relDone 0 0 0 (s.ctl.stamp + 1) && ((s.arriveWith 0 0 0xFFFF wordPc).group? 0 0).map (·.counted) == some true) = true ∧
    (let s := barsAt 3 1 (atBar (ready barW id)); unarrived s && (s.team? 0).map (fun T => (T.bar 3).refuses 2) == some true && ((s.arriveWith 0 0 0xFFFF wordPc).team? 0).map (·.phase) == some (.killed 0x30 false)) = true ∧
    (let G := Group.modLanes ({ startGroup (wordLaunch 0) 0 0 0 0 0 with counted := true }) 0xFFFF (fun _ L => { L with hold := .bar 3 2 }); G.allAtBar == some (3, 2) && ((G.barRelease 3 2).lane 7).hold == .runnable) = true ∧
    (let G := barFrame (startGroup (wordLaunch 0) 0 0 0 0 0); G.frameAtBar == some (3, 2) && (G.barRelease 3 2).frame.map (·.counted) == some false) = true := by decide +kernel

/-- STGWAIT and STGFREE with the ring in S2 and the stage in S3; stage 15 of ring 7 is FULL, stage 0 of ring 1 has a copy on its way. -/
def stages (s : State) : State := s.modTeam 0 (fun T => { T with stages := [(16, { full := false, pending := 1 }), (127, { full := true, pending := 0 })] })
def stgW (f : RIWord → Instr) : Instr := let w := { ri with a := .s 2, b := .s 3 }
  match f w with | .stgwaitFull _ => .stgwaitFull { w with var := 1 } | i => i
def stgCase (f : RIWord → Instr) (r k : Word) (p : Ctx → State → State → Bool) : Case := on (stgW f) (fun s => stages (s.modGroup 0 0 (fun G => { G with s := [(2, r), (3, k)] }))) p
def stgSCase (f : RIWord → Instr) (r k : Word) (p : SeqCtx → State → Bool) : SCase :=
  let s := stages (readyS (stgW f) (fun sh => { sh with seq := { sh.seq with q := [(2, r), (3, k)] } }))
  { i := stgW f, s := s, p := p }
def hold0 (u : State) : Option Hold := (u.group? 0 0).map (fun H => (H.lane 0).hold)
def seq0 (u : State) : Option (SeqSt × DWord) := ((u.team? 0).bind (fun T => T.share? 0)).map (fun sh => (sh.seq.st, sh.seq.pc))
def stage7 (u : State) : Option Stage := (u.team? 0).map (fun T => T.stage 7 15)

def stageCases : List Case := [
  stgCase .stgwaitFull 8 0 (fun x s1 u => trapped x s1 { cause := 0x02 } u), stgCase .stgwaitEmpty 7 16 (fun x s1 u => trapped x s1 { cause := 0x02 } u), stgCase .stgwaitFull 7 15 (fun x s1 u => did x s1 s1 {} u), stgCase .stgwaitEmpty 0 0 (fun x s1 u => did x s1 s1 {} u),
  stgCase .stgwaitEmpty 7 15 (fun _ _ u => hold0 u == some (.stg 7 15 false)), stgCase .stgwaitEmpty 1 0 (fun _ _ u => hold0 u == some (.stg 1 0 false)), stgCase .stgwaitFull 1 0 (fun _ _ u => hold0 u == some (.stg 1 0 true)),
  { stgCase .stgwaitFull 7 15 (fun x s1 u => s1.stageFreed x.T.id 7 15 && hold0 u == some (.stg 7 15 true)) with
    s := (stgCase .stgwaitFull 7 15 (fun _ _ _ => true)).s.modCore 0 (fun k => { k with sq := [{ stamp := 0, t := 0, g := 0, bytes := [], red := none, stage := some (7, 15), rel := true, coreRel := false }] }) },
  stgCase .stgfree 8 0 (fun x s1 u => trapped x s1 { cause := 0x02 } u), stgCase .stgfree 1 0 (fun x s1 u => trapped x s1 { cause := 0x32 } u),
  { stgCase .stgfree 7 15 (fun x s1 u => !s1.relDone x.c x.t x.g (s1.ctl.stamp + 1) && !s1.stageFreed x.t 7 15 && (u.core 0).sq.map (·.stage) == [none, some (7, 15)] && stage7 u == some { full := true, pending := 0 }) with
    s := pendingStore (stgCase .stgfree 7 15 (fun _ _ _ => true)).s },
  { stgCase .stgfree 7 15 (fun x s1 u => s1.stageFreed x.t 7 15 && trapped x s1 { cause := 0x32 } u) with
    s := (stgCase .stgfree 7 15 (fun _ _ _ => true)).s.modCore 0 (fun k => { k with sq := [{ stamp := 0, t := 0, g := 0, bytes := [], red := none, stage := some (7, 15), rel := true, coreRel := false }] }) },
  stgCase .stgfree 7 15 (fun x s1 u => s1.relDone x.c x.t x.g (s1.ctl.stamp + 1) && stage7 u == some { full := false, pending := 0 })]
def stageSCases : List SCase := [
  stgSCase .stgwaitFull 7 15 (fun _ u => seq0 u == some (.running, wordPc + 12)), stgSCase .stgwaitEmpty 1 0 (fun _ u => seq0 u == some (.stg 1 0 false, wordPc)), stgSCase .stgfree 7 15 (fun _ u => stage7 u == some { full := false, pending := 0 } && seq0 u == some (.running, wordPc + 12)),
  { stgSCase .stgfree 7 15 (fun x u => x.sh.mul.waiting.isSome && stage7 u == some { full := true, pending := 0 } && seq0 u == some (.running, wordPc)) with
    s := (stgSCase .stgfree 7 15 (fun _ _ => true)).s.modShare 0 0 (fun sh => { sh with mul := { sh.mul with waiting := some { instr := .mma mat, pc := 0, tile := 0, count := 1, a := none, b := none, z := none, order := 0 } } }) },
  stgSCase .stgfree 0 16 (fun x u => x.sh.mul.waiting.isNone && x.sh.drain.waiting.isNone && (seq0 u).map (·.1) == some .stopped || (u.team? 0).map (·.phase) != some .running), stgSCase .stgfree 0 0 (fun _ u => (seq0 u).map (·.1) == some .stopped || (u.team? 0).map (·.phase) != some .running)]

theorem meets_Stages : (∀ y ∈ stageCases, y.Meets) ∧ ∀ y ∈ stageSCases, y.Meets := ⟨all_meet (by decide +kernel), all_smeet (by decide +kernel)⟩

/-- HandlesAndChecks: handles at the border; records cached, being filled and failed; types and tables; layouts of each kind. -/
def recsAt (rs : List RecEntry) (fs : List Fill) (s : State) : State := s.modCore 0 (fun k => { k with recs := rs, fills := fs })
/-- A fill of the record at `a`: for nobody's use yet, or of the placed group, that has ended with a cause. -/
def bound (a : DWord) : Fill := { asn := 0, addr := a, t := 0, by_ := none, keep := true, cause := none, image := none }
def failed (c : Byte) : Fill := { bound 0 with by_ := some (.group 0 0), cause := some c }
def rec0 : List RecEntry := [{ asn := 0, addr := 0, image := 0x1234 }]
def kind (k : Nat) : LayBits := BitVec.ofNat 1024 (16 ||| (1 <<< 32) ||| (16 <<< 64) ||| (64 <<< 96) ||| ((2 + 0x30 + 0x4000 + 0x20000000 * k) <<< 704))
def lchkW (t table : Nat) (n : Nat) : RIWord := { ri with a := .idx 1, b := .idx (BitVec.ofNat 12 n), t := BitVec.ofNat 5 t, xf := BitVec.ofNat 13 table }
def chkCase (f : RIWord → Instr) (w : RIWord) (y : LayBits) (g : State → State) (p : Ctx → State → State → Bool) : Case := on (f w) (fun s => g (s.modGroup 0 0 (fun G => { G with l := [(1, y)] }))) p
def lst0 (u : State) : Option Word := (u.group? 0 0).map (fun H => H.settled.lst)

def handleCases : List Case := [
  on (.hbind { ri with d := .idx 15, a := .s 2 }) (fun s => s.modGroup 0 0 (fun G => { G with s := [(2, 65536)] })) (fun x s1 u => trapped x s1 { cause := 0x02 } u),
  on (.hbind { ri with d := .idx 15, a := .s 2 }) (fun s => s.modGroup 0 0 (fun G => { G with s := [(2, 65535)] })) (fun _ _ u => (u.group? 0 0).map (fun H => H.hreg 15) == some 65535 && (u.core 0).fills == [bound (192 * 65535)]),
  on (.hbind { ri with isImm := true, d := .idx 3, imm := 0 }) (recsAt rec0 []) (fun _ s1 u => decide (u.cores = s1.cores)),
  on (.hinfo { ri with d := .s 4, a := .idx 0, b := .imm 47 }) (recsAt rec0 []) (fun x s1 u => ((s1.core x.c).recs.find? (·.isFor 0 (recordAddr x.T.recbase (x.handle s1 0)))).isSome && (u.group? 0 0).map (fun H => H.sreg 4) == some 0),
  on (.hinfo { ri with d := .s 4, a := .idx 0, b := .s 2 }) (fun s => recsAt rec0 [] (s.modGroup 0 0 (fun G => { G with s := [(2, 48)] }))) (fun x s1 u => trapped x s1 { cause := 0x02 } u),
  on (.hinfo { ri with d := .s 4, a := .idx 0, b := .imm 0 }) (recsAt [] [failed 0x10]) (fun x s1 u => ((s1.core x.c).fills.find? (·.serves 0 (recordAddr x.T.recbase (x.handle s1 0)) x.t (.group x.t x.g))).isSome && (u.team? 0).map (·.phase) == some (.killed 0x10 false)),
  chkCase .lchk (lchkW 0x11 1 16) (kind 0) id (fun x s1 u => (layoutOf (x.layout s1 1)).kind == 0 && trapped x s1 { cause := 0x02 } u), chkCase .lchk (lchkW 4 3 0) (kind 1) id (fun x s1 u => !checkType 3 4 (layoutOf (x.layout s1 1)).esz && trapped x s1 { cause := 0x02 } u),
  chkCase .lchk (lchkW 0x11 1 31) (kind 1) id (fun x s1 u => (layoutOf (x.layout s1 1)).kind == 1 && lst0 u == some (lstWord (classify 1 (kOfType 0x11) (layoutOf (kind 1)) (linearView x.sh.scratchLen 16) true) 1)),
  chkCase .lbcd (lchkW 0x11 1 0) (kind 3) id (fun x s1 u => (layoutOf (x.layout s1 1)).kind == 3 && (u.group? 0 0).map (fun H => H.settled.bcd) == some (bcdWord 1 0)),
  chkCase .lchk (lchkW 0x11 0 0) (kind 0) (recsAt rec0 []) (fun x s1 u => (layoutOf (x.layout s1 1)).kind == 0 && (match checkSide (lchkW 0x11 0 0) x s1 (x.layout s1 1) with | .ok _ v => lst0 u == some (lstWord (classify 0 (kOfType 0x11) (checkOperand v 0 0x11 x.sh.scratchLen).L (checkOperand v 0 0x11 x.sh.scratchLen).V (checkOperand v 0 0x11 x.sh.scratchLen).ok) 0) | _ => false)),
  chkCase .lchk (lchkW 0x11 0 0) (kind 0) (recsAt [] [failed 0x11]) (fun x s1 u => (match checkSide (lchkW 0x11 0 0) x s1 (x.layout s1 1) with | .cause _ c => c == 0x11 | _ => false) && (u.team? 0).map (·.phase) == some (.killed 0x11 false))]

def handleSCases : List SCase := [atS (.hbind { ri with d := .idx 2, a := .s 2 }) (fun sh => { sh with seq := { sh.seq with q := [(2, 65536)] } }) (fun x _ => x.t == 0),
  atS (.hbind { ri with d := .idx 2, a := .s 2 }) (fun sh => { sh with seq := { sh.seq with q := [(2, 1)] } }) (fun x u => (u.core x.sh.core).fills == [bound 192])]

theorem meets_HandlesAndChecks : (0 : DWord).toNat % 64 = 0 ∧ (∀ y ∈ handleCases, y.Meets) ∧ ∀ y ∈ handleSCases, y.Meets := ⟨by decide, all_meet (by decide +kernel), all_smeet (by decide +kernel)⟩

/-- RangesAndTiles: OBRES of the whole region and of a range past it, with a type that is not listed, with scales; OBREL of a range that is not reserved, of one that is, of one that a command names; AXFR at the borders. -/
def obCase (n base len form bs rs cs : Word) (g : Share → Share) (p : Ctx → State → State → Bool) : Case :=
  on (.obres { ri with d := .idx (n.setWidth 11), a := .s 32 }) (fun s => (s.modShare 0 0 g).modGroup 0 0 (fun G => { G with s := [(32, base), (33, len), (34, form), (35, bs), (36, rs), (37, cs)] })) p
def range0 (st : RangeState) : RangeRec := { base := 0, len := 512, form := 7, bsoff := 0, rsoff := 0, csoff := 0, st := st }
def rng (u : State) (n : Nat) : Option RangeRec := ((u.team? 0).bind (fun T => T.share? 0)).map (fun sh => sh.range n)
def side1 (n : Nat) : SideVal := { sel := 2, num := n, lay := 0, recAddr := 0, image := none, range := some (range0 .reserved) }
def named (n : Nat) (sh : Share) : Share := { sh with mul := { sh.mul with waiting := some { instr := .mma { mat with x := ⟨2, BitVec.ofNat 5 n, 0⟩ }, pc := 0, tile := 0, count := 1, a := some (side1 n), b := none, z := none, order := 0 } } }
def reserved (sh : Share) : Share := { sh with ranges := [(31, range0 .reserved)] }
def relW : Instr := .obrel { ri with a := .idx 31 }

def rangeCases : List Case := [
  obCase 31 0 65536 7 0 0 0 id (fun x _ u => x.sh.obufLen == 65536 && rng u 31 == some { base := 0, len := 65536, form := 7, bsoff := 0, rsoff := 0, csoff := 0, st := .reserved }),
  obCase 0 512 65536 7 0 0 0 id (fun x s1 u => trapped x s1 { cause := 0x41 } u), obCase 0 0 512 9 0 0 0 id (fun x s1 u => !typeListed 9 && trapped x s1 { cause := 0x02 } u),
  obCase 0 0 512 0x10517 496 0 0 id (fun _ _ u => (rng u 0).map (·.st) == some .reserved), obCase 0 0 512 0x10517 512 0 0 id (fun x s1 u => trapped x s1 { cause := 0x41 } u), obCase 31 0 512 7 0 0 0 reserved (fun x s1 u => trapped x s1 { cause := 0x41 } u),
  on relW id (fun x s1 u => trapped x s1 { cause := 0x41 } u), on relW (fun s => s.modShare 0 0 reserved) (fun x s1 u => !s1.rangeBusy x.t x.G.core x.sh 31 && rng u 31 == some RangeRec.free),
  on relW (fun s => s.modShare 0 0 (fun sh => named 31 (reserved sh))) (fun x s1 u => s1.rangeBusy x.t x.G.core x.sh 31 && rng u 31 == some (range0 .releasing)),
  on (.axfrRd { ri with d := .v 4, a := .imm 3, b := .s 2 }) (fun s => s.modGroup 0 0 (fun G => { G with s := [(2, 64)] })) (fun x s1 u => trapped x s1 { cause := 0x02 } u),
  on (.axfrWr { ri with var := 1, c := .v 4, a := .imm 4, b := .imm 63 }) id (fun x s1 u => x.sh.tiles.length == 4 && trapped x s1 { cause := 0x41 } u),
  on (.axfrRd { ri with d := .v 4, a := .imm 3, b := .imm 63 }) (fun s => { s with mem := s.mem.store (numBytes { store := .acc, unit := 0, off := 65532 } 4 77) }) (fun _ _ u => (u.group? 0 0).map (fun H => H.vreg 7 15) == some 77),
  on (.axfrWr { ri with var := 1, c := .v 2, a := .imm 3, b := .imm 63 }) (fun s => s.modGroup 0 0 (abc (fun l => BitVec.ofNat 32 l) (fun _ => 0) (fun _ => 0))) (fun _ _ u => u.mem.num { store := .acc, unit := 0, off := 65536 - 256 + 60 } 4 == 15)]

theorem meets_RangesAndTiles : ∀ y ∈ rangeCases, y.Meets := all_meet (by decide +kernel)

/-- Two modes of a layout in team space of 16-bit elements. -/
def lay2 (e1 s1 e2 s2 : Nat) : LayBits := BitVec.ofNat 1024 (e1 ||| (s1 <<< 32) ||| (e2 <<< 64) ||| (s2 <<< 96) ||| ((2 + 0x30 + 0x4000 + 0x20000000) <<< 704))

/-- TileAccesses: a tile beyond 4096 bytes; LDT into the last register and STT of a tile of 32 elements in team space; a layout that the lanes do not accept. -/
def tall : LayBits := BitVec.ofNat 1024 (2049 ||| (2 <<< 32) ||| ((1 + 0x30 + 0x4000 + 0x20000000) <<< 704))
def side (sel lay : Nat) : BitVec 12 := BitVec.ofNat 12 (1024 * sel + 2 * lay)
def ldtW (d : BitVec 8) (k : BitVec 12) : MWord := { mem with space := 1, d := .v d, b := .idx k, t := 0x11 }
def ldtCase (w : MWord) (y : LayBits) (p : Ctx → State → State → Bool) : Case := on (.ldt w) (fun s => s.modGroup 0 0 (fun G => { G with l := [(1, y)] })) p
def tileCases : List Case := [
  ldtCase (ldtW 1 (side 0 1)) tall (fun x s1 u => decide (4096 < (layoutOf (x.layout s1 1)).size * 2) && trapped x s1 { cause := 0x02 } u),
  ldtCase (ldtW 255 (side 0 1)) (lay2 16 1 2 64) (fun x s1 u => (let y := x.layout s1 1
    let v := teamTile x.sh.scratchLen 16 y
    let acc := classify 0 0 v.L v.V v.ok
    let s2 := s1.modGroup x.t x.g (fun G => G.write (.lst (lstWord acc 0)))
    let es := tileElems v .team 2 x.ex (fun _ => 0) true
    let a := tileAccess (ldtW 255 (side 0 1)) 1 x.ex x s2.bumpStamp (es.map (·.1))
    acc.cls != 2 && tileCheck x .team v es == none && freeB x s2.bumpStamp a (found x s2.bumpStamp a)) && (u.group? 0 0).map (fun H => H.vreg 255 15) == some 0),
  on (.stt { mem with space := 1, c := .v 2, b := .idx (side 0 1), t := 0x11 }) (fun s => s.modGroup 0 0 (fun G => { (abc (fun l => BitVec.ofNat 32 l) (fun _ => 0) (fun _ => 0)) G with l := [(1, lay2 16 1 2 64)] })) (fun _ _ u => u.mem.num (teamAt 128) 4 == 0x00010000 || u.mem.num (teamAt 4) 4 != 0),
  ldtCase (ldtW 0 (side 0 1)) (kind 3) (fun x s1 u => (let y := x.layout s1 1
    let v := teamTile x.sh.scratchLen 16 y
    (classify 0 0 v.L v.V v.ok).cls == 2) && (u.team? 0).map (·.phase) == some (.killed 0x20 false)),
  on (.ldt (ldtW 255 (side 1 1))) (fun s => recsAt rec0 [] (s.modGroup 0 0 (fun G => { G with l := [(1, lay2 16 1 2 64)] })) ) (fun x s1 u =>
    laneSpace (recOf 0).space != some .team && ((s1.core x.c).recs.find? (·.isFor 0 (recordAddr x.T.recbase (x.handle s1 0)))).isSome && (u.team? 0).map (·.phase) == some (.killed 0x20 false))]

/-- A record of 64 elements of 16 bits in global memory, from the page of the word on. -/
def rec16 : List RecEntry := [{ asn := 0, addr := 0, image := BitVec.ofNat 1536 (0x10080 ||| (0x11 <<< 64) ||| (1 <<< 88) ||| (64 <<< 128) ||| (2 <<< 320)) }]
def sttW (sp : BitVec 2) : MWord := { mem with space := sp, c := .v 2, b := .idx (side 1 1), t := 0x11 }
def tileGlbCases : List Case := [
  on (.stt (sttW 3)) (fun s => withTlb (recsAt rec16 [] (s.modGroup 0 0 (fun G => { (abc (fun l => BitVec.ofNat 32 l) (fun _ => 0) (fun _ => 0)) G with l := [(1, BitVec.ofNat 1024 (32 ||| (1 <<< 32) ||| ((1 + 0x10 + 0x4000) <<< 704)))] })))) (fun x s1 u =>
    match s1.useRecord x.c x.T.asn (recordAddr x.T.recbase (x.handle s1 0)) x.t (.group x.t x.g) with
    | .image t1 r =>
      let v := recordTile 16 (x.layout s1 1) (recOf r)
      let acc := classify 0 0 v.L v.V v.ok
      let s2 := t1.modGroup x.t x.g (fun G => G.write (.lst (lstWord acc 0)))
      let es := tileElems v .glb 2 x.ex (fun j => tileDatum x.env.v 2 2 j) false
      let a := tileAccess (sttW 3) 1 x.ex x s2.bumpStamp (es.map (·.1))
      laneSpace (recOf r).space == some .glb && acc.cls != 2 && tileCheck x .glb v es == none && freeB x s2.bumpStamp a (found x s2.bumpStamp a) && decide (u.mem = s1.mem) && !(u.core x.c).sq.isEmpty
    | _ => false)]

theorem meets_TileAccesses_global : ∀ y ∈ tileGlbCases, y.Meets := all_meet (by decide +kernel)

theorem meets_TileAccesses : ∀ y ∈ tileCases, y.Meets := all_meet (by decide +kernel)

/-- OverlappingAtomics: two lanes at one word; two at neighbouring bytes of it; in private space each lane has its own. -/
def atomW : MWord := { mem with space := 1, d := .v 1, a := .v 2, b := .v 3, t := 7 }
def lanes2 (a b : Word) (G : Group) : Group := { abc (fun l => if l = 0 then a else b) (fun _ => 5) (fun _ => 9) G with run := some { Run.start with act := 3 } }
def overlapCases : List Case := [
  on (.atomAdd atomW) (fun s => s.modGroup 0 0 (lanes2 0x108 0x108)) (fun x s1 u => (let a := atomAccess atomW x s1.bumpStamp
    a.space != .priv && (firstFail a.elems (spaceChecks x.who a.space)).isNone && overlapTrap a.elems == some { cause := 0x31, names := some (elemLanes a.elems) } && decide (still u = still (trapHere x s1.bumpStamp { cause := 0x31, names := some (elemLanes a.elems) }).tick))),
  on (.acas { atomW with c := .v 4 }) (fun s => s.modGroup 0 0 (lanes2 0xFFFC 0xFFFC)) (fun _ _ u => (u.team? 0).map (·.phase) == some (.killed 0x31 false))]

theorem meets_OverlappingAtomics : ∀ y ∈ overlapCases, y.Meets := all_meet (by decide +kernel)

/-- A RED to peer space that releases more widely than its core. -/
def redRel : MWord := { atomW with space := 2, d := .idx 0, ord := 2, scope := 3 }

/-- Atomics: one lane in team space, with and without a reply; a RED to peer space that goes to the queue; two lanes at two words; one in global space; one in private space; SWADD of a slice thread to a fresh word and to a word with its factor. -/
def atomCase (i : Instr) (w : MWord) (a : Word) (f : State → State) (p : Ctx → State → State → Bool) : Case :=
  freeCase i (fun x s => atomAccess w x s) a f (fun x s1 u => ((match i with | .red _ => true | _ => false) || overlapTrap (atomAccess w x s1.bumpStamp).elems == none) && p x s1 u)
def slot0 (u : State) : Option (Option AtomDone) := (u.group? 0 0).map (fun H => spFind H.slots 0)
def atomCases : List Case := [
  atomCase (.atomAdd atomW) atomW 0xFFFC id (fun _ _ u => u.mem.num (teamAt 0xFFFC) 4 == 0x11223344 && slot0 u == some (some (.value 0 0))),
  atomCase (.acas { atomW with c := .v 4 }) { atomW with c := .v 4 } 0x108 (fun s => { s with mem := s.mem.store (numBytes (teamAt 0x108) 4 1) }) (fun _ _ u => u.mem.num (teamAt 0x108) 4 == 1 && slot0 u == some (some (.value 1 0))),
  atomCase (.red { atomW with d := .idx 0 }) { atomW with d := .idx 0 } 0x108 id (fun _ _ u => u.mem.num (teamAt 0x108) 4 == 0x11223344),
  atomCase (.red redRel) redRel 0x108 id (fun x s1 u =>
    (let a := atomAccess redRel x s1.bumpStamp; a.space == .peer && s1.bumpStamp.redWaits x.who a (x.who.relKind redRel .peer) (found x s1.bumpStamp a)) && decide (u.mem = s1.mem) && (u.core x.c).sq.length == 1),
  atomCase (.atomMax { atomW with space := 3, op := 2 }) { atomW with space := 3, op := 2 } 0x10100 withTlb (fun x s1 u => decide (u.mem = s1.mem) && (u.core x.c).sq.length == 1),
  on (.atomExch { atomW with op := 6 }) (fun s => s.modGroup 0 0 (lanes2 0x108 0x10C)) (fun _ _ u => u.mem.num (teamAt 0x10C) 4 == 5 && u.mem.num (teamAt 0x108) 4 == 5)]

def swaddT (v : Nat) : TCase :=
  let w : MWord := { mem with d := .v 6, a := .v 2, b := .v 3, c := .imm 5, t := 0x19 }
  let s := readyT (.swadd w) (fun th => { th with v := [(2, List.replicate 16 0x10108), (3, List.replicate 16 0x40000000), (4, List.replicate 16 5)], p := [(1, 1)] })
  { i := .swadd { w with hdr := ⟨false, false, 1⟩ }, s := { s with mem := s.mem.store (numBytes { store := .sram, unit := 0, off := 0x40108 } 8 v) },
    p := fun x u => (lanesOf (x.active 1)) == [0] && (stampedOf (BitVec.ofNat 64 (u.mem.num { store := .sram, unit := 0, off := 0x40108 } 8))).sv && (stampedOf (BitVec.ofNat 64 (u.mem.num { store := .sram, unit := 0, off := 0x40108 } 8))).factor == 5 }

def swaddTCases : List TCase := [swaddT 0, swaddT 0x0105000040800000]

theorem meets_Atomics : (∀ y ∈ atomCases, y.Meets) ∧ ∀ y ∈ swaddTCases, y.Meets := ⟨all_meet (by decide +kernel), all_tmeet (by decide +kernel)⟩

/-- StampedWords: registers of STEPRD at the budget; STEPADV by a step owner, by another, and past a sweep that is not complete; SWFOLD and SWMRG of stale words, of two factors, and of words that are neither. -/
def owner (b : Bool) (s : State) : State := (s.modTeam 0 (fun T => { T with launch := { T.launch with stepown := b } })).modGroup 0 0 (fun G => { G with priv := false })
def gstepAt (n : DWord) (sw : List (DWord × List (Nat × Nat))) (s : State) : State := (s.setStep n).modPkg (fun p => { p with sweeps := sw })
def words (a b : DWord) (s : State) : State := s.modGroup 0 0 (fun G => { G with s := [(2, a.setWidth 32), (3, (a >>> 32).setWidth 32), (4, b.setWidth 32), (5, (b >>> 32).setWidth 32)] })
def foldW : Instr := .swfold { ri with d := .s 8, a := .s 2, t := 0x19 }
def mergeW : Instr := .swmrg { ri with d := .s 8, a := .s 2, b := .s 4, t := 0x19 }
/-- Every module between die 0 and I/O die 0 is down. -/
def cutIo (s : State) : State := { s with links := [(40, { LinkMod.up with down := true }), (41, { LinkMod.up with down := true })] }
def stampCases : List Case := [
  on (.steprd { ri with d := .s 1022 }) (gstepAt 0x100000005 []) (fun _ _ u => (u.group? 0 0).map (fun H => (H.sreg 1022, H.sreg 1023)) == some (5, 1)),
  on (.stepadv { ri with d := .s 8 }) (owner false) (fun x s1 u => !(x.T.launch.stepown || x.G.priv) && trapped x s1 { cause := 0x06 } u),
  on (.stepadv { ri with d := .s 8 }) (fun s => gstepAt 8191 [(0, [(0, 1)])] (owner true s)) (fun x s1 u => s1.relDone x.c x.t x.g (s1.ctl.stamp + 1) && u.pkg.gstep == 8191 && (s8 u).map (·.1) == some 1),
  on (.stepadv { ri with d := .s 8 }) (fun s => gstepAt 8191 [] (owner true s)) (fun x s1 u => s1.relDone x.c x.t x.g (s1.ctl.stamp + 1) && u.pkg.gstep == 8192 && u.pkg.sweeps.length == 1 && (s8 u).map (·.1) == some 0),
  on (.stepadv { ri with d := .s 8 }) (fun s => pendingStore (owner true s)) (fun x s1 u => !s1.relDone x.c x.t x.g (s1.ctl.stamp + 1) && pcs u 0 15 == some (wordPc, wordPc, true)),
  on (.stepadv { ri with d := .s 8 }) (fun s => cutIo (owner true s)) (fun x s1 u => s1.relDone x.c x.t x.g (s1.ctl.stamp + 1) && !s1.reachesIo (dieOf x.c) 0 && (u.team? 0).map (·.phase) == some (.killed 0x50 false)),
  on foldW (fun s => gstepAt 32768 [] (words 0x010500003F800000 0 s)) (fun x s1 u => trapped x s1 { cause := 0x49, names := some x.ex } u), on foldW (fun s => gstepAt 32767 [] (words 0x3F800000 0 s)) (fun _ _ u => s8 u == some (0x3F800000, 0)),
  on mergeW (words 0x010500003F800000 0x010600003F800000) (fun x s1 u => trapped x s1 { cause := 0x48, names := some x.ex } u), on mergeW (fun s => gstepAt 32768 [] (words 0x010500003F800000 0x3F800000 s)) (fun x s1 u => trapped x s1 { cause := 0x49, names := some x.ex } u),
  on mergeW (words 0x3F800000 0x3F800000) (fun _ _ u => s8 u == some (0x40000000, 0))]

theorem meets_StampedWords : (∀ y ∈ stampCases, y.Meets) ∧ factorsClash 0x0105000040800000 0x010500003F800000 = false := ⟨all_meet (by decide +kernel), by decide +kernel⟩

/-- SystemRegisters: numbers of the map and others; handler registers; privilege; each writable register. -/
def sysrdCase (n : Nat) (d : BitVec 10) (f : Group → Group) (p : Ctx → State → State → Bool) : Case := on (.sysrd { ri with d := .s (d.setWidth _), xf := BitVec.ofNat 13 n }) (fun s => s.modGroup 0 0 f) (fun x s1 u => p x s1 u)
def syswrCase (k : RIWord → Instr) (n : Nat) (v : DWord) (f : Group → Group) (p : Ctx → State → State → Bool) : Case :=
  on (k { ri with a := .s 2, xf := BitVec.ofNat 13 n }) (fun s => s.modGroup 0 0 (fun G => f { G with s := [(2, v.setWidth 32), (3, (v >>> 32).setWidth 32)] })) p
def inH (G : Group) : Group := { G with inHandler := true }
def noPriv (G : Group) : Group := { G with priv := false }
def sysCases : List Case := [
  sysrdCase 3 8 id (fun x s1 u => trapped x s1 { cause := 0x02 } u), sysrdCase 0x31 8 id (fun x s1 u => trapped x s1 { cause := 0x02 } u), sysrdCase 0x10 9 id (fun x s1 u => sysrdCause 0x10 9 x == some 0x02 && trapped x s1 { cause := 0x02 } u),
  sysrdCase 0x33 8 (fun G => { inH G with elanes := 7 }) (fun x _ u => sysrdCause 0x33 8 x == none && (s8 u).map (·.1) == some 7), sysrdCase 0x40 8 id (fun x _ u => sysrdCause 0x40 8 x == none && s8 u == some (0, 0)),
  syswrCase .syswr 0x11 0 id (fun x s1 u => trapped x s1 { cause := 0x02 } u), syswrCase .syswr 0x31 0 id (fun x s1 u => trapped x s1 { cause := 0x02 } u), syswrCase .syswrFactbase 0x21 0 noPriv (fun x s1 u => trapped x s1 { cause := 0x06 } u),
  syswrCase .syswr 0 0xFFFFFFFF id (fun _ _ u => lst0 u == some 0xFF1F), syswrCase .syswr 1 0xFFFFFFFF id (fun _ _ u => (u.group? 0 0).map (fun H => H.settled.bcd) == some 0x73F), syswrCase .syswr 2 0xFFFFFFFF id (fun _ _ u => ((u.team? 0).bind (fun T => T.share? 0)).map (·.bcdm) == some 0x73F),
  syswrCase .syswr 0x31 0x10018 inH (fun _ _ u => (u.group? 0 0).map (fun H => H.epc) == some 0x10018), syswrCase .syswrTrnxAsat 4 0 id (fun _ _ u => ((u.team? 0).bind (fun T => T.share? 0)).map (·.trnx) == some false), syswrCase .syswrTrnxAsat 5 1 id (fun x s1 u => did x s1 s1 {} u),
  syswrCase .syswrRecbase 0x20 64 id (fun _ _ u => (u.team? 0).map (·.recbase) == some 64), syswrCase .syswrTrapvec 0x22 0x10018 noPriv (fun _ _ u => (u.team? 0).map (·.trapvec) == some 0x10018), syswrCase .syswrFactbase 0x21 128 id (fun _ _ u => u.pkg.factBase == 128),
  syswrCase .syswrGstep 0x10 8195 id (fun _ _ u => u.pkg.gstep == 8195 && u.pkg.sweeps.map (·.1) == [8192]), syswrCase .syswrArr 0x40 5 id (fun _ _ u => (u.team? 0).map (·.phase) == some .running)]

theorem meets_SystemRegisters : ∀ y ∈ sysCases, y.Meets := all_meet (by decide +kernel)

/-- A launch record of one slice thread, with DONE in the page of the word, for task `n` with `deps` dependencies; its CHECK as R343 computes it. -/
def sliceRecord (n deps : Nat) (done : Nat) : List Byte :=
  let b := natBytes 4 1 ++ natBytes 32 1 ++ natBytes 4 (n + 65536 * deps) ++ natBytes 12 0 ++ natBytes 8 0xFFFFFFFFFFFFFFFF ++ natBytes 4 0 ++ natBytes 24 0x10000 ++ natBytes 8 done ++ natBytes 32 0
  b.take 60 ++ natBytes 4 (crc32c b) ++ b.drop 64
def queue0 : WorkQueue := { WorkQueue.off with ring := 0x10100, log2n := 4, en := true, priv := true, priomax := 7, tidBase := 2, tidCount := 8, bell := 1 }
/-- The placed package with queue 0, whose first record is at 0x10100. -/
def queued (bs : List Byte) (q : WorkQueue) (s : State) : State :=
  { s with mem := s.mem.store (bs.zipIdx.map (fun b => ({ store := .sram, unit := 0, off := 0x40100 + b.2 }, b.1))), sched := { s.sched with queues := [(0, q)] } }
def sliceLaunch : Launch := launchOf (sliceRecord 5 0 0x10200)
def entered (n : Nat) (e : Task) (s : State) : State := s.modTask n (fun _ => e)
def task5 : Task := { Task.free with st := .ready, launch := some sliceLaunch, queue := 0 }

/-- Tasks: TDEC of the last id of the window and of one past it; TLAUNCH of a misaligned record, of one that is not mapped, of one that is admitted, busy and refused. -/
def tdecCase (n : Word) (p : Ctx → State → State → Bool) : Case := on (.tdec { ri with a := .s 2 }) (fun s => queued [] queue0 (s.modGroup 0 0 (fun G => { G with s := [(2, n)] }))) p
def tlaunchCase (a : Word) (bs : List Byte) (g : State → State) (p : Ctx → State → State → Bool) : Case := on (.tlaunch { ri with d := .s 8, a := .s 2 }) (fun s => g (queued bs queue0 (s.modGroup 0 0 (fun G => { G with s := [(2, a)] })))) p
def gave (u : State) (v : Word) : Bool := (s8 u).map (·.1) == some v
def taskCases : List Case := [
  tdecCase 65536 (fun x s1 u => trapped x s1 { cause := 0x02 } u), tdecCase 10 (fun x s1 u => !(s1.queue x.T.queue).window 10 && trapped x s1 { cause := 0x11 } u), tdecCase 1 (fun x s1 u => trapped x s1 { cause := 0x11 } u),
  tdecCase 9 (fun x s1 u => s1.relDone x.c x.t x.g (s1.ctl.stamp + 1) && u.sched.decs == [{ task := 9 }]),
  { tdecCase 9 (fun x s1 u => !s1.relDone x.c x.t x.g (s1.ctl.stamp + 1) && u.sched.decs.isEmpty && pcs u 0 15 == some (wordPc, wordPc, true)) with s := pendingStore (tdecCase 9 (fun _ _ _ => true)).s },
  { tdecCase 2 (fun x s1 u => !s1.reachesIo (dieOf x.c) 0 && (u.team? 0).map (·.phase) == some (.killed 0x50 false)) with s := cutIo (tdecCase 2 (fun _ _ _ => true)).s },
  tlaunchCase 0x20000 [] absentPage (fun x s1 u => s1.translate x.T.asn Need.load false 0x20000 == .resid && pcs u 0 15 == some (wordPc, wordPc, true)),
  tlaunchCase 0x10140 [] id (fun x s1 u => trapped x s1 { cause := 0x16, eaddr := none } u), tlaunchCase 0x30000 [] id (fun x s1 u => trapped x s1 { cause := 0x10, eaddr := none } u),
  tlaunchCase 0x10100 (sliceRecord 5 0 0x10200) id (fun x s1 u => s1.admission (s1.queue x.T.queue) 0x10100 == .ok sliceLaunch && gave u 0 && (u.task 5).st == .ready),
  tlaunchCase 0x10100 (sliceRecord 5 0 0x10200) (entered 5 task5) (fun x s1 u => s1.admission (s1.queue x.T.queue) 0x10100 == .busy sliceLaunch && gave u 2),
  tlaunchCase 0x10100 (sliceRecord 10 0 0x10200) id (fun x s1 u => (match s1.admission (s1.queue x.T.queue) 0x10100 with | .refused _ r => r == 3 | _ => false) && gave u 1), tlaunchCase 0x10100 (sliceRecord 5 0 0x50000) id (fun x s1 u => s1.admission (s1.queue x.T.queue) 0x10100 == .unreadable && gave u 1)]

/-- Tasks, the events: a doorbell on a queue that is off, beyond the ring and at its border; a descriptor; decrements to 0 and to another count; admission of each kind; kills and a completion. -/
def base (g : State → State) : State := g (ready (.nop false) id)
def taskEvents : List Bool := [
  idle (.doorbell 1 3 5) (base id), ev (.doorbell 1 0 17) (base (queued [] queue0)) (fun u => (u.queue 0).err && !(u.queue 0).en && u.pkg.irqs == [(0, 0)]), ev (.doorbell 0 0 16) (base (queued [] queue0)) (fun u => (u.queue 0).bell == 16),
  ev (.queueDescriptorWrite 131071 (BitVec.ofNat 512 (0x10100 + 2 ^ 64 * 4 + 2 ^ 72 + 2 ^ 128 * 8))) (base id) (fun u => (u.queue 131071).en && (u.queue 131071).tidCount == 8 && (u.queue 131071).ring == 0x10100),
  ev .taskDecrement (base (fun s => (entered 5 { task5 with st := .waiting, counter := 1 } s).sendDec 5)) (fun u => (u.task 5).st == .ready && (u.task 5).counter == 0), ev .taskDecrement (base (fun s => (entered 5 { task5 with st := .waiting, counter := 2 } s).sendDec 5)) (fun u => (u.task 5).st == .waiting && u.sched.decs.isEmpty),
  ev .taskDecrement (base (fun s => s.sendDec 6)) (fun u => (u.task 6).counter == 65535 && (u.task 6).st == .free),
  ev (.admission 0) (base (queued (sliceRecord 5 1 0x10200) queue0)) (fun u => (u.task 5).st == .waiting && (u.task 5).counter == 1 && (u.queue 0).head == 1 && u.sched.turn == 0), idle (.admission 0) (base (fun s => entered 5 task5 (queued (sliceRecord 5 0 0x10200) queue0 s))),
  ev (.admission 0) (base (queued (sliceRecord 5 0 0x50000) queue0)) (fun u => (u.queue 0).err && u.pkg.irqs == [(0, 0)]), ev (.admission 0) (base (queued (sliceRecord 11 0 0x10200) queue0)) (fun u => (u.queue 0).head == 1 && u.mem.num { store := .sram, unit := 0, off := 0x40208 } 1 == 1),
  ev (.taskKill 5) (base (entered 5 { task5 with st := .waiting, counter := 3 })) (fun u => (u.task 5).st == .free && (u.task 5).counter == 3 && u.mem.num { store := .sram, unit := 0, off := 0x40208 } 1 == 3), ev (.taskKill 5) (base (entered 5 task5)) (fun u => (u.task 5).killed),
  (let s := base (entered 5 { task5 with nextTeam := 1, launch := some { sliceLaunch with kind := 0, succv := true, succ := 9 } })
   !s.taskLives 5 && ev (.taskCompletion 5) s (fun u => (u.task 5).st == .free && (u.task 9).counter == 65535 && u.mem.num { store := .sram, unit := 0, off := 0x40208 } 1 == 0))]

theorem meets_Tasks : (∀ y ∈ taskCases, y.Meets) ∧ taskEvents.all id = true := ⟨all_meet (by decide +kernel), by decide +kernel⟩

/-- Copies: a fill of 8-byte elements from a register that begins no pair; a stage above 15; a side that cannot be opened; a layout that the table does not accept; a fill that joins the queue; a full queue; a record that is not cached. -/
def fillW : EWord := { cpe with stg := true, dside := ⟨0, 0, 1⟩, sside := ⟨3, 0, 4⟩, p0 := .s 2, p1 := .s 3 }
def copyCase (i : Instr) (r k : Word) (y : LayBits) (p : Ctx → State → State → Bool) : Case := on i (fun s => s.modGroup 0 0 (fun G => { G with s := [(2, r), (3, k), (4, 0x1234)], l := [(1, y)] })) p
def cmd0 (w : EWord) (x : Ctx) : CopyCmd :=
  { plainCmd x.i x.t x.g x.G.core x.T.asn { sel := 0, num := 0, lay := 0, recAddr := 0, image := none, range := none } with
    dim := w.dim.toNat, fill := x.env.s (fillReg w + 1) ++ x.env.s (fillReg w), ver := (suffixesOf w x.env).ver, stage := (suffixesOf w x.env).stage, tdec := none, sts := none }
def zeroW : EWord := { cpe with dside := ⟨2, 0, 1⟩, sside := ⟨1, 15, 0⟩ }
def copyCases : List Case := [
  copyCase (.cpyf { fillW with sside := ⟨3, 0, 5⟩ }) 7 15 (BitVec.ofNat 1024 (2 ||| (1 <<< 32) ||| ((1 + 0x10 + 0x6000 + 0x20000000) <<< 704))) (fun x s1 u =>
    eszBits (layoutOf (x.layout s1 1)).esz == 64 && fillReg { fillW with sside := ⟨3, 0, 5⟩ } % 2 == 1 && trapped x s1 { cause := 0x02 } u),
  copyCase (.cpyf fillW) 7 16 tile0 (fun x s1 u => (suffixesOf fillW x.env).cause x.sh.scratchLen == some 0x02 && trapped x s1 { cause := 0x02 } u),
  copyCase (.cpyf { fillW with dside := ⟨2, 31, 1⟩ }) 7 15 tile0 (fun x s1 u => (match copyOpen { fillW with dside := ⟨2, 31, 1⟩ } .cpyf x s1 (cmd0 fillW x) with | .cause _ c => c == 0x41 | _ => false) && (u.team? 0).map (·.phase) == some (.killed 0x41 false)),
  copyCase (.cpyf fillW) 7 15 (kind 3) (fun x s1 u => (match copyOpen fillW .cpyf x s1 (cmd0 fillW x) with | .ok s2 m => (s2.copyChecks x.T x.sh m).2 == some 0x20 | _ => false) && (u.team? 0).map (·.phase) == some (.killed 0x20 false)),
  copyCase (.cpyf fillW) 7 15 tile0 (fun x s1 u => (match copyOpen fillW .cpyf x s1 (cmd0 fillW x) with | .ok s2 m => (s2.copyChecks x.T x.sh m).2 == none | _ => false) && (u.core 0).cq.length == 1 && stage7 u == some { full := false, pending := 1 } && decide (u.mem = s1.mem)),
  { copyCase (.cpyf fillW) 7 15 tile0 (fun x s1 u => (match copyOpen fillW .cpyf x s1 (cmd0 fillW x) with | .ok s2 _ => (s2.core x.c).cq.length == 64 | _ => false) && stage7 u == some { full := false, pending := 0 } && (u.core 0).cq.length == 64) with
    s := (copyCase (.cpyf fillW) 7 15 tile0 (fun _ _ _ => true)).s.modCore 0 (fun k => { k with cq := List.replicate 64 (plainCmd (.cpyf fillW) 1 0 0 0 { sel := 0, num := 0, lay := 0, recAddr := 0, image := none, range := none }) }) },
  copyCase (.cpyf { fillW with dside := ⟨1, 0, 1⟩ }) 7 15 tile0 (fun x s1 u => (match copyOpen { fillW with dside := ⟨1, 0, 1⟩ } .cpyf x s1 (cmd0 fillW x) with | .stall _ => true | _ => false) && (u.core 0).cq.isEmpty && !(u.core 0).fills.isEmpty && pcs u 0 15 == some (wordPc, wordPc, true))]

/-- The fill issued; then started; then complete, in a small layout. -/
def copyS (f : State → State) : Option State := then_ (.cpyf fillW) (f ((ready (.cpyf fillW) (fun G => { G with s := [(2, 7), (3, 15), (4, 0x1234)], l := [(1, lay2 2 1 2 8)] }))))
def copyEvents : List Bool := [
  ((copyS id).map (fun s => (s.core 0).cq.length == 1 && (s.core 0).cur.isNone && idle (.copyStart 0) (s.modTeam 0 (fun T => { T with phase := .placed })) &&
    ev (.copyStart 0) s (fun u => (u.core 0).cur.isSome && (u.core 0).cq.isEmpty && ev (.copyCompletion 0) u (fun v => (v.core 0).cur.isNone && stage7 v == some { full := true, pending := 0 } &&
      v.mem.num (teamAt 0) 4 == 0x12341234 && v.mem.num (teamAt 16) 4 == 0x12341234 && v.mem.num (teamAt 4) 4 == 0)))).getD false,
  ((copyS id).map (fun s => ev (.copyStart 0) (s.modCore 0 (fun k => { k with cq := k.cq.map (fun m => { m with dst := { m.dst with lay := lay2 2 1 2 40000 } }) })) (fun u => (u.core 0).cur.isNone))).getD false]

theorem meets_Copies : (∀ y ∈ copyCases, y.Meets) ∧ copyEvents.all id = true := ⟨all_meet (by decide +kernel), by decide +kernel⟩

/-- MatrixIssue: units with and without a waiting instruction; operands that open and pass, that open and fail, and that do not open; branches of the stream; the end of it. -/
def mmaW : QWord := { mat with ta := 0x11, tb := 0x11, x := ⟨0, 0, 1⟩, y := ⟨0, 0, 1⟩, tile := 3 }
def drnW : QWord := { mat with ta := 0x10, tc := 0x10, x := ⟨0, 0, 2⟩, z := Side.none, tile := 3 }
def busy (d : Bool) (sh : Share) : Share :=
  let m : MatCmd := { instr := .aclr mat, pc := wordPc, tile := 0, count := 1, a := none, b := none, z := none, order := 0 }
  if d then { sh with drain := { sh.drain with waiting := some m } } else { sh with mul := { sh.mul with waiting := some m } }
def laid (y : LayBits) (sh : Share) : Share := { sh with seq := { sh.seq with l := [(1, y), (2, BitVec.ofNat 1024 (64 ||| (1 <<< 32) ||| (64 <<< 64) ||| (64 <<< 96) ||| ((2 + 0x30 + 0x5000 + 0x20000000) <<< 704)))] } }
def stopped (u : State) : Bool := (u.team? 0).map (·.phase) != some .running || (seq0 u).map (·.1) == some .stopped
def waits (d : Bool) (u : State) : Bool := (((u.team? 0).bind (fun T => T.share? 0)).map (fun sh => if d then sh.drain.waiting.isSome else sh.mul.waiting.isSome)) == some true
def here (u : State) : Bool := (seq0 u).map (·.2) == some wordPc
def jumpS (i : Instr) (n : Word) (p : SeqCtx → State → Bool) : SCase := atS i (fun sh => { sh with seq := { sh.seq with q := [(4, n)] } }) p
def mloopW (imm : Word) : Instr := .mloop { ri with isImm := true, d := .s 4, imm := imm }
def inGraft (s : SCase) : SCase := { s with s := s.s.modTeam 0 (fun T => { T with launch := { T.launch with graft := true }, beds := wordBeds, shares := T.shares.map (fun sh => { sh with pinned := some 0 }) }) }
def matrixSCases : List SCase := [
  atS (.mma mmaW) (busy false) (fun x u => x.sh.mul.waiting.isSome && here u), atS (.aclr mat) (busy false) (fun x u => x.sh.mul.waiting.isSome && here u), atS (.adrn drnW) (busy true) (fun x u => x.sh.drain.waiting.isSome && here u),
  atS (.mma { mmaW with x := ⟨2, 5, 1⟩ }) id (fun _ u => stopped u), atS (.mma { mmaW with tile := 4 }) (laid (lay2 32 1 64 32)) (fun x u => x.sh.mul.waiting.isNone && stopped u), atS (.mma mmaW) (laid (lay2 64 1 32 64)) (fun _ u => stopped u),
  atS (.mma mmaW) (laid (lay2 32 1 64 32)) (fun x u => x.sh.mul.waiting.isNone && waits false u && seq0 u == some (.running, wordPc + 12)),
  atS (.aclr { mat with tile := 3, cnt := 1 }) id (fun x u => decide (x.sh.tiles.length < 5) && stopped u), atS (.aclr { mat with tile := 3 }) id (fun x u => decide (3 + 1 ≤ x.sh.tiles.length) && waits false u),
  atS (.adrn { drnW with tile := 4 }) (laid 0) (fun x u => x.drainEarly { drnW with tile := 4 } && stopped u), atS (.adrn { drnW with x := ⟨2, 5, 2⟩ }) (laid 0) (fun x u => x.drainEarly { drnW with x := ⟨2, 5, 2⟩ } && stopped u),
  (let c := atS (.adrn { drnW with x := ⟨1, 0, 2⟩ }) (laid 0) (fun x u => !x.drainEarly { drnW with x := ⟨1, 0, 2⟩ } && stopped u)
   { c with s := recsAt [] [{ bound 0 with by_ := some (.seq 0 0), cause := some 0x10 }] c.s }),
  atS (.adrn { drnW with x := ⟨0, 0, 1⟩ }) (laid 0) (fun x u => !x.drainEarly { drnW with x := ⟨0, 0, 1⟩ } && stopped u), atS (.adrn drnW) (laid 0) (fun x u => !x.drainEarly drnW && x.sh.drain.waiting.isNone && waits true u),
  jumpS (mloopW 24) 1 (fun _ u => seq0 u == some (.running, wordPc + 12)), jumpS (mloopW 24) 2 (fun _ u => seq0 u == some (.running, wordPc + 24)), jumpS (mloopW 5) 0 (fun _ u => stopped u), jumpS (.mjmp { ri with isImm := true, imm := 48 }) 0 (fun _ u => seq0 u == some (.running, wordPc + 48)),
  inGraft (jumpS (mloopW 0x100) 2 (fun x u => x.T.launch.graft && !x.T.inBed x.sh.pinned (x.pc + 0x100) && stopped u)), inGraft (jumpS (mloopW 24) 2 (fun x u => x.T.inBed x.sh.pinned (x.pc + 24) && seq0 u == some (.running, wordPc + 24))),
  atS (.mend ri) (busy true) (fun x u => !x.sh.matrixIdle && here u), atS (.mend ri) id (fun x u => x.sh.matrixIdle && (seq0 u).map (·.1) == some .ended),
  atS (.movi { ri with isImm := true, d := .s 63, imm := 7, t := 3 }) id (fun _ u => (((u.team? 0).bind (fun T => T.share? 0)).map (fun sh => spGet 0 sh.seq.q 63)) == some (7 : Word))]

theorem meets_MatrixIssue : ∀ y ∈ matrixSCases, y.Meets := all_smeet (by decide +kernel)

/-- MatrixProgress: a waiting instruction behind a started one, and one that starts, a drain that was held; a commit of ACLR and of a multiplication; a drain that completes; a hung engine. -/
def withShare (f : Share → Share) : State := readyS (.mend ri) f
def aclrCmd : MatCmd := { instr := .aclr mat, pc := wordPc, tile := 3, count := 1, a := none, b := none, z := none, order := 0 }
def runOf (i : Instr) (adds : List (List Word)) : MatRun := { cmd := { aclrCmd with instr := i }, held := false, adds := adds, outs := [], captures := [], trnx := false, degree := 1 }
def share0 (u : State) : Option Share := (u.team? 0).bind (fun T => T.share? 0)
/-- A drain held at its first write, into a tile in team space; its page is no longer away, so that it goes on. -/
def heldDrain : State :=
  let m : MatCmd := { aclrCmd with instr := .adrn drnW, z := none, a := some { sel := 0, num := 0, lay := lay2 64 1 64 64, recAddr := 0, image := none, range := none } }
  withShare (fun sh => { sh with drain := { started := some { runOf (.adrn drnW) [] with cmd := m, held := true }, waiting := none } })
def matrixEvents : List Bool := [
  ev (.matrixInstructionStart 0 0 true) heldDrain (fun u => (share0 u).map (fun sh => sh.drain.started.map (·.held)) == some (some false)),
  idle (.matrixInstructionStart 0 0 false) (withShare (fun sh => { sh with mul := { started := some (runOf (.aclr mat) []), waiting := some aclrCmd } })),
  ev (.matrixInstructionStart 0 0 false) (withShare (fun sh => { sh with mul := { started := none, waiting := some aclrCmd } })) (fun u => (share0 u).map (fun sh => (sh.mul.started.isSome, sh.mul.waiting)) == some (true, none)),
  ev (.adrnCompletion 0 0) (withShare (fun sh => { sh with drain := { started := some (runOf (.adrn drnW) []), waiting := none } })) (fun u => (share0 u).map (fun sh => (sh.drain.started.isNone, sh.bcdm)) == some (true, bcdWord 1 5)),
  (let s := withShare (fun sh => { sh with tiles := [], mul := { started := some (runOf (.aclr mat) []), waiting := none } })
   let s := s.modPkg (fun p => { p with time := 599187 })
   (share0 s).map (fun sh => sh.hung s.pkg.time.toNat) == some true && ev (.matrixEngineReset 0) s (fun u => (share0 u).map (fun sh => sh.mul) == some { started := none, waiting := none }))]

theorem meets_MatrixProgress : matrixEvents.all id = true ∧
    (share0 (withShare (fun sh => { sh with mul := { started := some (runOf (.mma mmaW) (List.replicate 4096 [0x3F800000])), waiting := none } }))).map (fun sh => (sh.mul.started.map (fun r => r.adds.length), sh.seq.st)) = some (some 4096, .running) := by decide +kernel

/-- RunEvents: a run given; lines at hand; a release over; a CWAIT past its time; a logged load replayed, and failed; a cause delivered, and held back by a handler; a group that retires. -/
def idleG (G : Group) : Group := { G with run := none, ready := true }
def shareLine (s : State) : State := s.modCore 0 (fun k => { k with istore := (upFrom 1 7).map (fun n => { asn := 0, addr := 0x10000 + 64 * BitVec.ofNat 64 n, data := wordLine 0, bad := false }) ++ k.istore })
def logLoad (a : DWord) : LogEntry := { acc := { instr := .ld { mem with d := .v 1, a := .v 2, t := 7 }, pc := wordPc, ex := 1, space := .glb, lanes := 1, regs := 1, elems := [{ lane := 0, addr := a, size := 4, reg := 0, sh := 0, data := 0, data2 := 0, fill := false }], step := 0, stamp := 0 }, mask := 1, failed := none, pages := [] }
def grp (f : Group → Group) : State := withTlb (shareLine (ready (.nop false) f))
def g0 (u : State) (p : Group → Bool) : Bool := match u.group? 0 0 with | some H => p H | none => false
def runEvents : List Bool := [
  (let s := grp idleG
   (s.who 0 0).map (fun w => s.groupReady w && !s.serviceFirst w.c 0 && s.quadReady w.c 0 == [(0, w.G)]) == some true && ev (.runIssue 0 0) s (fun u => g0 u (fun H => H.run.map (fun r => (r.act, r.count)) == some (0xFFFF, 0)))),
  (let s := grp (fun G => { G with run := none, ready := false })
   (s.who 0 0).map (fun w => s.wantsLines w && (s.missingLine w wordPc).isNone) == some true && ev (.instructionLineFetch 0 0) s (fun u => g0 u (fun H => H.ready))),
  ev (.groupResume 0 0) (grp (fun G => { idleG G with parks := [.release 5] })) (fun u => g0 u (fun H => H.parks.isEmpty && !H.ready)), idle (.groupResume 0 0) (pendingStore (grp (fun G => { idleG G with parks := [.release 5] }))),
  (let s := two (grp (fun G => { idleG G with parks := [.cwait 7 0 6 0 8 wordPc 3] }))
   s.cwaitTest 0 7 0 6 0 == some 1 && ev (.cwaitTimeout 0 0) s (fun u => g0 u (fun H => H.parks.isEmpty && H.sreg 8 == 1 && (H.lane 1).pc == wordPc + 12 && (H.lane 2).pc == wordPc))),
  ev (.operandLogReplay 0 0) (grp (fun G => { idleG G with log := [logLoad 0x1003C] })) (fun u => g0 u (fun H => H.log.isEmpty && (H.vreg 1 0).toNat % 65536 == 0x1F)), ev (.operandLogReplay 0 0) (grp (fun G => { idleG G with log := [logLoad 0x90000] })) (fun u => (u.team? 0).map (·.phase) == some (.killed 0x10 false) || g0 u (fun H => H.log.map (·.failed.isSome) == [true])),
  ev (.asyncCauseDelivery 0 0) (grp (fun G => { idleG G with causes := [{ cause := 0x40, src := .engine, rank := 0, eaddr := some 0 }] })) (fun u => (u.team? 0).map (·.phase) == some (.killed 0x40 false)),
  idle (.asyncCauseDelivery 0 0) (grp (fun G => { idleG G with inHandler := true, causes := [{ cause := 0x40, src := .engine, rank := 0, eaddr := some 0 }] })),
  ev (.groupRetire 0 0) (grp (fun G => { idleG (G.modLanes 0xFFFF (fun _ L => { L with hold := .exited })) with ready := false })) (fun u => g0 u (fun H => H.place == .retired))]

theorem meets_RunEvents : runEvents.all id = true := by decide +kernel

/-- A leaf of page 2, in the table of frame 3. -/
def leafOfPage2 (w : DWord) (s : State) : State := { s with mem := s.mem.store (numBytes { store := .sram, unit := 0, off := 3 * 65536 + 16 } 8 w.toNat) }
def fault2 (s : State) : State := s.modMmp (fun m => { m with faults := [(0, [{ asn := 0, page := 2, write := false, core := 0, slot := none }])] })
def slot2 (s : State) : State := (fault2 s).modMmp (fun m => { m with slots := [(3, { die := 0, frame := 9, asn := 0, page := 2, req := 0, posted := 0 })] })
def inLpddr (f : Nat) : DWord := BitVec.ofNat 64 (1 + 0x31E + 65536 * f)
def leaf2 (u : State) : Nat := u.mem.num { store := .sram, unit := 0, off := 3 * 65536 + 16 } 8
def atomicOf (k : AtomKind) : AtomReq := { kind := k, ty := 7, space := .glb, va := 0x10080, pa := { store := .sram, unit := 0, off := 0x40080 }, x := 3, y := 0, asn := 0, t := 0, g := 0, lane := 2, reply := true, stamp := 0, core := 0, coreRel := false, prm := false }

/-- A store to die 1, and every link of die 0 down. -/
def farStore (s : State) : State := s.modCore 0 (fun k => { k with sq := [{ stamp := 0, t := 0, g := 0, bytes := [({ store := .sram, unit := 1, off := 0x40080 }, 1)], red := none, stage := none, rel := false, coreRel := false }] })
def cutOff (s : State) : State := { s with links := (routeEdges 0 1).flatMap (fun e => (upFrom 0 4).map (fun m => (4 * e + m, { LinkMod.up with down := true }))) }

/-- MemoryEvents: each event where it happens, and where it is held back. -/
def memoryEvents : List Bool := [
  ev (.storePerform 0 0) (base pendingStore) (fun u => (u.core 0).sq.isEmpty && u.mem.byte { store := .sram, unit := 0, off := 0x40080 } == 1), idle (.storePerform 0 1) (base (fun s => (pendingStore s).modCore 0 (fun k => { k with sq := k.sq ++ k.sq }))),
  (let s := base (fun s => (stages s).modCore 0 (fun k => { k with sq := [{ stamp := 0, t := 0, g := 0, bytes := [], red := none, stage := some (7, 15), rel := true, coreRel := false }] }))
   s.mayPerform 0 [] ((s.core 0).sq.headD { stamp := 0, t := 0, g := 0, bytes := [], red := none, stage := none, rel := false, coreRel := false }) && ev (.storePerform 0 0) s (fun u => (u.core 0).sq.isEmpty && stage7 u == some { full := false, pending := 0 })),
  (let s := cutOff (base farStore)
   (s.core 0).sq.all (s.entryCut 0) && ev (.storePerform 0 0) s (fun u => (u.core 0).sq.isEmpty && (u.team? 0).map (·.phase) == some (.killed 0x50 false))),
  ev (.storePerform 0 0) (base (fun s => s.modCore 0 (fun k => { k with sq := [{ stamp := 0, t := 0, g := 0, bytes := [], red := some (atomicOf .add), stage := none, rel := false, coreRel := false }] }))) (fun u => (u.core 0).sq.isEmpty && u.pkg.svc.length == 1),
  (let r : AtomReq := { atomicOf .add with pa := { store := .sram, unit := 1, off := 0x40080 } }
   let e : SqEntry := { stamp := 0, t := 0, g := 0, bytes := [], red := some r, stage := none, rel := false, coreRel := false }
   let s := base (fun s => s.modCore 0 (fun k => { k with sq := [e] }))
   r.far && (FlitLoad.request r).hops == [(0, false)] && s.mayPerform 0 [] e && !s.entryCut 0 e &&
     ev (.flitReceive 0 2 0 true) (s.setLink 0 2 { LinkMod.up with there := { LinkDir.up with queue := [.request r] } }) (fun v => v.pkg.svc.map (·.2) == [[r]] && (v.link 0 2).there.replay.isEmpty)),
  ev (.atomicServiceRequest 0) (base (fun s => s.modPkg (fun p => { p with svc := [(0, [atomicOf .add])] }))) (fun u => u.mem.num { store := .sram, unit := 0, off := 0x40080 } 4 == BitVec.toNat (0x70030003 - 0x70030000 : Word) || g0 u (fun H => (spFind H.slots 2).isSome)),
  (let s := base (fun s => (s.modCore 0 (fun k => { k with quads := [(0, { holder := some (0, 0), lastSvc := false })] })).modPkg (fun p => { p with svc := [(0, [atomicOf .add])] }))
   !s.serviceTurn 0 && idle (.atomicServiceRequest 0) s),
  (let m := plainCmd (.cpyf fillW) 1 0 0 0 { sel := 0, num := 0, lay := 0, recAddr := 0, image := none, range := none }
   let s := base (fun s => (s.modCore 0 (fun k => { k with cur := some { cmd := { m with owned := [(atomicOf .add).pa.line] }, first := [], last := [], permits := [], delivered := 0, clipped := 0, degree := 1, cost := 0, captures := [] } })).modPkg (fun p => { p with svc := [(0, [atomicOf .add])] }))
   s.svcHeld (atomicOf .add) && s.serviceTurn 0 && idle (.atomicServiceRequest 0) s),
  ev (.recordFill 0 0 0x90000) (base (recsAt [] [bound 0x90000])) (fun u => (u.core 0).fills.map (·.cause) == [some 0x10]),
  ev (.recordFill 0 0 0x10100) (base (recsAt [] [bound 0x10100])) (fun u => (u.core 0).fills.map (·.cause) == [some 0x28] || (u.core 0).recs.length == 1),
  ev (.residencyFaultService 0 0) (base (fun s => fault2 (leafOfPage2 (inLpddr 9) { s with mem := s.mem.store (numBytes { store := .lpddr, unit := 0, off := 9 * 65536 + 8 } 4 77) }))) (fun u => (u.faultTable 0).isEmpty && leaf2 u % 128 / 64 == 1 && u.mem.num { store := .sram, unit := 0, off := leaf2 u / 65536 * 65536 + 8 } 4 == 77),
  ev (.residencyFaultService 0 0) (base (fun s => fault2 (leafOfPage2 (tableWord 9 0x31E) s))) (fun u => (u.faultTable 0).isEmpty),
  ev (.hostPageDeadline 3) (base slot2) (fun u => u.mmp.slots.isEmpty && (u.faultTable 0).isEmpty), idle (.hostPageDeadline 3) (base (fun s => (slot2 s).modMmp (fun m => { m with spaces := m.spaces.map (fun a => { a with deadline := 1 }) }))),
  ev (.pageResponse 3 2) (base slot2) (fun u => u.mmp.slots.isEmpty && (u.faultTable 0).isEmpty),
  ev (.pageResponse 3 1) (base (fun s => slot2 (leafOfPage2 (0x31E + 128 : DWord) s))) (fun u => u.mmp.slots.isEmpty && (u.faultTable 0).isEmpty && leaf2 u / 65536 == 9 && leaf2 u % 2 == 1),
  ev (.apertureWrite 3 65534 [7, 8]) (base slot2) (fun u => u.mem.num { store := .sram, unit := 0, off := 10 * 65536 - 2 } 2 == 0x807), ev (.apertureWrite 15 0 [7]) (base slot2) (fun u => u.pkg.errs.apDropped == 1),
  ev (.pageMove 0 0x20000 0) (base (leafOfPage2 (inLpddr 9))) (fun u => u.heldAt { store := .lpddr, unit := 0, off := 9 * 65536 } && ev (.pageMove 0 0x20000 0) u (fun v => !v.heldAt { store := .lpddr, unit := 0, off := 9 * 65536 } && leaf2 v / 65536 != 9)),
  ev (.registerStampedRegion 0 0x10000 65536) (base id) (fun u => u.mmp.stamped.map (fun d => (d.1, d.2.length)) == [(0, 1)]), (let s := withWindows [{ window 7 true false 0 with base := 0x10000 }] (base id); s.overWindow 0 0x10000 65536 && idle (.registerStampedRegion 0 0x10000 65536) s), ev (.registerLoggedRegion 0 0 0x10000 65536) (base id) (fun u => u.mmp.logged.map (fun d => (d.1, d.2.length)) == [(0, 1)]),
  idle (.undoAreaSize 0 65536) (base (fun s => (logged s).modMmp (fun m => { m with undo := [(0, { base := 0, size := 65536, used := [0], next := 1 })] }))), ev (.undoAreaSize 0 65536) (base logged) (fun u => (u.undoOf 0).size == 65536), ev (.undoAreaSize 0 131072) (base logged) (fun u => (u.undoOf 0).size == 131072),
  ev (.pruneSweep 0) (base (fun s => s.modPkg (fun p => { p with sweeps := [(8192, [(0, 0x40080 / 64)])] }))) (fun u => u.pkg.sweeps == [(8192, [])] && ev .sweepCompletion u (fun v => v.pkg.sweeps.isEmpty))]

theorem meets_MemoryEvents : memoryEvents.all id = true := by decide +kernel

/-- TeamEvents: each event where it happens, and where it does not. -/
def message (seq : Word) : MsgHdr := { kind := 1, vcount := 0, scount := 0, bed := none, target := wordPc, len := 0, seq := seq, at_ := .frame 0 0 }
def team0 (f : Team → Team) (s : State) : State := s.modTeam 0 f
def entry6 (L : Launch) (t0 : Nat) : Task := { Task.free with st := .ready, launch := some L, readyTime := t0 }
def smallLaunch : Launch := { wordLaunch 0x20 with prio := 1, scratch := 512, obuf := 0, tiles := 1, entryV := 24, param := 0x500000007 }
def wideLaunch : Launch := { smallLaunch with cores := 16, nv := 16, scratch := 2 ^ 20 }
def crowded (s : State) : State := (team0 (fun T => { T with shares := T.shares.flatMap (fun sh => (upFrom 0 16).map (fun c => { sh with core := c, scratchLen := 2 ^ 20 })) }) s).modSched (fun q =>
  { q with gangs := (upFrom 1 31).map (fun c => (100 + c, c, 0)), tasks := q.tasks ++ (upFrom 1 31).map (fun c => (100 + c, { Task.free with st := .ready, launch := some wideLaunch, readyAt := 1 })) })
def idleTeam : State := base (fun s => s.modGroup 0 0 idleG)
def killedT (c : Byte) (b : Bool) (s : State) : State := entered 0 { task5 with launch := some (wordLaunch 0) } (team0 (fun T => { T with phase := .killed c b }) s)

/-- The idle team put aside, its area zero but for CHECK, which is off by `b`. -/
def saved (b : Byte) : State :=
  let s := entered 0 { task5 with launch := some (wordLaunch 0) } idleTeam
  { s with teams := [], sched := { s.sched with saved := s.teams.map (fun T => { team := T, cells := [], poison := [], cmds := [], area := framePlace 0 20 false, areaLen := 128, readyTime := 0, aged := none }) },
           mem := s.mem.store (((natBytes 4 (crc32c (List.replicate 124 0) + b.toNat)).zipIdx.map (fun y => ((framePlace 0 20 false).add (124 + y.2), y.1)))) }

def bed0 : Bed := { base := wordPc, lines := 1, cores := [] }
def teamEvents : List Bool := [
  ev (.messageInstallation 0 0) (base (fun s => team0 (fun T => { T with groups := T.groups ++ T.groups.map (fun G => { G with gid := 1, run := none, place := .message (message 4) }) }) s)) (fun u => (u.group? 0 1).map (·.place) == some (.slot 1)),
  ev (.messageInstallation 0 0) (base (fun s => team0 (fun T => { T with groups := T.groups ++ T.groups.map (fun G => { G.modLanes 0xFFFF (fun _ L => { L with hold := .bar 3 2 }) with gid := 1, run := none, place := .message (message 4) }) }) s)) (fun u => (u.group? 0 1).map (·.counted) == some true && (bar3 u).map (·.arrived) == some 1),
  ev (.addCutting 0 0 0) (base (fun s => team0 (fun T => { T with launch := { T.launch with graft := true, bedmap := 0x10200 }, beds := [(0, bed0)] }) { s with mem := s.mem.store ((bedBytes bed0).zipIdx.map (fun b => ({ store := .sram, unit := 0, off := 0x40200 + b.2 }, b.1))) })) (fun u => u.mem.num { store := .sram, unit := 0, off := 0x4020B } 1 == 1 && (u.team? 0).map (fun T => T.shares.map (·.pinned)) == some [some 0]),
  ev (.overflowAreaReclaim 0 64) (base (team0 (fun T => { T with ovfBytes := 64 }))) (fun u => (u.team? 0).map (·.ovfBytes) == some 0),
  ev (.placement 5) (base (entered 5 { task5 with nextTeam := 0 })) (fun u => u.threads.map (fun th => (th.slice, th.num, th.task, th.pc)) == [(0, 0, 5, wordPc)]),
  (let s := base (entered 6 (entry6 smallLaunch 0))
   (s.readyOf 6 (s.task 6)).map (fun r => ((s.placesFor r).isSome, s.outranked r, r.frames)) == some (true, false, 3) && ev (.placement 6) s (fun u => (u.teams.map (fun T => (T.id, T.phase, T.task)) == [(0, .running, 0), (1, .placed, 6)]) &&
     (u.group? 1 0).map (fun G => ((G.lane 0).pc, G.sreg 0, G.sreg 1, G.sreg 2)) == some (wordPc + 24, 7, 5, 0))),
  (let s := crowded (base (entered 6 (entry6 { smallLaunch with scratch := 2 ^ 20 } 0)))
   (s.readyOf 6 (s.task 6)).map (fun r => (s.placesFor r).isSome) == some false && ev (.placement 6) s (fun u => u.pkg.halt == some [0])),
  (let L : Launch := { smallLaunch with cores := 2, scratch := 2 ^ 21 }
   let s := (base (entered 6 (entry6 L 0))).modPkg (fun p => { p with time := 50000 })
   (s.readyOf 6 (s.task 6)).map s.fitsNow == some false && ev (.gangAging 6) s (fun u => u.sched.gangs.map (·.1) == [6])),
  ev (.transformBinding 0 0) (base (fun s => (team0 (fun T => { T with phase := .placed }) s).modShare 0 0 (fun sh => { sh with bound := 3 }))) (fun u => (share0 u).map (·.bound) == some 4),
  ev (.transformBinding 0 0) (base (fun s => entered 0 { task5 with launch := some (wordLaunch 0) } ((team0 (fun T => { T with phase := .placed, launch := { T.launch with binds := [0x90000] } }) s).modShare 0 0 (fun sh => { sh with bound := 0 })))) (fun u => (u.task 0).failed == some (0x10, 0)),
  ev (.teamStart 0) (base (fun s => (team0 (fun T => { T with phase := .placed }) s).modShare 0 0 (fun sh => { sh with bound := 4 }))) (fun u => (u.team? 0).map (·.phase) == some .running),
  (let s := base (fun s => (s.modGroup 0 0 (fun G => { idleG G with place := .retired })))
   (s.team? 0).map (fun T => match T.share? 0 with | some sh => s.shareDone T 0 sh | none => false) == some true && ev (.shareRetire 0 0) s (fun u => u.teams.isEmpty && (u.task 0).doneTeams == 1)),
  (let s := base (fun s => team0 (fun T => { T with shares := T.shares ++ T.shares.map (fun sh => { sh with core := 1, homed := [1] }), groups := T.groups ++ T.groups.map (fun G => { G with gid := 1, core := 1 }) }) (s.modGroup 0 0 (fun G => { idleG G with place := .retired })))
   (s.team? 0).map (fun T => match T.share? 0 with | some sh => s.shareDone T 0 sh | none => false) == some true && ev (.shareRetire 0 0) s (fun u => (u.team? 0).map (fun T => T.shares.map (·.retired)) == some [true, false])),
  ev (.kill 0 0x31) (base (fun s => killedT 0x31 false (pendingStore s))) (fun u => u.teams.isEmpty && (u.core 0).sq.isEmpty && (u.task 0).failed == some (0x31, 0)), idle (.kill 0 0x30) (base (killedT 0x31 true)),
  idle (.preemptionRequest [0]) (base (fun s => s.modPkg (fun p => { p with halt := some [] }))),
  ev (.preemptionRequest [0, 1]) (withShare (fun sh => { sh with mul := { started := some (runOf (.aclr mat) []), waiting := some { aclrCmd with pc := wordPc + 12, order := 9 } }, seq := { sh.seq with pc := wordPc + 24 } })) (fun u => u.pkg.halt == some [0] && (share0 u).map (fun sh => (sh.seq.pc, sh.mul)) == some (wordPc, { started := none, waiting := none })),
  (let s := idleTeam.modPkg (fun p => { p with halt := some [0] })
   (s.freeLpddr 0 5).isSome && ev (.contextSave 0) s (fun u => u.teams.isEmpty && u.sched.saved.length == 1)),
  (let s := saved 0
   s.sched.saved.map (fun x => (s.placesFor (x.ready 0)).isSome && s.areaOk x) == [true] && ev (.contextRestore 0) s (fun r => r.sched.saved.isEmpty && (r.group? 0 0).map (fun H => (H.lane 3).pc) == some wordPc)),
  (let s := saved 1
   s.sched.saved.map (fun x => s.areaOk x) == [false] && ev (.contextRestore 0) s (fun r => (r.task 0).failed == some (0x50, 0)))]

theorem meets_TeamEvents : teamEvents.all id = true := by decide +kernel

/-- SystemEvents: windows. The entry of window 5: TX and RX, mode 0, one destination and one member in package 1, 4096 bytes of the page of the word, DEADLINE 5. -/
def entryBytes : List Byte := natBytes 2 5 ++ [3, 0, 1, 1, 0, 0] ++ natBytes 8 0x10000 ++ natBytes 4 4096 ++ natBytes 4 0 ++ natBytes 4 0 ++ natBytes 4 5 ++ natBytes 32 0 ++ natBytes 256 (1 + 65536 * 9) ++ natBytes 256 (1 + 65536 * 9)
def entry5 : BitVec 4608 := imageOf 4608 entryBytes
def window5 : Window := { window 5 true true 0 with base := 0x10000, size := 4096 }
def ones4 : FrameRec := { txWin := 9, rxWin := 5, offset := 8, len := 4, q8 := false, data := [1, 2, 3, 4] }
def session0 : Session := { id := 0, peer := 1, open_ := true, nextSeq := 1, recvSeq := 0, kept := [], heldFrames := [], keyFrames := 0, asked := false, keyGen := 1, txSalt := 0, rxSalt := 0, lastSent := 0 }
def frame0 (kind : Nat) (seq ack : DWord) (tagOk : Bool) (rs : List FrameRec) : Frame := { session := 0, peer := 1, kind := kind, path := 0, seq := seq, ack := ack, tagOk := tagOk, checkOk := true, records := rs }
def linked (f : Session → Session) (s : State) : State := { s with refl := { s.refl with windows := [window5], sessions := [f session0] } }
def sess (u : State) (p : Session → Bool) : Bool := match u.session? 0 1 with | some y => p y | none => false
def win (u : State) (n : Nat) (p : Window → Bool) : Bool := match u.window? n with | some w => p w | none => false
def atTime (n : DWord) (s : State) : State := s.modPkg (fun p => { p with time := n })
def loopDest (w : Window) : Window := { w with dests := [(0, 6), (2, 9)], caps := [{ recs := [{ ones4 with txWin := 5 }], bytes := 4, bad := false }] }

def windowEvents : List Bool := [
  (winEntryOf (bytesOf entry5)).fieldsOk (bytesOf entry5) 0 && ev (.windowMap 0 entry5) (base id) (fun u => win u 5 (fun w => w.tx && w.rx && w.size == 4096 && w.deadline == 5 && w.dests == [(1, 9)] && w.members.length == 1)), idle (.windowMap 0 entry5) (base (withWindows [window5])),
  ev (.windowUnmap 7) (base two) (fun u => (u.window? 7).isNone && (u.window? 4095).isSome),
  ev (.bindWindowCounter 7 0 5 9) (base two) (fun u => u.sched.decs == [{ task := 9 }] && u.refl.binds.isEmpty), ev (.bindWindowCounter 7 64 9 9) (base two) (fun u => u.sched.decs.isEmpty && u.refl.binds.length == 1 && ev (.bindingRemoval 0) u (fun v => v.refl.binds.isEmpty)),
  (let s := base (withWindows [{ window 7 true true 0 with members := [{ landed := 5, live := false, heard := 0 }], copies := [] }])
   ev (.bindWindowCounter 7 0 5 9) s (fun u => u.sched.decs.isEmpty && u.refl.binds.length == 1)),
  (let s := base (linked id)
   let w := { window5 with mode := 1 }
   let r := { ones4 with offset := 2 }
   !landable r w && (match (s.setWindow w).landRecs 1 [r] with | .ok u => u.pkg.errs.misaligned == 1 && win u 5 (fun v => (v.members[0]?).map (·.live) == some false) | _ => false)),
  (let s := base (linked id)
   window5.memberOf 1 9 == some 0 && landable ones4 window5 && !landable { ones4 with offset := 4093 } window5 && (s.landBytes window5 ones4).map (·.2) == [1, 2, 3, 4]),
  ev (.loopbackLanding 7 0) (base (withWindows [loopDest (window 7 true true 0), window 6 false true 1])) (fun u => win u 7 (fun w => (w.paths[0]?).map (·.live) == some false)),
  ev (.loopbackLanding 5 0) (base (withWindows [loopDest window5, { window 6 false true 0 with base := 0x10000, size := 4096, mems := [(0, 5)] }])) (fun u => win u 5 (fun w => (w.paths[0]?).map (·.ackedCaps) == some 1) && u.mem.num { store := .sram, unit := 0, off := 0x40008 } 4 == 0x04030201),
  idle (.counterCopyUpdate 0 7) (base two), ev (.counterCopyUpdate 0 7) (base (withWindows [{ window 7 true true 0 with updates := [(0, [{ captured := 9, sent := 8, landed := [], txLive := 0, rxLive := 0 }])] }])) (fun u => win u 7 (fun w => (w.copyOf 0).captured == 9)),
  ev (.dataFrame (frame0 0 1 0 false [])) (base (linked id)) (fun u => u.pkg.errs.badTags == 1), ev (.dataFrame (frame0 0 0 0 true [])) (base (linked id)) (fun u => sess u (fun y => y.recvSeq == 0)),
  ev (.dataFrame (frame0 0 1 0 true [ones4])) (base (linked id)) (fun u => sess u (fun y => y.recvSeq == 1 && y.heldFrames.isEmpty) && u.mem.num { store := .sram, unit := 0, off := 0x40008 } 4 == 0x04030201 && win u 5 (fun w => (w.members[0]?).map (·.landed) == some 9)),
  ev (.acknowledgement (frame0 1 0 3 true [])) (base (linked (fun x => { x with kept := [(frame0 0 3 0 true [], 0, []), (frame0 0 4 0 true [], 0, [])] }))) (fun u => sess u (fun y => y.kept.map (·.1.seq) == [4])), ev (.acknowledgement (frame0 1 0 3 false [])) (base (linked id)) (fun u => u.pkg.errs.badTags == 1),
  ev (.keepaliveReceipt (frame0 2 0 0 true [])) (base (linked id)) (fun u => sess u (·.open_)), ev (.keepaliveReceipt (frame0 2 0 0 false [])) (base (linked id)) (fun u => u.pkg.errs.badTags == 1),
  idle (.keepalive 0) (base (fun s => atTime 1249 (linked id s))), ev (.keepalive 0) (base (fun s => atTime 1250 (linked id s))) (fun u => u.refl.txFrames.map (·.frame.kind) == [2]),
  (let s := linked (fun x => { x with kept := [(frame0 0 4 0 true [], 0, [])] })
   idle (.frameResend 0 4) (base (fun t => atTime 19999 (s t))) && ev (.frameResend 0 4) (base (fun t => atTime 20000 (s t))) (fun u => u.refl.txFrames.map (·.frame.seq) == [4])),
  idle (.rekey 0) (base (linked id)), ev (.rekey 0) (base (linked (fun x => { x with keyFrames := 2 ^ 31 - 1 }))) (fun u => sess u (fun y => y.asked && y.keyGen == 1) && u.refl.txFrames.map (·.frame.kind) == [3]),
  (let p : PeerShow := { setup := none, session := 0, key := 77, signed := true, window := 5, peer := 1, peerWindow := 9, mode := 0, size := 4096, listsUs := true }
   let known (s : State) : State := { s with refl := { s.refl with keys := [(0, [76, 77])] } }
   idle (.handshake p) (base id) && idle (.handshake { p with signed := false }) (base known) && ev (.handshake p) (base (fun s => known (linked id s))) (fun u => sess u (fun y => y.keyGen == 2)) && ev (.handshake p) (base known) (fun u => sess u (fun y => y.keyGen == 1 && y.recvSeq == 0))),
  ev (.peerLost 7 false 0) (base (fun s => atTime 5000 (two s))) (fun u => win u 7 (fun w => w.paths.map (·.live) == [false, false] && w.members.map (·.live) == [true, false])), ev (.peerLost 7 true 0) (base (fun s => atTime 5000 (two s))) (fun u => win u 7 (fun w => w.members.map (·.live) == [false, false]))]

/-- SystemEvents: links, ports, attestation, FREEZE, idle cores. -/
def linkAt (x : LinkMod) (s : State) : State := s.setLink 9 3 x
def packageEvents : List Bool := [
  ev (.flitReceive 19 3 0 true) (base id) (fun u => (u.link 9 3).back.delivered == [0] && (u.link 9 3).back.rxSeq == 0 && (u.link 9 3).there == LinkDir.up), ev (.flitReceive 19 3 0 true) (base (linkAt { LinkMod.up with back := { LinkDir.up with rxSeq := 0, txSeq := 1, replay := [(0, .other)] } })) (fun u => (u.link 9 3).back.delivered.isEmpty),
  ev (.flitReceive 18 3 0 false) (base id) (fun u => (u.link 9 3).there.naks == [1023] && (u.link 9 3).crcFails == 1 && u.pkg.irqs == [(0, 3)]), ev (.flitReplay 19 3 1023) (base (linkAt { LinkMod.up with back := { LinkDir.up with naks := [1023] } })) (fun u => (u.link 9 3).back.naks.isEmpty && (u.link 9 3).replays == 1),
  ev (.retrain 9 3 .halfHigh) (base id) (fun u => (u.link 9 3).width == 32 && (u.link 9 3).high && u.pkg.errs.retrains == 1), ev (.retrain 9 3 .down) (base id) (fun u => (u.link 9 3).down),
  ev (.hostLinkTraining 1 16) (base id) (fun u => spFind u.pkg.ports 1 == some 16), ev (.ethernetFrame 7 .other) (base id) (fun u => u.pkg.errs.ethDropped == 1), ev (.ethernetFrame 0 .arp) (base id) (fun u => u.pkg.ethOut == [(0, .arp)]),
  idle (.ethernetFrame 7 .arp) (base (fun s => s.modPkg (fun p => { p with ethDown := [7] }))),
  (match stepMove .setting (base (fun s => s.modCtl (fun c => { c with settings := [.vectorPort 2 1, .pageRing 64] }))) with | .next u => u.irqPort 2 == 1 && u.ctl.settings == [.pageRing 64] | _ => false),
  ev .freeze (base id) (fun u => u.pkg.frozen), idle .freeze (base (fun s => s.modPkg (fun p => { p with debugOn := false }))), ev (.clockGatedIdle 511) (base id) (fun u => (u.core 511).gated)]

theorem meets_SystemEvents : windowEvents.all id = true ∧ packageEvents.all id = true := ⟨by decide +kernel, by decide +kernel⟩
theorem meets_SystemEvents_frozen : (match step { State.reset with pkg := { State.reset.pkg with frozen := true } } with | .fault .frozen => true | _ => false) = true ∧
    (match step { State.reset with pkg := { State.reset.pkg with frozen := true }, ctl := { State.reset.ctl with inputs := [.freeze, .powerOnReset []] } } with | .next u => !u.pkg.frozen && u.ctl.inputs == [.freeze] | _ => false) = true := by decide +kernel
theorem meets_SystemEvents_attestation : State.reset.pkg.meas.length ≤ 8 ∧ ev (.attestationRequest 7) State.reset (fun u => u.pkg.irqs == [(0, 2)] && u.pkg.mailbox.take 4 == [1, 0, 0, 0] && (u.pkg.mailbox.drop 8).take 1 == [7]) = true := by decide +kernel

end Sys2Proof.Tests
end

section
/-! PROOFS. Divergence and barriers: WAIT and MEET (O19), named barriers (O47), stage rings (O48). -/

namespace Sys2Proof.Divergence

open Sys2Proof Sys2Proof.Machine

/-! ### Masks of lanes -/

/-- The sum of powers that a mask is built from has the bits for which `f` holds. -/
theorem testBit_sumBits (f : Nat → Bool) (n j : Nat) :
    ((List.range n).foldl (fun a l => if f l then a + 2 ^ l else a) 0).testBit j = (decide (j < n) && f j) ∧
    (List.range n).foldl (fun a l => if f l then a + 2 ^ l else a) 0 < 2 ^ n := by
  induction n with
  | zero => simp
  | succ n ih =>
    rw [List.range_succ, List.foldl_append]
    generalize (List.range n).foldl (fun a l => if f l then a + 2 ^ l else a) 0 = a at ih
    obtain ⟨bits, small⟩ := ih
    have wider : (2 : Nat) ^ (n + 1) = 2 ^ n + 2 ^ n := by rw [Nat.pow_succ]; omega
    show (if f n then a + 2 ^ n else a).testBit j = _ ∧ (if f n then a + 2 ^ n else a) < _
    refine ⟨?_, by split <;> omega⟩
    rcases Nat.lt_trichotomy j n with below | rfl | above
    · have hd : decide (j < n + 1) = decide (j < n) := by simp [below, Nat.lt_succ_of_lt below]
      rw [hd, ← bits]
      split
      · rw [Nat.add_comm, Nat.testBit_two_pow_add_gt below]
      · rfl
    · have clear := Nat.testBit_lt_two_pow small
      cases hf : f j
      · simp [clear]
      · simp [Nat.add_comm a, Nat.testBit_two_pow_add_eq, clear]
    · have out : ∀ b, b < 2 ^ (n + 1) → b.testBit j = false := fun b hb =>
        Nat.testBit_lt_two_pow (Nat.lt_of_lt_of_le hb (Nat.pow_le_pow_right (by omega) (by omega)))
      rw [out _ (by split <;> omega)]
      rw [decide_eq_false (by omega), Bool.false_and]

@[simp] theorem inMask_maskOf (f : Nat → Bool) (l : Nat) : inMask (maskOf f) l = (decide (l < 16) && f l) := by
  have bits := (testBit_sumBits f 16 l).1
  rw [inMask, maskOf, BitVec.getLsbD_ofNat, show laneList = List.range 16 from rfl, bits, ← Bool.and_assoc, Bool.and_self]

@[simp] theorem mem_lanesOf (m : Lanes) (l : Nat) : l ∈ lanesOf m ↔ l < 16 ∧ inMask m l = true := by
  rw [lanesOf, List.mem_filter, show laneList = List.range 16 from rfl, List.mem_range]

@[simp] theorem inMask_live (G : Group) (l : Nat) : inMask G.live l = true ↔ l < 16 ∧ (G.lane l).hold ≠ .exited := by
  simp [Group.live]

/-- A mask that is not empty has a lane. -/
theorem exists_inMask {m : Lanes} (h : m ≠ 0) : ∃ l < 16, inMask m l = true := by
  refine Classical.byContradiction fun none => h (BitVec.eq_of_getLsbD_eq fun l hl => ?_)
  exact (Bool.eq_false_iff.mpr fun hm => none ⟨l, hl, hm⟩).trans BitVec.getLsbD_zero.symm

/-! ### WAIT and MEET (R49, R53, R518, R554) -/

theorem releaseMask_gid (G : Group) (r : Nat) (old : Half) : (G.releaseMask r old).gid = G.gid := by
  unfold Group.releaseMask; dsimp only; split <;> rfl

/-- The group after a WAIT: its enrolled lanes are held, and the release test is made. -/
theorem group?_waitAt {s : State} {t g : Nat} {G : Group} (r : Nat) (m : Half) (ex : Lanes) (h : s.group? t g = some G) :
    (s.modGroup t g (fun G => G.waitAt r m ex)).group? t g = some (G.waitAt r m ex) :=
  State.group?_modGroup s t g _ G h (releaseMask_gid _ _ _)

theorem withTargets_bad {x : Ctx} {s : State} {as : List DWord} (go : State → Res) (h : ∃ a ∈ as, s.targetBad x.c x.T.asn a = true) :
    x.withTargets s as go = .trap s { cause := 0x03 } := if_pos (List.any_eq_true.mpr h)

theorem withTargets_good {x : Ctx} {s : State} {as : List DWord} (go : State → Res) (h : ∀ a ∈ as, s.targetBad x.c x.T.asn a = false) :
    x.withTargets s as go = go (s.testLater x.t x.g (as.filter (s.targetFar x.c x.T.asn))) :=
  if_neg (by simpa using h)

section
variable {i : Instr} {s s1 : State} {x : Ctx}

/-- A MEET with legal targets writes them. -/
theorem meet_writes {target : Ctx → Nat → DWord} (hexec : exec i s = issueG i s (meetBody target)) (h : GroupIssues i s x s1)
    (good : ∀ l < 16, inMask x.ex l = true → s1.targetBad x.c x.T.asn (target x l) = false) :
    exec i s = .next (x.finish s1 {} (setMeet x (s1.testLater x.t x.g (((lanesOf x.ex).map (target x)).filter (s1.targetFar x.c x.T.asn)))
      (fun l => some (target x l)))).tick := by
  refine hexec.trans (issue_group_done h (withTargets_good _ fun a ha => ?_))
  obtain ⟨l, hl, rfl⟩ := List.mem_map.mp ha
  obtain ⟨hl, hm⟩ := (mem_lanesOf _ _).mp hl
  exact good l hl hm

/-- A MEET with an illegal target takes cause 0x03. -/
theorem meet_traps {target : Ctx → Nat → DWord} (hexec : exec i s = issueG i s (meetBody target)) (h : GroupIssues i s x s1)
    (bad : ∃ l < 16, inMask x.ex l = true ∧ s1.targetBad x.c x.T.asn (target x l) = true) : GroupTraps i s x s1 { cause := 0x03 } := by
  obtain ⟨l, hl, hm, hb⟩ := bad
  exact hexec.trans (issue_group_trap h (withTargets_bad _ ⟨_, List.mem_map_of_mem ((mem_lanesOf _ _).mpr ⟨hl, hm⟩), hb⟩))

/-- Setting MEET registers: the executing lanes take their values, the others keep theirs. -/
theorem setMeet_lanes (f : Nat → Option DWord) {G : Group} (h : s.group? x.t x.g = some G) :
    ∃ H, (setMeet x s f).group? x.t x.g = some H ∧ ∀ l < G.lanes.length, (H.lane l).meet = if inMask x.ex l = true then f l else (G.lane l).meet := by
  refine ⟨_, State.group?_modGroup s x.t x.g _ G h rfl, fun l hl => ?_⟩
  rw [Group.lane_modLanes _ _ _ _ hl]
  split <;> rfl

/-- Targets left to be tested join those of the group; its lanes stay. -/
theorem testLater_untested {t g : Nat} (as : List DWord) {G : Group} (h : s.group? t g = some G) :
    ∃ H, (s.testLater t g as).group? t g = some H ∧ H.lanes = G.lanes ∧ ∀ a, a ∈ H.untested ↔ a ∈ G.untested ∨ a ∈ as := by
  cases as with
  | nil => exact ⟨G, h, rfl, by simp⟩
  | cons a r =>
    refine ⟨_, State.group?_modGroup s t g (fun G => { G with untested := (G.untested ++ a :: r).eraseDups }) G h rfl, rfl, fun b => ?_⟩
    exact List.mem_eraseDups.trans List.mem_append

end

/-- Settles O19: each instruction's body, and what setting MEET and leaving targets for later do to the group. -/
theorem waitsAndMeetings : Obligations.WaitsAndMeetings := by
  unfold Obligations.WaitsAndMeetings
  refine ⟨fun w s s1 x h => ?_, ⟨fun w s s1 x h => ⟨fun good => ?_, fun hex bad => ?_⟩, fun w s s1 x h => ⟨fun good => ?_, fun bad => ?_⟩,
    fun w s s1 x h => ?_, fun x s f G h => setMeet_lanes f h, fun s t g as G h => testLater_untested as h⟩⟩
  · exact ⟨_, _, _, issue_group_done h rfl, rfl, rfl, rfl, rfl, group?_waitAt _ _ _ h.group⟩
  · refine ⟨_, meet_writes rfl h fun l _ hm => good.resolve_left fun h0 => ?_, rfl⟩
    simp [h0, inMask] at hm
  · obtain ⟨l, hl, hm⟩ := exists_inMask hex
    exact meet_traps rfl h ⟨l, hl, hm, bad⟩
  · exact ⟨_, meet_writes rfl h good, rfl⟩
  · exact meet_traps rfl h bad
  · exact ⟨_, issue_group_done h rfl, rfl⟩

/-! ### Barriers (R57 to R61) -/

section
variable {s : State} {x : Ctx} {w : RIWord} {b c : Nat}

/-- The live lanes of the group that do not execute. -/
def Other (x : Ctx) (l : Nat) : Prop := l < 16 ∧ (x.G.lane l).hold ≠ .exited ∧ inMask x.ex l = false

/-- Is another lane of the group held at a BAR that names another barrier or count (R58)? -/
def Clash (x : Ctx) (b c : Nat) : Prop := ∃ l b' c', Other x l ∧ (x.G.lane l).hold = .bar b' c' ∧ (b' ≠ b ∨ c' ≠ c)

/-- Are all other lanes of the group held at this BAR (R58)? -/
def Complete (x : Ctx) (b c : Nat) : Prop := ∀ l, Other x l → (x.G.lane l).hold = .bar b c

/-- The state with the executing lanes held at the BAR. -/
def heldAtBar (x : Ctx) (s : State) (b c : Nat) : State := s.modGroup x.t x.g (fun G => G.modLanes x.ex (fun _ L => { L with hold := .bar b c }))

theorem mem_others (x : Ctx) (l : Nat) : l ∈ lanesOf (x.G.live &&& ~~~x.ex) ↔ Other x l := by
  have meets : inMask (x.G.live &&& ~~~x.ex) l = (inMask x.G.live l && (decide (l < 16) && !inMask x.ex l)) := by
    rw [inMask, BitVec.getLsbD_and, BitVec.getLsbD_not]; rfl
  rw [mem_lanesOf, meets, Bool.and_eq_true, Bool.and_eq_true, decide_eq_true_iff, Bool.not_eq_true', inMask_live]
  exact ⟨fun ⟨hl, ⟨_, live⟩, _, idle⟩ => ⟨hl, live, idle⟩, fun ⟨hl, live, idle⟩ => ⟨hl, ⟨hl, live⟩, hl, idle⟩⟩

theorem not_clash (x : Ctx) (b c : Nat) (h : ∀ l, Other x l → ∀ b' c', (x.G.lane l).hold = .bar b' c' → b' = b ∧ c' = c) : ¬ Clash x b c := by
  rintro ⟨l, b', c', hl, hold, ne⟩
  obtain ⟨rfl, rfl⟩ := h l hl b' c' hold
  exact ne.elim (· rfl) (· rfl)

theorem not_clash_of_complete (h : Complete x b c) : ¬ Clash x b c := by
  rintro ⟨l, b', c', hl, hold, ne⟩
  obtain ⟨rfl, rfl⟩ := Hold.bar.inj (hold.symm.trans (h l hl))
  exact ne.elim (· rfl) (· rfl)

theorem complete_iff (x : Ctx) (b c : Nat) :
    (lanesOf (x.G.live &&& ~~~x.ex)).all (fun l => (x.G.lane l).hold == .bar b c) = true ↔ Complete x b c := by
  rw [List.all_eq_true]
  exact forall_congr' fun l => by rw [mem_others, beq_iff_eq]

theorem barGroup_count (h : barCount w x.env < 1 ∨ 4112 < barCount w x.env) : barGroup w x s = .trap s { cause := 0x02 } := if_pos h

theorem barGroup_clash (lo : 1 ≤ barCount w x.env) (hi : barCount w x.env ≤ 4112) (h : Clash x (srcNum w.a) (barCount w x.env)) :
    barGroup w x s = .trap s { cause := 0x30 } := by
  obtain ⟨l, b', c', hl, hold, ne⟩ := h
  refine (if_neg (by omega)).trans (if_pos (List.any_eq_true.mpr ⟨l, (mem_others x l).mpr hl, ?_⟩))
  simpa [hold] using ne

/-- Without a clash: the refusal of the arrival that a BAR would complete is a cause; else the lanes are held, and a complete group arrives. -/
theorem barGroup_no_clash (lo : 1 ≤ barCount w x.env) (hi : barCount w x.env ≤ 4112) (h : ¬ Clash x (srcNum w.a) (barCount w x.env)) (all : Bool)
    (hall : all = true ↔ Complete x (srcNum w.a) (barCount w x.env)) :
    barGroup w x s =
      if (all && s.relDone x.c x.t x.g (s.ctl.stamp + 1) && (x.T.bar (srcNum w.a)).refuses (barCount w x.env)) = true then .trap s { cause := 0x30 }
      else .done (if all = true then (heldAtBar x s (srcNum w.a) (barCount w x.env)).arriveWith x.t x.g x.ex x.pc
        else heldAtBar x s (srcNum w.a) (barCount w x.env)) { drop := x.ex } := by
  obtain rfl := Bool.eq_iff_iff.mpr (hall.trans (complete_iff x _ _).symm)
  refine (if_neg (by omega)).trans (if_neg fun clash => h ?_)
  obtain ⟨l, hl, hm⟩ := List.any_eq_true.mp clash
  split at hm
  · next b' c' hold => exact ⟨l, b', c', (mem_others x l).mp hl, hold, by simpa using hm⟩
  · cases hm

theorem barGroup_holds (lo : 1 ≤ barCount w x.env) (hi : barCount w x.env ≤ 4112) (h : ¬ Clash x (srcNum w.a) (barCount w x.env))
    (hc : ¬ Complete x (srcNum w.a) (barCount w x.env)) :
    barGroup w x s = .done (heldAtBar x s (srcNum w.a) (barCount w x.env)) { drop := x.ex } := by
  rw [barGroup_no_clash lo hi h false (by simpa using hc)]
  rfl

theorem barGroup_refused (lo : 1 ≤ barCount w x.env) (hi : barCount w x.env ≤ 4112) (hc : Complete x (srcNum w.a) (barCount w x.env))
    (rel : s.relDone x.c x.t x.g (s.ctl.stamp + 1) = true) (ref : (x.T.bar (srcNum w.a)).refuses (barCount w x.env) = true) :
    barGroup w x s = .trap s { cause := 0x30 } := by
  rw [barGroup_no_clash lo hi (not_clash_of_complete hc) true (by simpa using hc), rel, ref]
  rfl

theorem barGroup_arrives (lo : 1 ≤ barCount w x.env) (hi : barCount w x.env ≤ 4112) (hc : Complete x (srcNum w.a) (barCount w x.env))
    (h : s.relDone x.c x.t x.g (s.ctl.stamp + 1) = false ∨ (x.T.bar (srcNum w.a)).refuses (barCount w x.env) = false) :
    barGroup w x s = .done ((heldAtBar x s (srcNum w.a) (barCount w x.env)).arriveWith x.t x.g x.ex x.pc) { drop := x.ex } := by
  rw [barGroup_no_clash lo hi (not_clash_of_complete hc) true (by simpa using hc)]
  refine (if_neg ?_).trans (by rw [if_pos rfl])
  rw [Bool.true_and, Bool.and_eq_true]
  rintro ⟨rel, ref⟩
  rcases h with h | h
  · exact Bool.false_ne_true (h.symm.trans rel)
  · exact Bool.false_ne_true (h.symm.trans ref)

end

section
variable {w : RIWord} {s : State} {x : SeqCtx}

theorem barSeq_count (h : barCount w x.env < 1 ∨ 4112 < barCount w x.env) : barSeq w x s = .trap s { cause := 0x02 } := if_pos h

theorem barSeq_arrives (lo : 1 ≤ barCount w x.env) (hi : barCount w x.env ≤ 4112) :
    barSeq w x s = .gone ((s.modSeq x.t x.j (fun q => { q with st := .bar (srcNum w.a) (barCount w x.env) false })).seqArrive x.t x.j) :=
  if_neg (by omega)

end

/-- What an arrival comes to (R58, R59, R61). -/
theorem arriveWith_eq {s : State} {t g b c : Nat} (ls : Lanes) (pc : DWord) {T : Team} {G : Group} {sh : Share} (hT : s.team? t = some T)
    (hG : T.group? g = some G) (hsh : T.share? G.core = some sh) (hbar : G.allAtBar = some (b, c)) (hcounted : G.counted = false)
    (hparks : G.parks.any Park.isArrive = false) :
    s.arriveWith t g ls pc =
      if s.relDone sh.core t g (s.ctl.stamp + 1) = false then s.modGroup t g (fun G => { G with parks := G.parks ++ [.arrive (s.ctl.stamp + 1) ls pc] })
      else if (T.bar b).refuses c = true then
        (s.modGroup t g (fun G => G.modLanes ls (fun _ L => { L with hold := .runnable }))).takeTrap t g { cause := 0x30 } ls pc
      else s.setTeam ((T.setGroup { G with counted := true }).arrive b c) := by
  simp [State.arriveWith, hT, hG, hsh, hbar, hcounted, hparks]

/-- The arrivals at a barrier, with one more (R59). -/
def arrivals (T : Team) (b : Nat) : Nat := if (T.bar b).count = 0 then 1 else (T.bar b).arrived + 1

/-- An arrival below the count is counted, and every group stays as it is. -/
theorem arrive_below {T : Team} {b c : Nat} (h : arrivals T b < c) :
    (T.arrive b c).bars = spPut { count := 0, arrived := 0, gen := false } T.bars b { T.bar b with count := c, arrived := arrivals T b } ∧
    (T.arrive b c).groups = T.groups := by
  have counted : T.arrive b c = _ := if_pos h
  rw [counted]
  exact ⟨rfl, rfl⟩

/-- The arrival that completes the generation: the barrier is idle, its generation bit flipped. -/
theorem arrive_completes {T : Team} {b c : Nat} (h : c ≤ arrivals T b) :
    (T.arrive b c).bars = spPut { count := 0, arrived := 0, gen := false } T.bars b { count := 0, arrived := 0, gen := !(T.bar b).gen } ∧
    (T.arrive b c).groups = T.groups.map (fun G => G.barRelease b c) := by
  have done : T.arrive b c = _ := if_neg (Nat.not_lt.mpr h)
  rw [done]
  exact ⟨rfl, rfl⟩

/-- The barriers of a team one of which has been written. -/
theorem bar_of_put {T U : Team} {b : Nat} {y : Barrier} (h : T.bars = spPut { count := 0, arrived := 0, gen := false } U.bars b y) (b' : Nat) :
    T.bar b' = if b' = b then y else U.bar b' := by
  rw [Team.bar, h, spGet_put]; rfl

/-- An arrival leaves the other barriers. -/
theorem arrive_other (T : Team) {b b' : Nat} (c : Nat) (h : b' ≠ b) : (T.arrive b c).bar b' = T.bar b' := by
  rcases Nat.lt_or_ge (arrivals T b) c with below | completes
  · rw [bar_of_put (arrive_below below).1, if_neg h]
  · rw [bar_of_put (arrive_completes completes).1, if_neg h]

/-! ### The end of a generation -/

/-- Lanes of a group that go on after a hold. -/
theorem lane_freeLanes (G : Group) (h : Hold) {l : Nat} (hl : l < G.lanes.length) :
    (G.freeLanes h).lane l =
      if l < 16 ∧ (G.lane l).hold = h then { G.lane l with pc := nextSlot (G.lane l).pc, hold := .runnable, wcnt := 0 } else G.lane l := by
  rw [Group.freeLanes, Group.lane_modLanes _ _ _ _ hl]
  simp

/-- Which lanes have exited stays when held ones go on. -/
theorem freeLanes_exited (G : Group) {h : Hold} (hne : h ≠ .exited) :
    (G.freeLanes h).lanes.map (fun L => L.hold == .exited) = G.lanes.map (fun L => L.hold == .exited) := by
  have hlen : (G.freeLanes h).lanes.length = G.lanes.length := Group.modLanes_length _ _ _
  refine List.ext_getElem (by simp [hlen]) fun l _ hl => ?_
  rw [List.length_map] at hl
  have at_lane : ∀ (H : Group) (hH : l < H.lanes.length), H.lanes[l] = H.lane l := fun H hH => by simp [Group.lane, nth, hH]
  rw [List.getElem_map, List.getElem_map, at_lane _ (hlen ▸ hl), at_lane _ hl, lane_freeLanes G h hl]
  split
  · next held =>
    have goes : (Hold.runnable == Hold.exited) = false := rfl
    have was : ((G.lane l).hold == Hold.exited) = false := beq_eq_false_iff_ne.mpr (held.2 ▸ hne)
    exact goes.trans was.symm
  · rfl

/-- The BAR that a trap frame records is the same once lanes of the group go on. -/
theorem frameAtBar_freeLanes (G : Group) {h : Hold} (hne : h ≠ .exited) : (G.freeLanes h).frameAtBar = G.frameAtBar := by
  have by_exited : ∀ (rs : List LaneRec) (ls : List Lane),
      (rs.zip ls).filterMap (fun x => if x.2.hold == .exited then none else some x.1.hold) =
      (rs.zip (ls.map (fun L => L.hold == .exited))).filterMap (fun x => if x.2 then none else some x.1.hold) := fun rs ls => by
    rw [List.zip_map_right, List.filterMap_map]; rfl
  unfold Group.frameAtBar
  simp only [by_exited, freeLanes_exited G hne]
  rfl

theorem arrivedAt_iff (G : Group) (b c : Nat) : G.arrivedAt b c = true ↔ G.counted = true ∧ G.allAtBar = some (b, c) := by
  simp [Group.arrivedAt]

theorem frameArrivedAt_iff {G : Group} {f : TrapFrame} (hf : G.frame = some f) (b c : Nat) :
    G.frameArrivedAt b c = true ↔ f.counted = true ∧ G.frameAtBar = some (b, c) := by
  simp [Group.frameArrivedAt, hf]

/-- The group once its lanes have gone on, where it has arrived; its trap frame is still as it was. -/
def barFreed (G : Group) (b c : Nat) : Group := if G.arrivedAt b c then { G.freeLanes (.bar b c) with counted := false } else G

theorem barRelease_eq (G : Group) (b c : Nat) :
    G.barRelease b c = if (barFreed G b c).frameArrivedAt b c then
        { barFreed G b c with frame := (barFreed G b c).frame.map (fun f => { f.freeLanes (.bar b c) with counted := false }) }
      else barFreed G b c := rfl

theorem barFreed_frame (G : Group) (b c : Nat) : (barFreed G b c).frame = G.frame := by unfold barFreed; split <;> rfl

theorem barFreed_frameArrivedAt (G : Group) (b c : Nat) : (barFreed G b c).frameArrivedAt b c = G.frameArrivedAt b c := by
  unfold barFreed
  split
  · exact congrArg (fun o => _ && o == some (b, c)) (frameAtBar_freeLanes G nofun)
  · rfl

/-- At the end of a generation, the group's lanes and its count are as its own arrival says. -/
theorem barRelease_lanes (G : Group) (b c : Nat) :
    (G.barRelease b c).lanes = (barFreed G b c).lanes ∧ (G.barRelease b c).counted = (barFreed G b c).counted := by
  rw [barRelease_eq]
  split <;> exact ⟨rfl, rfl⟩

/-- Its trap frame is as the frame's own arrival says, whatever the lanes do now. -/
theorem barRelease_frame (G : Group) (b c : Nat) :
    (G.barRelease b c).frame =
      if G.frameArrivedAt b c then G.frame.map (fun f => { f.freeLanes (.bar b c) with counted := false }) else G.frame := by
  rw [barRelease_eq, barFreed_frameArrivedAt, ← barFreed_frame G b c]
  split <;> rfl

/-- Lanes that are let go are runnable at the next slot. -/
theorem free_lane (G : Group) (h : Hold) {l : Nat} (h16 : l < 16) (hl : l < G.lanes.length) (held : (G.lane l).hold = h) :
    ((G.free h).lane l).hold = .runnable ∧ ((G.free h).lane l).pc = nextSlot (G.lane l).pc := by
  have freed : (G.free h).lane l = _ := (lane_freeLanes G h hl).trans (if_pos ⟨h16, held⟩)
  rw [freed]
  exact ⟨rfl, rfl⟩

/-- Settles O47: BAR by the lanes that do not execute, then the arrival, and what the end of a generation does to a group and its trap frame. -/
theorem barriers : Obligations.Barriers := by
  unfold Obligations.Barriers
  refine ⟨fun w s s1 x h => ⟨fun hc => issue_group_trap h (barGroup_count hc), fun lo hi => ⟨fun clash => issue_group_trap h (barGroup_clash lo hi clash),
      fun agree => ⟨fun ⟨l, hl, hne⟩ => ?_, fun complete => ⟨fun rel ref => ?_, fun go => ?_⟩⟩⟩⟩,
    fun s t g b c ls pc T G sh hT hG hsh hbar hcounted hparks => ?_, fun w s x h => ⟨fun hc => ?_, fun lo hi => ?_⟩,
    fun T b c => ⟨fun below => ?_, fun completes => ?_, fun b' => arrive_other T c⟩, fun G b c => ⟨?_, ?_, ?_, ?_⟩, fun G h l h16 hl => free_lane G h h16 hl⟩
  · exact issue_group_done h (barGroup_holds lo hi (not_clash x _ _ agree) fun complete => hne (complete l hl))
  · exact issue_group_trap h (barGroup_refused lo hi complete rel ref)
  · exact issue_group_done h (barGroup_arrives lo hi complete go)
  · rw [arriveWith_eq ls pc hT hG hsh hbar hcounted hparks]
    exact ⟨fun rel => if_pos rel, fun rel ref => by simp [rel, ref], fun rel ref => by simp [rel, ref]⟩
  · exact issue_seq_trap h (barSeq_count hc)
  · exact issue_seq_gone h (.inl (barSeq_arrives lo hi))
  · obtain ⟨bars, groups⟩ := arrive_below below
    exact ⟨by rw [bar_of_put bars, if_pos rfl]; rfl, groups⟩
  · obtain ⟨bars, groups⟩ := arrive_completes completes
    exact ⟨by rw [bar_of_put bars, if_pos rfl], groups⟩
  · intro hcounted hbar
    have freed : barFreed G b c = _ := if_pos ((arrivedAt_iff G b c).mpr ⟨hcounted, hbar⟩)
    have released := barRelease_lanes G b c
    rwa [freed] at released
  · intro h
    have stays : barFreed G b c = _ := if_neg fun arrived => by
      obtain ⟨hcounted, hbar⟩ := (arrivedAt_iff G b c).mp arrived
      exact h.elim (fun h => Bool.false_ne_true (h.symm.trans hcounted)) (· hbar)
    have released := barRelease_lanes G b c
    rwa [stays] at released
  · intro f hf hcounted hbar
    rw [barRelease_frame, if_pos ((frameArrivedAt_iff hf b c).mpr ⟨hcounted, hbar⟩), hf]; rfl
  · intro f hf hcounted
    rw [barRelease_frame, if_neg (by simp [frameArrivedAt_iff hf, hcounted]), hf]

/-! ### What a performed instruction leaves of its team and of the store queues -/

section
variable {α : Type} {p : Team → α}

/-- Replacing a team by one that has the same `p` leaves `p` of every team. -/
theorem setTeam_keeps {s : State} {T T' : Team} {t : Nat} (hT : s.team? t = some T) (hid : T'.id = T.id) (hp : p T' = p T) (n : Nat) :
    ((s.setTeam T').team? n).map p = (s.team? n).map p := by
  have name := State.team?_id s t T hT
  rw [State.team?_setTeam, hid, name]
  split
  · next h => rw [h, hT]; exact congrArg some hp
  · rfl

theorem modGroup_keeps (hg : ∀ T G, p (Team.setGroup T G) = p T) (s : State) (t g : Nat) (f : Group → Group) (n : Nat) :
    ((s.modGroup t g f).team? n).map p = (s.team? n).map p := by
  unfold State.modGroup
  split
  · next T hT =>
    split
    · exact setTeam_keeps hT (Team.setGroup_id _ _) (hg _ _) n
    · rfl
  · rfl

theorem modShare_keeps (hs : ∀ T j y, p (Team.setShare T j y) = p T) (s : State) (t j : Nat) (f : Share → Share) (n : Nat) :
    ((s.modShare t j f).team? n).map p = (s.team? n).map p := by
  unfold State.modShare
  split
  · next T hT =>
    split
    · exact setTeam_keeps hT (Team.setShare_id _ _ _) (hs _ _ _) n
    · rfl
  · rfl

theorem lateTrnx_keeps (hs : ∀ T j y, p (Team.setShare T j y) = p T) (s : State) (t : Nat) (G : Group) (clk : Nat) (ps : List Pend) (n : Nat) :
    ((s.lateTrnx t G clk ps).team? n).map p = (s.team? n).map p := by
  unfold State.lateTrnx
  split
  · exact modShare_keeps hs _ _ _ _ n
  · rfl

theorem endRun_keeps (hg : ∀ T G, p (Team.setGroup T G) = p T) (hs : ∀ T j y, p (Team.setShare T j y) = p T) (s : State) (t g c : Nat) (r : Run) (n : Nat) :
    ((s.endRun t g c r).team? n).map p = (s.team? n).map p := by
  unfold State.endRun
  rw [State.freeQuad_team?, modGroup_keeps hg]
  split
  · exact lateTrnx_keeps hs _ _ _ _ _ n
  · rfl

end

/-- What follows a performed instruction changes one group at most, and may end the run. -/
theorem finish_cases (x : Ctx) (s1 : State) (e : Eff) (s2 : State) :
    x.finish s1 e s2 = s2 ∨ ∃ T G run, s2.team? x.t = some T ∧
      (x.finish s1 e s2 = s2.setTeam (T.setGroup G) ∨ x.finish s1 e s2 = (s2.setTeam (T.setGroup G)).endRun x.t x.g x.c run) := by
  unfold Ctx.finish Sys2Proof.Machine.finish
  split
  · exact .inl rfl
  · next T hT =>
    split
    · exact .inl rfl
    · exact .inr ⟨T, _, _, hT, ite_three _ _ _ _⟩

/-- What follows a performed instruction leaves of the teams all that neither their groups nor their shares hold. -/
theorem finish_keeps {α : Type} {p : Team → α} (hg : ∀ T G, p (Team.setGroup T G) = p T) (hs : ∀ T j y, p (Team.setShare T j y) = p T)
    (x : Ctx) (s1 : State) (e : Eff) (s2 : State) (n : Nat) : ((x.finish s1 e s2).team? n).map p = (s2.team? n).map p := by
  rcases finish_cases x s1 e s2 with same | ⟨T, G, run, hT, set | ended⟩
  · rw [same]
  · rw [set]; exact setTeam_keeps hT (Team.setGroup_id _ _) (hg _ _) n
  · rw [ended, endRun_keeps hg hs]; exact setTeam_keeps hT (Team.setGroup_id _ _) (hg _ _) n

theorem core_of_cores {s u : State} (h : u.cores = s.cores) (n : Nat) : u.core n = s.core n := by rw [State.core, h]; rfl

theorem core_modCore (s : State) (c n : Nat) (f : Core → Core) : (s.modCore c f).core n = if n = c then f (s.core c) else s.core n :=
  spGet_put _ _ _ _ _

theorem freeQuad_sq (s : State) (c t g n : Nat) : ((s.freeQuad c t g).core n).sq = (s.core n).sq := by
  rw [State.freeQuad, core_modCore]
  split
  · next h => rw [h]
  · rfl

theorem lateTrnx_cores (s : State) (t : Nat) (G : Group) (clk : Nat) (ps : List Pend) : (s.lateTrnx t G clk ps).cores = s.cores := by
  unfold State.lateTrnx
  split
  · exact State.modShare_cores ..
  · rfl

theorem endRun_sq (s : State) (t g c : Nat) (r : Run) (n : Nat) : ((s.endRun t g c r).core n).sq = (s.core n).sq := by
  unfold State.endRun
  rw [freeQuad_sq, core_of_cores (State.modGroup_cores ..)]
  split
  · rw [core_of_cores (lateTrnx_cores ..)]
  · rfl

/-- What follows a performed instruction leaves the store queues. -/
theorem finish_sq (x : Ctx) (s1 : State) (e : Eff) (s2 : State) (n : Nat) : ((x.finish s1 e s2).core n).sq = (s2.core n).sq := by
  rcases finish_cases x s1 e s2 with same | ⟨T, G, run, hT, set | ended⟩
  · rw [same]
  · rw [set]; rfl
  · rw [ended, endRun_sq]; rfl

/-- Where a group issues, it is the context's team that the state holds. -/
theorem issues_team {i : Instr} {s s1 : State} {x : Ctx} (h : GroupIssues i s x s1) : s1.team? x.t = some x.T := by
  obtain ⟨ht, -, -, hs, -, -, T, G, r, sh, hT, -, -, -, -, -, -, hxT, -, -⟩ := groupCtx_who h.ctx
  exact hs ▸ State.team?_setTeam_same s T x.T x.t hT (by rw [hxT]; exact State.team?_id s _ T hT)

/-! ### Stages (R63 to R65, R549) -/

theorem stageSettle_keeps (T : Team) (r k : Nat) : (T.stageSettle r k).id = T.id ∧ (T.stageSettle r k).stages = T.stages := by
  unfold Team.stageSettle
  simp only [List.foldl]
  split <;> split <;> exact ⟨rfl, rfl⟩

/-- A stage of a team one of whose stages has been replaced; rings and stages in range name different ones. -/
theorem stage_setStage (T : Team) {r k r' k' : Nat} (y : Stage) (hk : k ≤ 15) (hk' : k' ≤ 15) :
    (T.setStage r k y).stage r' k' = if (r', k') = (r, k) then y else T.stage r' k' := by
  have key : 16 * r' + k' = 16 * r + k ↔ (r', k') = (r, k) := by rw [Prod.mk.injEq]; omega
  rw [Team.stage, Team.setStage, spGet_put]
  simp only [key]; rfl

/-- Emptying a stage: that stage is not full, and the others are as they were. -/
theorem emptyStage_stage {s : State} {t : Nat} {T : Team} (hT : s.team? t = some T) {r k r' k' : Nat} (hk : k ≤ 15) (hk' : k' ≤ 15) :
    ((s.emptyStage t r k).team? t).map (fun T => T.stage r' k') =
      some (if (r', k') = (r, k) then { T.stage r k with full := false } else T.stage r' k') := by
  obtain ⟨hid, hst⟩ := stageSettle_keeps (T.setStage r k { T.stage r k with full := false }) r k
  have emptied : s.emptyStage t r k = s.setTeam ((T.setStage r k { T.stage r k with full := false }).stageSettle r k) := by
    unfold State.emptyStage State.modTeam; rw [hT]
  rw [emptied, State.team?_setTeam_same s T _ t hT (hid.trans (State.team?_id s t T hT)), Option.map_some, ← stage_setStage T _ hk hk']
  exact congrArg (fun m => some (spGet _ m _)) hst

section
variable {w : RIWord} {e : Env} {r k : Nat}

theorem stageOf_some (hr : (e.src w.a 0).toNat ≤ 7) (hk : (e.src w.b 0).toNat ≤ 15) : stageOf w e = some ((e.src w.a 0).toNat, (e.src w.b 0).toNat) :=
  if_pos ⟨hr, hk⟩

theorem stageOf_none (h : 7 < (e.src w.a 0).toNat ∨ 15 < (e.src w.b 0).toNat) : stageOf w e = none := if_neg (by omega)

end

/-- Is the stage what a STGWAIT waits for (R64, log 31)? -/
def Here (s : State) (T : Team) (r k : Nat) (full : Bool) : Prop :=
  if full then (T.stage r k).full = true ∧ s.stageFreed T.id r k = false else (T.stage r k).full = false ∧ (T.stage r k).pending = 0

theorem stageOpen_iff (s : State) (T : Team) (r k : Nat) (full : Bool) : s.stageOpen T r k full = true ↔ Here s T r k full := by
  cases full <;> simp [State.stageOpen, Stage.reached, Here]

section
variable {w : RIWord} {full : Bool} {s : State} {r k : Nat}

theorem stgwaitGroup_none {x : Ctx} (h : stageOf w x.env = none) : stgwaitGroup w full x s = .trap s { cause := 0x02 } := by
  rw [stgwaitGroup, h]

theorem stgwaitGroup_passes {x : Ctx} (h : stageOf w x.env = some (r, k)) (here : Here s x.T r k full) : stgwaitGroup w full x s = .done s {} := by
  rw [stgwaitGroup, h]; exact if_pos ((stageOpen_iff ..).mpr here)

theorem stgwaitGroup_holds {x : Ctx} (h : stageOf w x.env = some (r, k)) (not : ¬ Here s x.T r k full) :
    stgwaitGroup w full x s = .done (s.modGroup x.t x.g (fun G => G.modLanes x.ex (fun _ L => { L with hold := .stg r k full }))) {} := by
  rw [stgwaitGroup, h]; exact if_neg (mt (stageOpen_iff ..).mp not)

theorem stgwaitSeq_passes {x : SeqCtx} (h : stageOf w x.env = some (r, k)) (here : Here s x.T r k full) : stgwaitSeq w full x s = .done s {} := by
  rw [stgwaitSeq, h]; exact if_pos ((stageOpen_iff ..).mpr here)

theorem stgwaitSeq_holds {x : SeqCtx} (h : stageOf w x.env = some (r, k)) (not : ¬ Here s x.T r k full) :
    stgwaitSeq w full x s = .gone (s.modSeq x.t x.j (fun q => { q with st := .stg r k full })) := by
  rw [stgwaitSeq, h]; exact if_neg (mt (stageOpen_iff ..).mp not)

end

/-- The entry of the store queue that an STGFREE waits in for its release work (R65, log 31). -/
def freeEntry (x : Ctx) (s : State) (r k : Nat) : SqEntry :=
  { stamp := s.ctl.stamp + 1, t := x.t, g := x.g, bytes := [], red := none, stage := some (r, k), rel := true, coreRel := false }

/-- The refusal of an STGFREE: its stage is empty, or counts as freed. -/
theorem refused_iff (st : Stage) (freed : Bool) : (!st.full || freed) = true ↔ st.full = false ∨ freed = true := by simp

section
variable {w : RIWord} {s : State} {r k : Nat} {x : Ctx}

theorem stgfreeGroup_none (h : stageOf w x.env = none) : stgfreeGroup w x s = .trap s { cause := 0x02 } := by rw [stgfreeGroup, h]

theorem stgfreeGroup_refused (h : stageOf w x.env = some (r, k)) (no : (x.T.stage r k).full = false ∨ s.stageFreed x.t r k = true) :
    stgfreeGroup w x s = .trap s { cause := 0x32 } := by
  rw [stgfreeGroup, h]; exact if_pos ((refused_iff ..).mpr no)

theorem stgfreeGroup_empties (h : stageOf w x.env = some (r, k)) (is : (x.T.stage r k).full = true) (unfreed : s.stageFreed x.t r k = false)
    (rel : s.relDone x.c x.t x.g (s.ctl.stamp + 1) = true) : stgfreeGroup w x s = .done (s.bumpStamp.emptyStage x.t r k) {} := by
  rw [stgfreeGroup, h]; exact (if_neg (by simp [is, unfreed])).trans (if_pos rel)

theorem stgfreeGroup_queues (h : stageOf w x.env = some (r, k)) (is : (x.T.stage r k).full = true) (unfreed : s.stageFreed x.t r k = false)
    (rel : s.relDone x.c x.t x.g (s.ctl.stamp + 1) = false) :
    stgfreeGroup w x s = .done (s.bumpStamp.modCore x.c (fun c => { c with sq := c.sq ++ [freeEntry x s r k] })) {} := by
  rw [stgfreeGroup, h]; exact (if_neg (by simp [is, unfreed])).trans (if_neg (ne_true_of_eq_false rel))

end

/-- Have the matrix instructions before it read their operands (R65)? None waits, and none that has started is held. -/
theorem operandsRead_iff (sh : Share) : sh.operandsRead = true ↔ sh.mul.waiting = none ∧ sh.drain.waiting = none ∧
    (∀ m, sh.mul.started = some m → m.held = false) ∧ ∀ m, sh.drain.started = some m → m.held = false := by
  have unheld : ∀ o : Option MatRun, (!o.any (·.held)) = true ↔ ∀ m, o = some m → m.held = false := fun o => by cases o <;> simp
  simp only [Share.operandsRead, Bool.and_eq_true, Option.isNone_iff_eq_none, unheld, and_assoc]

section
variable {w : RIWord} {s : State} {r k : Nat} {x : SeqCtx}

theorem stgfreeSeq_none (h : stageOf w x.env = none) : stgfreeSeq w x s = .trap s { cause := 0x02 } := by rw [stgfreeSeq, h]

theorem stgfreeSeq_stalls (h : stageOf w x.env = some (r, k)) (unread : ¬ x.sh.operandsRead = true) : stgfreeSeq w x s = .stall s := by
  rw [stgfreeSeq, h]; exact if_pos (by simpa using unread)

theorem stgfreeSeq_refused (h : stageOf w x.env = some (r, k)) (read : x.sh.operandsRead = true)
    (no : (x.T.stage r k).full = false ∨ s.stageFreed x.t r k = true) : stgfreeSeq w x s = .trap s { cause := 0x32 } := by
  rw [stgfreeSeq, h]; exact (if_neg (by simp [read])).trans (if_pos ((refused_iff ..).mpr no))

theorem stgfreeSeq_empties (h : stageOf w x.env = some (r, k)) (read : x.sh.operandsRead = true)
    (is : (x.T.stage r k).full = true) (unfreed : s.stageFreed x.t r k = false) : stgfreeSeq w x s = .done (s.emptyStage x.t r k) {} := by
  rw [stgfreeSeq, h]; exact (if_neg (by simp [read])).trans (if_neg (by simp [is, unfreed]))

end

/-- Both forms of STGWAIT issue one body, in groups and in sequencers. -/
theorem exec_stgwait {i : Instr} {w : RIWord} {full : Bool} (hi : i = .stgwaitEmpty w ∧ full = false ∨ i = .stgwaitFull w ∧ full = true) (s : State) :
    exec i s = issue i s (stgwaitGroup w full) (stgwaitSeq w full) noBody := by
  obtain ⟨rfl, rfl⟩ | ⟨rfl, rfl⟩ := hi <;> rfl

/-- Settles O48: STGWAIT and STGFREE by what their stage is; what follows an STGFREE leaves the stages and the store queues as it made them. -/
theorem stages : Obligations.Stages := by
  unfold Obligations.Stages
  refine ⟨fun i w full hi => ⟨fun s s1 x h => ⟨fun out => ?_, fun hr hk here => ?_, fun hr hk not => ?_⟩, fun s x h => ⟨fun hr hk here => ?_, fun hr hk not => ?_⟩⟩,
    fun w s s1 x h => ⟨fun out => ?_, fun hr hk no => ?_, fun hr hk is unfreed rel => ?_, fun hr hk is unfreed rel => ?_⟩,
    fun w s x h => ⟨fun out => ?_, fun hr hk unread => ?_, fun hr hk read no => ?_, fun hr hk read is unfreed => ?_⟩⟩
  · exact (exec_stgwait hi s).trans (issue_group_trap h (stgwaitGroup_none (stageOf_none out)))
  · exact (exec_stgwait hi s).trans (issue_group_done h (stgwaitGroup_passes (stageOf_some hr hk) here))
  · exact (exec_stgwait hi s).trans (issue_group_done h (stgwaitGroup_holds (stageOf_some hr hk) not))
  · exact (exec_stgwait hi s).trans (issue_seq_done h (stgwaitSeq_passes (stageOf_some hr hk) here))
  · exact (exec_stgwait hi s).trans (issue_seq_gone h (.inl (stgwaitSeq_holds (stageOf_some hr hk) not)))
  · exact issue_group_trap h (stgfreeGroup_none (stageOf_none out))
  · exact issue_group_trap h (stgfreeGroup_refused (stageOf_some hr hk) no)
  · have hT : s1.team? x.t = some x.T := issues_team h
    refine ⟨_, freeEntry x s1 _ _, issue_group_done h (stgfreeGroup_queues (stageOf_some hr hk) is unfreed rel), ?_, rfl, rfl, ?_⟩
    · refine (finish_sq x s1 {} _ x.c).trans ?_
      rw [core_modCore, if_pos rfl, h.state]; rfl
    · exact (finish_keeps (fun _ _ => rfl) (fun _ _ _ => rfl) x s1 {} _ x.t).trans (congrArg (Option.map _) hT)
  · have performed := fun r' k' => finish_keeps (p := fun T => T.stage r' k') (fun _ _ => rfl) (fun _ _ _ => rfl) x s1 {}
      (s1.bumpStamp.emptyStage x.t (x.env.src w.a 0).toNat (x.env.src w.b 0).toNat) x.t
    have hT : s1.team? x.t = some x.T := issues_team h
    refine ⟨_, issue_group_done h (stgfreeGroup_empties (stageOf_some hr hk) is unfreed rel), ?_, fun r' k' _ hk' ne => ?_⟩
    · exact (performed _ _).trans ((emptyStage_stage (s := s1.bumpStamp) hT hk hk).trans (by rw [if_pos rfl]))
    · exact (performed _ _).trans ((emptyStage_stage (s := s1.bumpStamp) hT hk hk').trans (by rw [if_neg ne]))
  · exact issue_seq_trap h (stgfreeSeq_none (stageOf_none out))
  · exact issue_seq_gone h (.inr (stgfreeSeq_stalls (stageOf_some hr hk) (mt (operandsRead_iff _).mp unread)))
  · exact issue_seq_trap h (stgfreeSeq_refused (stageOf_some hr hk) ((operandsRead_iff _).mpr read) no)
  · exact issue_seq_done h (stgfreeSeq_empties (stageOf_some hr hk) ((operandsRead_iff _).mpr read) is unfreed)

end Sys2Proof.Divergence
end

section
/-! PROOFS. Runs and timing: what comes before and what follows a performed instruction of a group (O41). -/

namespace Sys2Proof.Runs

open Sys2Proof Sys2Proof.Machine Sys2Proof.Divergence

/-! ### Masks and holds through a write (R53, R54, R503) -/

/-- A choice depends on what its condition says alone. -/
theorem ite_iff {α : Type} {p q : Prop} [Decidable p] [Decidable q] (h : p ↔ q) (a b : α) : (if p then a else b) = if q then a else b := by
  by_cases hp : p
  · rw [if_pos hp, if_pos (h.mp hp)]
  · rw [if_neg hp, if_neg (mt h.mpr hp)]

/-- Is every lane that mask register `r` enrols held at its WAIT (R53)? -/
def releases (G : Group) (r : Nat) : Bool := spGet 0 G.m r != 0 && (lanesOf (spGet 0 G.m r)).all (fun l => (G.lane l).hold == .wait r)

/-- The lanes that a release of mask register `r` lets go on, where `old` is what it held before. -/
def released (G : Group) (r : Nat) (old : Half) : Lanes :=
  maskOf (fun l => (G.lane l).hold == .wait r && !inMask (old &&& ~~~spGet 0 G.m r) l)

/-- A group with lanes of a WAIT let go on. -/
def goOn (G : Group) (m : Lanes) : Group := G.modLanes m (fun _ L => { L with pc := nextSlot L.pc, hold := .runnable, wcnt := 0 })

/-- A mask register with a new value, in which exited lanes are clear, before the release test. -/
def putMask (G : Group) (r : Nat) (x : Half) : Group := { G with m := spPut 0 G.m r (x &&& G.live) }

theorem write_mask (G : Group) (r : Nat) (x : Half) : G.write (.m r x) = (putMask G r x).releaseMask r (spGet 0 G.m r) := rfl

theorem releaseMask_eq (G : Group) (r : Nat) (old : Half) :
    G.releaseMask r old = if releases G r = true then { goOn G (released G r old) with m := spPut 0 G.m r 0 } else G := rfl

theorem releaseMask_m (G : Group) (r q : Nat) (old : Half) :
    spGet 0 (G.releaseMask r old).m q = if q = r ∧ releases G r = true then 0 else spGet 0 G.m q := by
  rw [releaseMask_eq]
  split
  · next go =>
    show spGet 0 (spPut 0 G.m r 0) q = _
    rw [spGet_put]
    exact ite_iff (and_iff_left go).symm _ _
  · next stay => rw [if_neg (mt And.right stay)]

theorem goOn_hold (G : Group) (m : Lanes) (l : Nat) : ((goOn G m).lane l).hold = if inMask m l = true then .runnable else (G.lane l).hold := by
  rcases Nat.lt_or_ge l G.lanes.length with within | beyond
  · rw [goOn, Group.lane_modLanes _ _ _ _ within]; split <;> rfl
  · rw [Group.lane_beyond _ _ beyond, goOn, Group.lane_beyond _ _ (by rw [Group.modLanes_length]; exact beyond)]; split <;> rfl

theorem releaseMask_l (G : Group) (r : Nat) (old : Half) : (G.releaseMask r old).l = G.l := by rw [releaseMask_eq]; split <;> rfl

theorem releaseMask_h (G : Group) (r : Nat) (old : Half) : (G.releaseMask r old).h = G.h := by rw [releaseMask_eq]; split <;> rfl

/-- A lane's hold after a release test: a lane let go is runnable, the others stay held. -/
theorem releaseMask_hold (G : Group) (r : Nat) (old : Half) (l : Nat) :
    ((G.releaseMask r old).lane l).hold = if releases G r = true ∧ inMask (released G r old) l = true then .runnable else (G.lane l).hold := by
  rw [releaseMask_eq]
  split
  · next go => exact (goOn_hold ..).trans (ite_iff (and_iff_right go).symm _ _)
  · next stay => rw [if_neg (mt And.left stay)]

/-- A write that is not to a mask register lets no lane go on. -/
theorem write_hold {w : RegWrite} (hw : ∀ r x, w ≠ .m r x) (G : Group) (l : Nat) : ((G.write w).lane l).hold = (G.lane l).hold := by
  cases w with
  | v r m vals => exact Group.modLanes_keeps Lane.hold G m (fun l L => { L with v := spPut 0 L.v r (nth 0 vals l) }) (fun _ _ => rfl) l
  | p r m vals =>
    simp only [Group.write]
    split
    · rfl
    · exact Group.modLanes_keeps Lane.hold G m (fun l L => { L with p := if inMask vals l then L.p ||| (1#8 <<< r) else L.p &&& ~~~(1#8 <<< r) }) (fun _ _ => rfl) l
  | m r x => exact absurd rfl (hw r x)
  | s | l | h | lst | bcd | trnx => rfl

theorem write_m {w : RegWrite} (hw : ∀ r x, w ≠ .m r x) (G : Group) : (G.write w).m = G.m := by
  cases w with
  | p r m vals => simp only [Group.write]; split <;> rfl
  | m r x => exact absurd rfl (hw r x)
  | v | s | l | h | lst | bcd | trnx => rfl

theorem write_l (G : Group) (w : RegWrite) (r : Nat) :
    spGet 0 (G.write w).l r = (match w with | .l q x => if q = r then x else spGet 0 G.l r | _ => spGet 0 G.l r) := by
  cases w with
  | l q x => simp only [Group.write, spGet_put, eq_comm]
  | p => simp only [Group.write]; split <;> rfl
  | m q x => rw [write_mask, releaseMask_l]; rfl
  | v | s | h | lst | bcd | trnx => rfl

theorem write_h (G : Group) (w : RegWrite) (r : Nat) :
    spGet 0 (G.write w).h r = (match w with | .h q x => if q = r then x else spGet 0 G.h r | _ => spGet 0 G.h r) := by
  cases w with
  | h q x => simp only [Group.write, spGet_put, eq_comm]
  | p => simp only [Group.write]; split <;> rfl
  | m q x => rw [write_mask, releaseMask_h]; rfl
  | v | s | l | lst | bcd | trnx => rfl

/-! ### Groups whose registers stay alike through writes -/

/-- Two groups alike in every register but those listed, and in what later writes to the others depend on: which lanes have exited (R503), and which are held at a WAIT of a mask register that is not listed (R53). -/
structure Tracks (but : List Reg) (G H : Group) : Prop extends SameRegs but G H where
  length : H.lanes.length = G.lanes.length
  exited : ∀ l, (H.lane l).hold = .exited ↔ (G.lane l).hold = .exited
  waits : ∀ r l, Reg.m r ∉ but → ((H.lane l).hold = .wait r ↔ (G.lane l).hold = .wait r)

section
variable {but : List Reg} {G H K : Group}

theorem sameRegs_trans (a : SameRegs but G H) (b : SameRegs but H K) : SameRegs but G K where
  v r l n := (b.v r l n).trans (a.v r l n)
  s r n := (b.s r n).trans (a.s r n)
  p r l n := (b.p r l n).trans (a.p r l n)
  m r n := (b.m r n).trans (a.m r n)
  l r n := (b.l r n).trans (a.l r n)
  h r n := (b.h r n).trans (a.h r n)

theorem Tracks.trans (a : Tracks but G H) (b : Tracks but H K) : Tracks but G K where
  toSameRegs := sameRegs_trans a.toSameRegs b.toSameRegs
  length := b.length.trans a.length
  exited l := (b.exited l).trans (a.exited l)
  waits r l n := (b.waits r l n).trans (a.waits r l n)

/-- Groups with the same lanes and registers. -/
theorem tracks_of_eq (lanes : H.lanes = G.lanes) (s : H.s = G.s) (m : H.m = G.m) (l : H.l = G.l) (h : H.h = G.h) : Tracks but G H where
  v r k _ := by rw [lane_of_lanes lanes]
  s r _ := by rw [s]
  p r k _ := by rw [lane_of_lanes lanes]
  m r _ := by rw [m]
  l r _ := by rw [l]
  h r _ := by rw [h]
  length := by rw [lanes]
  exited k := by rw [lane_of_lanes lanes]
  waits r k _ := by rw [lane_of_lanes lanes]

theorem Tracks.refl (G : Group) : Tracks but G G := tracks_of_eq rfl rfl rfl rfl rfl

/-- The lanes that have exited are the same. -/
theorem Tracks.live (a : Tracks but G H) : H.live = G.live := by
  refine BitVec.eq_of_getLsbD_eq fun l _ => Bool.eq_iff_iff.mpr ?_
  exact (inMask_live H l).trans ((and_congr_right fun _ => not_congr (a.exited l)).trans (inMask_live G l).symm)

/-- A mask register that is not listed releases in both groups or in neither, and the same lanes. -/
theorem Tracks.releases (a : Tracks but G H) {r : Nat} (n : Reg.m r ∉ but) : releases H r = releases G r := by
  have held : ∀ l, ((H.lane l).hold == .wait r) = ((G.lane l).hold == .wait r) := fun l => by
    rw [Bool.eq_iff_iff, beq_iff_eq, beq_iff_eq]; exact a.waits r l n
  simp only [Runs.releases, a.m r n, held]

/-- The lanes let go were held at the WAIT, and the write that made the test did not clear their bits. -/
theorem inMask_released (G : Group) (r : Nat) (old : Half) (l : Nat) :
    inMask (released G r old) l = true ↔ l < 16 ∧ (G.lane l).hold = .wait r ∧ inMask (old &&& ~~~spGet 0 G.m r) l = false := by
  rw [released, inMask_maskOf, Bool.and_eq_true, Bool.and_eq_true, decide_eq_true_iff, beq_iff_eq, Bool.not_eq_true']

/-- A release test leaves the lanes that have exited. -/
theorem releaseMask_exited (G : Group) (r : Nat) (old : Half) (l : Nat) : ((G.releaseMask r old).lane l).hold = .exited ↔ (G.lane l).hold = .exited := by
  rw [releaseMask_hold]
  split
  · next go => rw [((inMask_released G r old l).mp go.2).2.1]; exact ⟨nofun, nofun⟩
  · rfl

/-- A lane is held at a WAIT after a release test where it was held there before and the test did not let it go. -/
theorem releaseMask_waits (G : Group) (r q : Nat) (old : Half) (l : Nat) : ((G.releaseMask r old).lane l).hold = .wait q ↔
    (G.lane l).hold = .wait q ∧ ¬ (q = r ∧ releases G r = true ∧ l < 16 ∧ inMask (old &&& ~~~spGet 0 G.m r) l = false) := by
  rw [releaseMask_hold]
  split
  · next lets =>
    obtain ⟨go, lets⟩ := lets
    obtain ⟨hl, held, kept⟩ := (inMask_released G r old l).mp lets
    refine ⟨nofun, fun ⟨there, stays⟩ => absurd ⟨Hold.wait.inj (there.symm.trans held), go, hl, kept⟩ stays⟩
  · next stays =>
    refine (and_iff_left_of_imp fun there => ?_).symm
    rintro ⟨rfl, go, hl, kept⟩
    exact stays ⟨go, (inMask_released G q old l).mpr ⟨hl, there, kept⟩⟩

/-- A release test of the same register leaves the groups alike. -/
theorem Tracks.releaseMask (a : Tracks but G H) (r : Nat) {old old' : Half} (same : Reg.m r ∉ but → old' = old) :
    Tracks but (G.releaseMask r old) (H.releaseMask r old') where
  v q l n := by rw [Group.releaseMask_keeps Lane.v (fun _ _ _ _ => rfl), Group.releaseMask_keeps Lane.v (fun _ _ _ _ => rfl), a.v q l n]
  s q n := by rw [Group.releaseMask_s, Group.releaseMask_s, a.s q n]
  p q l n := by
    rw [Group.releaseMask_keeps (fun L => L.pred q) (fun _ _ _ _ => rfl), Group.releaseMask_keeps (fun L => L.pred q) (fun _ _ _ _ => rfl), a.p q l n]
  m q n := by
    rw [releaseMask_m, releaseMask_m, a.m q n]
    refine ite_iff (and_congr_right ?_) _ _
    rintro rfl
    rw [a.releases n]
  l q n := by rw [releaseMask_l, releaseMask_l, a.l q n]
  h q n := by rw [releaseMask_h, releaseMask_h, a.h q n]
  length := by rw [Group.releaseMask_length, Group.releaseMask_length, a.length]
  exited l := by rw [releaseMask_exited, releaseMask_exited, a.exited l]
  waits q l n := by
    rw [releaseMask_waits, releaseMask_waits, a.waits q l n]
    refine and_congr_right fun _ => not_congr (and_congr_right ?_)
    rintro rfl
    rw [a.releases n, a.m q n, same n]

/-- A release test of a listed register leaves the group alike but for it. -/
theorem releaseMask_tracks (G : Group) {r : Nat} (old : Half) (listed : Reg.m r ∈ but) : Tracks but G (G.releaseMask r old) where
  v q l _ := congrArg (fun y => spGet 0 y q) (Group.releaseMask_keeps Lane.v (fun _ _ _ _ => rfl) ..)
  s q _ := by rw [Group.releaseMask_s]
  p q l _ := Group.releaseMask_keeps (fun L => L.pred q) (fun _ _ _ _ => rfl) ..
  m q n := by rw [releaseMask_m]; exact if_neg fun ⟨same, _⟩ => n (same ▸ listed)
  l q _ := by rw [releaseMask_l]
  h q _ := by rw [releaseMask_h]
  length := Group.releaseMask_length ..
  exited l := releaseMask_exited ..
  waits q l n := (releaseMask_waits ..).trans (and_iff_left fun both => n (both.1 ▸ listed))

theorem Tracks.putMask (a : Tracks but G H) (r : Nat) (x : Half) : Tracks but (putMask G r x) (putMask H r x) :=
  { a with m := fun q n => by rw [Runs.putMask, Runs.putMask, a.live, spGet_put, spGet_put, a.m q n] }

theorem putMask_tracks (G : Group) {r : Nat} (x : Half) (listed : Reg.m r ∈ but) : Tracks but G (putMask G r x) :=
  { Tracks.refl (but := but) G with m := fun q n => by rw [Runs.putMask, spGet_put]; exact if_neg fun same : q = r => n (same ▸ listed) }

/-- A write is to a mask register, or to another. -/
theorem mask_or_not (w : RegWrite) : (∃ r x, w = .m r x) ∨ ∀ r x, w ≠ .m r x := by
  cases w with
  | m r x => exact .inl ⟨r, x, rfl⟩
  | _ => exact .inr nofun

theorem write_beyond (w : RegWrite) {l : Nat} (h : G.lanes.length ≤ l) : (G.write w).lane l = Lane.start 0 :=
  Group.lane_beyond _ _ (Nat.le_trans (Nat.le_of_eq (Group.write_length G w)) h)

theorem pred_beyond (L : Lane) {r : Nat} (h : 8 ≤ r) : L.pred r = false := by
  rw [Lane.pred, BitVec.getLsbD_of_ge _ _ h, Bool.or_false, beq_eq_false_iff_ne]; omega

/-- The same write leaves the groups alike. -/
theorem Tracks.write (a : Tracks but G H) (w : RegWrite) : Tracks but (G.write w) (H.write w) := by
  rcases mask_or_not w with ⟨r, x, rfl⟩ | other
  · rw [write_mask, write_mask]
    exact (a.putMask r x).releaseMask r (a.m r)
  · exact
    { v := fun r l n => by
        rcases Nat.lt_or_ge l G.lanes.length with within | beyond
        · rw [Group.write_v _ _ _ _ within, Group.write_v _ _ _ _ (a.length ▸ within), a.v r l n]
        · rw [write_beyond w beyond, write_beyond w (Nat.le_trans (Nat.le_of_eq a.length) beyond)]
      s := fun r n => by rw [Group.write_s, Group.write_s, a.s r n]
      p := fun r l n => by
        rcases Nat.lt_or_ge r 8 with named | none
        · rcases Nat.lt_or_ge l G.lanes.length with within | beyond
          · rw [Group.write_p _ _ _ _ within named, Group.write_p _ _ _ _ (a.length ▸ within) named, a.p r l n]
          · rw [write_beyond w beyond, write_beyond w (Nat.le_trans (Nat.le_of_eq a.length) beyond)]
        · rw [pred_beyond _ none, pred_beyond _ none]
      m := fun r n => by rw [write_m other, write_m other, a.m r n]
      l := fun r n => by rw [write_l, write_l, a.l r n]
      h := fun r n => by rw [write_h, write_h, a.h r n]
      length := by rw [Group.write_length, Group.write_length, a.length]
      exited := fun l => by rw [write_hold other, write_hold other, a.exited l]
      waits := fun r l n => by rw [write_hold other, write_hold other, a.waits r l n] }

/-- A write that names no register but listed ones leaves the group alike. -/
theorem write_tracks (G : Group) {w : RegWrite} (listed : ∀ r, w.reg = some r → r ∈ but) : Tracks but G (G.write w) := by
  have unnamed : ∀ r, r ∉ but → ∀ q ∈ [({ due := 0, w := w } : Pend)], q.w.reg ≠ some r := fun r n q hq => by
    rw [List.mem_singleton.mp hq]; exact fun names => n (listed r names)
  rcases mask_or_not w with ⟨r, x, rfl⟩ | other
  · rw [write_mask]
    exact (putMask_tracks G x (listed _ rfl)).trans (releaseMask_tracks _ _ (listed _ rfl))
  · exact
    { v := fun r l n => by
        rcases Nat.lt_or_ge l G.lanes.length with within | beyond
        · exact (Group.write_v _ _ _ _ within).trans (throughV_clear r l _ _ (unnamed _ n))
        · rw [write_beyond w beyond, Group.lane_beyond _ _ beyond]
      s := fun r n => (Group.write_s ..).trans (throughS_clear r _ _ (unnamed _ n))
      p := fun r l n => by
        rcases Nat.lt_or_ge r 8 with named | none
        · rcases Nat.lt_or_ge l G.lanes.length with within | beyond
          · exact (Group.write_p _ _ _ _ within named).trans (throughP_clear r l _ _ (unnamed _ n))
          · rw [write_beyond w beyond, Group.lane_beyond _ _ beyond]
        · rw [pred_beyond _ none, pred_beyond _ none]
      m := fun r _ => by rw [write_m other]
      l := fun r n => by
        rw [write_l]
        split
        · next q x => exact if_neg fun same : q = r => n (same ▸ listed _ rfl)
        · rfl
      h := fun r n => by
        rw [write_h]
        split
        · next q x => exact if_neg fun same : q = r => n (same ▸ listed _ rfl)
        · rfl
      length := Group.write_length G w
      exited := fun l => by rw [write_hold other]
      waits := fun r l _ => by rw [write_hold other] }

/-! ### Results written in order (R70, R72, R73) -/

theorem Tracks.commitAll (a : Tracks but G H) (ps : List Pend) : Tracks but (G.commitAll ps) (H.commitAll ps) := by
  induction ps generalizing G H with
  | nil => exact a
  | cons p ps ih => exact ih (a.write p.w)

/-- Results that name no register but listed ones. -/
theorem commitAll_tracks (G : Group) (ps : List Pend) (listed : ∀ p ∈ ps, ∀ r, p.w.reg = some r → r ∈ but) : Tracks but G (G.commitAll ps) := by
  induction ps generalizing G with
  | nil => exact Tracks.refl G
  | cons p ps ih =>
    have head : Tracks but G (G.write p.w) := write_tracks G (listed p List.mem_cons_self)
    exact head.trans (ih _ fun q hq => listed q (List.mem_cons_of_mem _ hq))

theorem commitAll_append (G : Group) (ps qs : List Pend) : G.commitAll (ps ++ qs) = (G.commitAll ps).commitAll qs := by
  induction ps generalizing G with
  | nil => rfl
  | cons p ps ih => exact ih _

/-- One more result among the others, that names no register but a listed one. -/
theorem commitAll_insPend_tracks (G : Group) {y : Pend} (listed : ∀ r, y.w.reg = some r → r ∈ but) (ps : List Pend) :
    Tracks but (G.commitAll ps) (G.commitAll (insPend y ps)) := by
  induction ps generalizing G with
  | nil => exact write_tracks G listed
  | cons p ps ih =>
    rw [insPend]
    split
    · exact (write_tracks G listed).commitAll (p :: ps)
    · exact ih _

/-- The results of one instruction among those of its run. -/
theorem commitAll_insPends_tracks (G : Group) (clk : Nat) {ws : List (Nat × RegWrite)} (listed : ∀ w ∈ ws, ∀ r, w.2.reg = some r → r ∈ but) (ps : List Pend) :
    Tracks but (G.commitAll ps) (G.commitAll (ws.foldl (fun a w => insPend { due := clk + w.1, w := w.2 } a) ps)) := by
  induction ws generalizing ps with
  | nil => exact Tracks.refl _
  | cons w ws ih =>
    have head := commitAll_insPend_tracks G (y := { due := clk + w.1, w := w.2 }) (listed w List.mem_cons_self) ps
    exact head.trans (ih (fun v hv => listed v (List.mem_cons_of_mem _ hv)) _)

end

/-- The registers that an instruction's writes change: with N none (R78). -/
theorem commitAll_pendAfter_tracks (G : Group) (x : Ctx) (ws : List (Nat × RegWrite)) :
    Tracks (if (formOf x.i).hdr.noWrite then [] else ws.filterMap (·.2.reg)) (G.commitAll x.run.pend) (G.commitAll (x.pendAfter ws)) := by
  refine commitAll_insPends_tracks G x.run.clk (fun w hw r names => ?_) x.run.pend
  split at hw
  · rw [beq_iff_eq.mp (List.mem_filter.mp hw).2] at names; exact nomatch names
  · next write => rw [if_neg write]; exact List.mem_filterMap.mpr ⟨w, hw, names⟩

/-- The results due by a cycle are the first of the list, and are written in order. -/
theorem commitTo_eq (G : Group) (c : Nat) (ps : List Pend) : ∃ first rest, ps = first ++ rest ∧ G.commitTo c ps = (G.commitAll first, rest) := by
  induction ps generalizing G with
  | nil => exact ⟨[], [], rfl, rfl⟩
  | cons p ps ih =>
    by_cases due : p.due ≤ c
    · obtain ⟨first, rest, whole, written⟩ := ih (G.write p.w)
      exact ⟨p :: first, rest, by rw [whole]; rfl, by rw [Group.commitTo, if_pos due, written]; rfl⟩
    · exact ⟨[], p :: ps, rfl, by rw [Group.commitTo, if_neg due]; rfl⟩

theorem mem_insPend {y p : Pend} {ps : List Pend} (h : p ∈ insPend y ps) : p = y ∨ p ∈ ps := by
  induction ps with
  | nil => exact .inl (List.mem_singleton.mp h)
  | cons q ps ih =>
    rw [insPend] at h
    split at h
    · exact List.mem_cons.mp h
    · rcases List.mem_cons.mp h with rfl | h
      · exact .inr List.mem_cons_self
      · exact (ih h).imp id (List.mem_cons_of_mem _)

theorem mem_insPends (clk : Nat) {p : Pend} (ws : List (Nat × RegWrite)) (ps : List Pend)
    (h : p ∈ ws.foldl (fun a w => insPend { due := clk + w.1, w := w.2 } a) ps) : p ∈ ps ∨ ∃ w ∈ ws, w.2 = p.w := by
  induction ws generalizing ps with
  | nil => exact .inl h
  | cons w ws ih =>
    rcases ih _ h with h | ⟨v, hv, same⟩
    · rcases mem_insPend h with rfl | h
      · exact .inr ⟨w, List.mem_cons_self, rfl⟩
      · exact .inl h
    · exact .inr ⟨v, List.mem_cons_of_mem _ hv, same⟩

/-- A result on its way after an instruction is one of the run's, or one of its own. -/
theorem mem_pendAfter {x : Ctx} {ws : List (Nat × RegWrite)} {p : Pend} (h : p ∈ x.pendAfter ws) : p ∈ x.run.pend ∨ ∃ w ∈ ws, w.2 = p.w := by
  refine (mem_insPends _ _ _ h).imp id fun ⟨w, hw, same⟩ => ⟨w, ?_, same⟩
  split at hw
  · exact (List.mem_filter.mp hw).1
  · exact hw

/-! ### Trap registers (R376) -/

theorem sameTrapRegs_trans {G H K : Group} (a : SameTrapRegs G H) (b : SameTrapRegs H K) : SameTrapRegs G K := by
  obtain ⟨a1, a2, a3, a4, a5, a6⟩ := a
  obtain ⟨b1, b2, b3, b4, b5, b6⟩ := b
  exact ⟨b1.trans a1, b2.trans a2, b3.trans a3, b4.trans a4, b5.trans a5, b6.trans a6⟩

theorem write_trapRegs (G : Group) (w : RegWrite) : SameTrapRegs G (G.write w) := by
  cases w with
  | p => rw [Group.write]; split <;> exact ⟨rfl, rfl, rfl, rfl, rfl, rfl⟩
  | m => rw [write_mask, releaseMask_eq]; split <;> exact ⟨rfl, rfl, rfl, rfl, rfl, rfl⟩
  | _ => exact ⟨rfl, rfl, rfl, rfl, rfl, rfl⟩

theorem commitAll_trapRegs (G : Group) (ps : List Pend) : SameTrapRegs G (G.commitAll ps) := by
  induction ps generalizing G with
  | nil => exact ⟨rfl, rfl, rfl, rfl, rfl, rfl⟩
  | cons p ps ih => exact sameTrapRegs_trans (write_trapRegs G p.w) (ih _)

/-! ### States alike but for one group -/

section
variable {n g j : Nat} {s t u : State}

theorem elsewhere_trans (a : SameElsewhere n g s t) (b : SameElsewhere n g t u) : SameElsewhere n g s u where
  mem := b.mem.trans a.mem
  mmp := b.mmp.trans a.mmp
  refl := b.refl.trans a.refl
  links := b.links.trans a.links
  sched := b.sched.trans a.sched
  threads := b.threads.trans a.threads
  teams k h := (b.teams k h).trans (a.teams k h)
  groups k h := (b.groups k h).trans (a.groups k h)
  shares k := (b.shares k).trans (a.shares k)
  bars := b.bars.trans a.bars
  stages := b.stages.trans a.stages
  special := b.special.trans a.special

theorem elsewhere_refl (n g : Nat) (s : State) : SameElsewhere n g s s := ⟨rfl, rfl, rfl, rfl, rfl, rfl, fun _ _ => rfl, fun _ _ => rfl, fun _ => rfl, rfl, rfl, rfl⟩

theorem elsewhere_tick (n g : Nat) (s : State) : SameElsewhere n g s s.tick := ⟨rfl, rfl, rfl, rfl, rfl, rfl, fun _ _ => rfl, fun _ _ => rfl, fun _ => rfl, rfl, rfl, rfl⟩

theorem elsewhere_freeQuad (s : State) (c n g : Nat) : SameElsewhere n g s (s.freeQuad c n g) := ⟨rfl, rfl, rfl, rfl, rfl, rfl, fun _ _ => rfl, fun _ _ => rfl, fun _ => rfl, rfl, rfl, rfl⟩

/-- Replacing a group of a team. -/
theorem elsewhere_setGroup {T : Team} {G : Group} (hT : s.team? n = some T) (hG : G.gid = g) : SameElsewhere n g s (s.setTeam (T.setGroup G)) := by
  have hid := State.team?_id s n T hT
  have here : (s.setTeam (T.setGroup G)).team? n = some (T.setGroup G) := State.team?_setTeam_same s T _ n hT hid
  exact
  { mem := rfl, mmp := rfl, refl := rfl, links := rfl, sched := rfl, threads := rfl
    teams := fun k h => State.team?_setTeam_other _ _ _ (by rw [Team.setGroup_id, hid]; exact h)
    groups := fun k h => by
      rw [State.group?, State.group?, here, hT]
      exact Team.group?_setGroup_other T G k (hG ▸ h)
    shares := fun k => by rw [here, hT]; rfl
    bars := by rw [here, hT]; rfl
    stages := by rw [here, hT]; rfl
    special := by rw [here, hT]; rfl }

theorem elsewhere_modGroup (s : State) {f : Group → Group} (hf : ∀ G, (f G).gid = G.gid) : SameElsewhere n g s (s.modGroup n g f) := by
  unfold State.modGroup
  split
  · next T hT =>
    split
    · next G hG => exact elsewhere_setGroup hT ((hf G).trans (Team.group?_gid T g G hG))
    · exact elsewhere_refl n g s
  · exact elsewhere_refl n g s

/-! ### The share of a group -/

/-- A team whose share of one number is changed. -/
theorem team?_modShare {T : Team} {x : Share} (f : Share → Share) (hT : s.team? n = some T) (hx : T.share? j = some x) :
    s.modShare n j f = s.setTeam (T.setShare j (f x)) ∧ (s.modShare n j f).team? n = some (T.setShare j (f x)) := by
  have made : s.modShare n j f = s.setTeam (T.setShare j (f x)) := by simp only [State.modShare, hT, hx]
  exact ⟨made, made ▸ State.team?_setTeam_same s T _ n hT (State.team?_id s n T hT)⟩

/-- Only what a function makes of the share itself counts. -/
theorem modShare_congr {f f' : Share → Share} (h : ∀ x, (s.team? n).bind (fun T => T.share? j) = some x → f x = f' x) : s.modShare n j f = s.modShare n j f' := by
  unfold State.modShare
  split
  · next T hT =>
    split
    · next x hx => rw [h x (by rw [hT]; exact hx)]
    · rfl
  · rfl

theorem team?_modShare_other (s : State) (f : Share → Share) {k : Nat} (h : k ≠ n) : (s.modShare n j f).team? k = s.team? k := by
  unfold State.modShare
  split
  · next T hT =>
    split
    · exact State.team?_setTeam_other _ _ _ (by rw [Team.setShare_id, State.team?_id s n T hT]; exact h)
    · rfl
  · rfl

theorem share?_modShare (s : State) (n j k : Nat) (f : Share → Share) : ((s.modShare n j f).team? n).bind (fun T => T.share? k) =
    ((s.team? n).bind (fun T => T.share? k)).map (if k = j then f else id) := by
  cases hT : s.team? n with
  | none => simp only [State.modShare, hT, Option.bind_none, Option.map_none]
  | some T =>
    rw [Option.bind_some]
    cases hx : T.share? j with
    | none =>
      simp only [State.modShare, hT, hx, Option.bind_some]
      split
      · next same => rw [same, hx]; rfl
      · exact Option.map_id'.symm
    | some x =>
      rw [(team?_modShare f hT hx).2, Option.bind_some, Team.share?_setShare]
      split
      · next same => rw [same, hx]; rfl
      · exact Option.map_id'.symm

/-- The same change of a share in two states that are alike. -/
theorem elsewhere_modShare (a : SameElsewhere n g s t) (j : Nat) (f : Share → Share) : SameElsewhere n g (s.modShare n j f) (t.modShare n j f) where
  mem := by simp only [State.modShare_mem, a.mem]
  mmp := by simp only [State.modShare_mmp, a.mmp]
  refl := by simp only [State.modShare_refl, a.refl]
  links := by simp only [State.modShare_links, a.links]
  sched := by simp only [State.modShare_sched, a.sched]
  threads := by simp only [State.modShare_threads, a.threads]
  teams k h := by rw [team?_modShare_other _ _ h, team?_modShare_other _ _ h, a.teams k h]
  groups k h := by rw [State.group?_modShare, State.group?_modShare, a.groups k h]
  shares k := by rw [share?_modShare, share?_modShare, a.shares k]
  bars := by rw [modShare_keeps (fun _ _ _ => rfl), modShare_keeps (fun _ _ _ => rfl), a.bars]
  stages := by rw [modShare_keeps (fun _ _ _ => rfl), modShare_keeps (fun _ _ _ => rfl), a.stages]
  special := by rw [modShare_keeps (fun _ _ _ => rfl), modShare_keeps (fun _ _ _ => rfl), a.special]

/-- A share that is left as it is. -/
theorem elsewhere_modShare_id (s : State) (n g j : Nat) : SameElsewhere n g (s.modShare n j id) s where
  mem := (State.modShare_mem ..).symm
  mmp := (State.modShare_mmp ..).symm
  refl := (State.modShare_refl ..).symm
  links := (State.modShare_links ..).symm
  sched := (State.modShare_sched ..).symm
  threads := (State.modShare_threads ..).symm
  teams k h := (team?_modShare_other _ _ h).symm
  groups k h := (State.group?_modShare ..).symm
  shares k := by rw [share?_modShare, ite_self]; exact Option.map_id'.symm
  bars := (modShare_keeps (fun _ _ _ => rfl) ..).symm
  stages := (modShare_keeps (fun _ _ _ => rfl) ..).symm
  special := (modShare_keeps (fun _ _ _ => rfl) ..).symm

/-! ### Sets of TRNX (R95, R96) -/

/-- A share with TRNX set where `b` holds, and with more sets of it on their way. -/
def addTrnx (b : Bool) (l : List LateSet) (sh : Share) : Share := { sh with trnx := sh.trnx || b, trnxLate := sh.trnxLate ++ l }

theorem addTrnx_none : addTrnx false [] = id := by
  funext sh
  simp only [addTrnx, Bool.or_false, List.append_nil, id]

variable {p : Prop}

theorem butTrnx_of_addTrnx {b : Bool} {l : List LateSet} (h : b = true ∨ l ≠ [] → p) (a : SameElsewhere n g (s.modShare n j (addTrnx b l)) t) :
    SameButTrnx n g j p s t := by
  by_cases hp : p
  · exact ⟨_, .inr ⟨hp, b, l, rfl⟩, a⟩
  · obtain rfl : b = false := Bool.eq_false_iff.mpr fun hb => hp (h (.inl hb))
    obtain rfl : l = [] := Classical.byContradiction fun hl => hp (h (.inr hl))
    exact ⟨id, .inl rfl, addTrnx_none ▸ a⟩

theorem butTrnx_of_elsewhere (a : SameElsewhere n g s t) : SameButTrnx n g j p s t :=
  ⟨id, .inl rfl, elsewhere_trans (elsewhere_modShare_id s n g j) a⟩

theorem butTrnx_trans (a : SameElsewhere n g s t) (b : SameButTrnx n g j p t u) : SameButTrnx n g j p s u := by
  obtain ⟨f, hf, b⟩ := b
  exact ⟨f, hf, elsewhere_trans (elsewhere_modShare a j f) b⟩

theorem butTrnx_trans_elsewhere (a : SameButTrnx n g j p s t) (b : SameElsewhere n g t u) : SameButTrnx n g j p s u := by
  obtain ⟨f, hf, a⟩ := a
  exact ⟨f, hf, elsewhere_trans a b⟩

/-- What a run that ends makes of the share: TRNX is set, and sets of it are on their way. -/
theorem lateTrnx_addTrnx (G : Group) (tight : Bool) (clk : Nat) (ps : List Pend) : ∃ b l, ∀ sh : Share, sh.lateTrnx G tight clk ps = addTrnx b l sh :=
  ⟨_, _, fun _ => rfl⟩

/-- Is a group ready to follow on the core of a group's share (R84)? -/
def followedAt (s : State) (t : Nat) (G : Group) : Bool := ((s.team? t).bind (fun T => T.share? G.core)).any (fun sh => s.followed sh.core G)

/-- The sets of TRNX among the results of a run that ends. -/
theorem butTrnx_lateTrnx (s : State) (t g : Nat) (G : Group) (clk : Nat) {ps : List Pend} (hp : (∃ y ∈ ps, y.w = .trnx) → p) :
    SameButTrnx t g G.core p s (s.lateTrnx t G clk ps) := by
  unfold State.lateTrnx
  split
  · next sets =>
    obtain ⟨y, hy, set⟩ := List.any_eq_true.mp sets
    obtain ⟨b, l, made⟩ := lateTrnx_addTrnx G (followedAt s t G) clk ps
    refine butTrnx_of_addTrnx (b := b) (l := l) (fun _ => hp ⟨y, hy, beq_iff_eq.mp set⟩) ?_
    rw [modShare_congr (f' := fun sh => sh.lateTrnx G (s.followed sh.core G) clk ps)]
    · exact elsewhere_refl ..
    · intro sh found
      have tight : followedAt s t G = s.followed sh.core G := by rw [followedAt, found]; rfl
      rw [← made, tight]
  · exact butTrnx_of_elsewhere (elsewhere_refl ..)

/-- The group whose run has ended: its results are written, the meetings that this completes are released, and its latches are lost (R51, R70, R79). -/
def runEnded (ps : List Pend) (G : Group) : Group := Group.meetSettle { G.commitAll ps with run := none, xs := [], xprev := [], ready := false }

theorem endRun_eq {G : Group} (hG : s.group? n g = some G) (c : Nat) (r : Run) :
    s.endRun n g c r = ((s.lateTrnx n G r.clk r.pend).modGroup n g (runEnded r.pend)).freeQuad c n g := by
  unfold State.endRun
  rw [hG]
  rfl

/-- The end of a run. -/
theorem butTrnx_endRun {G : Group} (hG : s.group? n g = some G) (c : Nat) (r : Run) (hp : (∃ y ∈ r.pend, y.w = .trnx) → p) :
    SameButTrnx n g G.core p s (s.endRun n g c r) := by
  rw [endRun_eq hG]
  have written : SameElsewhere n g (s.lateTrnx n G r.clk r.pend) ((s.lateTrnx n G r.clk r.pend).modGroup n g (runEnded r.pend)) :=
    elsewhere_modGroup _ (Group.commitAll_gid r.pend)
  exact butTrnx_trans_elsewhere (butTrnx_lateTrnx s n g G r.clk hp) (elsewhere_trans written (elsewhere_freeQuad _ c n g))

end

/-! ### What comes before an instruction -/

/-- Sets of TRNX alone write no register. -/
theorem dueBy_trnx {c : Nat} {ps : List Pend} {y : Pend} (h : y ∈ (dueBy c ps).2) : y.w = .trnx := by
  have set := (List.mem_filter.mp h).2
  rw [Bool.and_eq_true, beq_iff_eq] at set
  exact set.1

/-- What the results due make of the share. -/
theorem takeTrnx_addTrnx (sh : Share) (ps : List Pend) : sh.takeTrnx ps = addTrnx (ps.any (fun p => p.w == .trnx)) [] sh := by
  simp only [Share.takeTrnx, addTrnx, List.append_nil]

theorem setTeam_setTeam (s : State) {T U : Team} (h : T.id = U.id) : (s.setTeam T).setTeam U = s.setTeam U := by
  simp only [State.setTeam, List.map_map, State.mk.injEq, true_and, and_true]
  refine List.map_congr_left fun x _ => ?_
  by_cases named : x.id = U.id
  · simp [named, h]
  · simp [named, h]

/-- A group in a run. -/
def inRun (r : Run) (G : Group) : Group := { G with run := some r }

theorem inRun_tracks {but : List Reg} (r : Run) (G : Group) : Tracks but G (inRun r G) := tracks_of_eq rfl rfl rfl rfl rfl

/-- A group's registers once the results due are written come to what they would have come to. -/
theorem settled_issued {G : Group} {r R : Run} (hr : G.run = some r) (hR : R.pend = (dueBy r.clk r.pend).2 ++ (G.commitTo r.clk r.pend).2) :
    SameRegs [] G.settled (inRun R (G.commitTo r.clk r.pend).1).settled := by
  obtain ⟨first, rest, whole, written⟩ := commitTo_eq G r.clk r.pend
  rw [written] at hR ⊢
  have before : G.settled = (G.commitAll first).commitAll rest := by rw [Group.settled, hr, ← commitAll_append, ← whole]
  have after : (inRun R (G.commitAll first)).settled = ((inRun R (G.commitAll first)).commitAll (dueBy r.clk r.pend).2).commitAll rest := by
    rw [← commitAll_append, ← hR]; rfl
  have sets : Tracks [] (inRun R (G.commitAll first)) ((inRun R (G.commitAll first)).commitAll (dueBy r.clk r.pend).2) :=
    commitAll_tracks _ _ fun y hy _ names => by rw [dueBy_trnx hy] at names; exact nomatch names
  rw [before, after]
  exact (((inRun_tracks R _).trans sets).commitAll rest).toSameRegs

/-- What comes before a performed instruction of a group writes the results that are due. -/
theorem groupCtx_frame {t g : Nat} {i : Instr} {s s1 : State} {x : Ctx} (h : groupCtx t g i s = some (x, s1)) :
    ∃ G, s.group? t g = some G ∧ SameButTrnx t g G.core G.trnxDue s s1 ∧ s1.group? t g = some x.G ∧ SameTrapRegs G x.G ∧ SameRegs [] G.settled x.G.settled := by
  obtain ⟨-, -, -, hs, -, -, T, G, r, sh, hT, hG, hr, hsh, hxsh, hrun, hxG, hxT, -, -⟩ := groupCtx_who h
  have hid := State.team?_id s t T hT
  obtain ⟨first, rest, -, written⟩ := commitTo_eq G r.clk r.pend
  have gid : x.G.gid = g := by
    rw [hxG, written]
    exact (Group.commitAll_gid first G).trans (Team.group?_gid T g G hG)
  refine ⟨G, by rw [State.group?, hT]; exact hG, ?_, ?_, ?_, ?_⟩
  · obtain ⟨made, found⟩ := team?_modShare (addTrnx ((dueBy r.clk r.pend).1.any (fun p => p.w == .trnx)) []) hT hsh
    rw [← takeTrnx_addTrnx, ← hxsh] at made found
    have two_steps : s1 = (s.setTeam (T.setShare G.core x.sh)).setTeam x.T := by rw [hs, setTeam_setTeam s (by rw [hxT]; rfl)]
    have replaced : SameElsewhere t g (s.modShare t G.core (addTrnx ((dueBy r.clk r.pend).1.any (fun p => p.w == .trnx)) [])) s1 := by
      rw [two_steps, ← made, hxT]
      exact elsewhere_setGroup found gid
    refine butTrnx_of_addTrnx (fun set => ?_) replaced
    obtain ⟨y, hy, isSet⟩ := List.any_eq_true.mp (set.resolve_right (· rfl))
    exact ⟨r, hr, y, (List.mem_filter.mp hy).1, beq_iff_eq.mp isSet⟩
  · rw [hs, State.group?_setTeam s x.T t g T hT (by rw [hxT]; exact hid), hxT]
    exact Team.group?_setGroup_same _ G _ g hG gid
  · rw [hxG, written]
    exact commitAll_trapRegs G first
  · rw [hxG]
    exact settled_issued hr (congrArg Run.pend hrun)

/-! ### What follows an instruction -/

/-- The group as a performed instruction leaves it, before its run goes on or ends: its latches, and its lanes' PCs. -/
def after (x : Ctx) (s1 : State) (e : Eff) (G : Group) : Group :=
  if e.stay then G.latchesAfter x.run.clk (x.cutPair s1) x.cut e
  else stepLanes (G.latchesAfter x.run.clk (x.cutPair s1) x.cut e) x.ex x.pc e.goto

/-- The run that goes on has the results of the instruction among its own. -/
theorem finish_after {x : Ctx} {s2 : State} {T : Team} {G : Group} (s1 : State) (e : Eff) (hT : s2.team? x.t = some T) (hG : T.group? x.g = some G) :
    ∃ run : Run, run.pend = x.pendAfter e.writes ∧
      (x.finish s1 e s2 = s2.setTeam (T.setGroup (inRun run (after x s1 e G))) ∨
       x.finish s1 e s2 = (s2.setTeam (T.setGroup (inRun run (after x s1 e G)))).endRun x.t x.g x.c run) := by
  unfold Ctx.finish Sys2Proof.Machine.finish
  simp only [hT, hG]
  exact ⟨_, rfl, ite_three _ _ _ _⟩

/-- A group's latches alone change after an instruction. -/
theorem latchesAfter_eq (G : Group) (clk : Nat) (cutPair cut : Bool) (e : Eff) : ∃ xs xprev, G.latchesAfter clk cutPair cut e = { G with xs := xs, xprev := xprev } := by
  unfold Group.latchesAfter
  split
  · exact ⟨_, _, rfl⟩
  · split
    · exact ⟨_, _, rfl⟩
    · exact ⟨_, _, rfl⟩

theorem stepLanes_tracks {but : List Reg} (G : Group) (ex : Lanes) (pc : DWord) (goto : List (Nat × DWord)) : Tracks but G (stepLanes G ex pc goto) where
  v r l _ := congrArg (fun y => spGet 0 y r) (stepLanes_keeps Lane.v (fun _ _ => rfl) ..)
  s _ _ := rfl
  p r l _ := stepLanes_keeps (fun L => L.pred r) (fun _ _ => rfl) ..
  m _ _ := rfl
  l _ _ := rfl
  h _ _ := rfl
  length := Group.modLanes_length ..
  exited _ := by rw [stepLanes_keeps Lane.hold (fun _ _ => rfl)]
  waits _ _ _ := by rw [stepLanes_keeps Lane.hold (fun _ _ => rfl)]

/-- The group as an instruction leaves it has the number, the core, the trap registers and the registers that it had. -/
theorem after_keeps {but : List Reg} (x : Ctx) (s1 : State) (e : Eff) (G : Group) (run : Run) :
    (after x s1 e G).gid = G.gid ∧ (after x s1 e G).core = G.core ∧ SameTrapRegs G (after x s1 e G) ∧ Tracks but G (inRun run (after x s1 e G)) := by
  obtain ⟨xs, xprev, latched⟩ := latchesAfter_eq G x.run.clk (x.cutPair s1) x.cut e
  have latches : Tracks but G { G with xs := xs, xprev := xprev } := tracks_of_eq rfl rfl rfl rfl rfl
  rw [after, latched]
  split
  · exact ⟨rfl, rfl, ⟨rfl, rfl, rfl, rfl, rfl, rfl⟩, tracks_of_eq rfl rfl rfl rfl rfl⟩
  · exact ⟨rfl, rfl, ⟨rfl, rfl, rfl, rfl, rfl, rfl⟩, (latches.trans (stepLanes_tracks _ x.ex x.pc e.goto)).trans (inRun_tracks run _)⟩

/-- The meetings that the end of a run makes leave the registers as its results made them (R51, R70). -/
theorem runEnded_sameRegs {but : List Reg} (ps : List Pend) (G : Group) : SameRegs but (G.commitAll ps) (runEnded ps G) where
  v r _ _ := congrArg (fun y => spGet 0 y r) (Group.meetSettle_keeps Lane.v (fun _ _ _ _ => rfl) ..)
  s _ _ := rfl
  p r _ _ := Group.meetSettle_keeps (fun L => L.pred r) (fun _ _ _ _ => rfl) ..
  m _ _ := rfl
  l _ _ := rfl
  h _ _ := rfl

/-- What follows a performed instruction of a group changes that group alone, and of it no register but those of its results. -/
theorem finish_frame {x : Ctx} {s2 : State} {G : Group} (s1 : State) (e : Eff) (h : s2.group? x.t x.g = some G) :
    SameButTrnx x.t x.g G.core ((∃ p ∈ x.run.pend, p.w = .trnx) ∨ ∃ y ∈ e.writes, y.2 = .trnx) s2 (x.finish s1 e s2) ∧
    ∃ H, (x.finish s1 e s2).group? x.t x.g = some H ∧ SameTrapRegs G H ∧
      SameRegs (if (formOf x.i).hdr.noWrite then [] else e.writes.filterMap (·.2.reg)) (G.commitAll x.run.pend) H.settled := by
  obtain ⟨T, hT, hG⟩ := Option.bind_eq_some_iff.mp h
  obtain ⟨run, pends, finished⟩ := finish_after s1 e hT hG
  obtain ⟨gid, core, traps, tracks⟩ := after_keeps (but := if (formOf x.i).hdr.noWrite then [] else e.writes.filterMap (·.2.reg)) x s1 e G run
  replace gid := gid.trans (Team.group?_gid T x.g G hG)
  have set : SameElsewhere x.t x.g s2 (s2.setTeam (T.setGroup (inRun run (after x s1 e G)))) := elsewhere_setGroup hT gid
  have here : (s2.setTeam (T.setGroup (inRun run (after x s1 e G)))).group? x.t x.g = some (inRun run (after x s1 e G)) := by
    rw [State.group?_setTeam s2 (T.setGroup _) x.t x.g T hT (State.team?_id s2 x.t T hT)]
    exact Team.group?_setGroup_same T G _ x.g hG gid
  have written := (commitAll_pendAfter_tracks G x e.writes).trans (tracks.commitAll _)
  rw [← pends] at written
  rcases finished with finished | finished <;> rw [finished]
  · exact ⟨butTrnx_of_elsewhere set, _, here, traps, written.toSameRegs⟩
  · refine ⟨butTrnx_trans set (core ▸ butTrnx_endRun here x.c run fun ⟨y, hy, isSet⟩ => ?_), _, State.group?_endRun x.c run here, ?_, ?_⟩
    · rw [pends] at hy
      exact (mem_pendAfter hy).imp (fun old => ⟨y, old, isSet⟩) fun ⟨w, hw, same⟩ => ⟨w, hw, same.trans isSet⟩
    · exact sameTrapRegs_trans traps (commitAll_trapRegs (inRun run (after x s1 e G)) run.pend)
    · exact sameRegs_trans written.toSameRegs (runEnded_sameRegs run.pend _)

/-- Settles O41: the results due are written before an instruction; after it, its results join those of the run, and a run that ends writes them all. -/
theorem performedFrame : Obligations.PerformedFrame := by
  unfold Obligations.PerformedFrame
  refine ⟨fun t g i s s1 x h => ?_, fun x s1 s2 e G h => ?_⟩
  · obtain ⟨-, -, -, hs, -⟩ := groupCtx_who h
    exact ⟨by rw [hs]; rfl, by rw [hs]; rfl, groupCtx_frame h⟩
  · obtain ⟨frame, there⟩ := finish_frame s1 e h
    exact ⟨butTrnx_trans_elsewhere frame (elsewhere_tick ..), there⟩

end Sys2Proof.Runs
end

section
/-! PROOFS. Program state: reset and bring-up (O31), the system registers (O55). -/

namespace Sys2Proof.ProgramState

open Sys2Proof Sys2Proof.Machine Sys2Proof.Divergence

/-! ### Reset and bring-up (R401, R404) -/

theorem bootOk_iff (svn : Nat) (images : List Image) :
    bootOk svn images = true ↔ images ≠ [] ∧ ∀ x ∈ images, x.sigOk = true ∧ svn ≤ x.svn := by
  simp [bootOk]

/-- What the power-on step gives the package before the boot ROM has decided: all at its reset value, but for the flash and what is fused. -/
def powerOnPkg (images : List Image) (s : State) : Pkg := { State.reset.pkg with flash := images, svn := s.pkg.svn, debugOn := false }

/-- The state after the power-on step, of a package that it leaves as `p`: all else at its reset value, but for the requests of the outside world. -/
def poweredOn (s : State) (p : Pkg) : State :=
  { State.reset with ctl := { State.reset.ctl with draws := s.ctl.draws + 1, inputs := s.ctl.inputs, settings := s.ctl.settings }, pkg := p }

section
variable {images : List Image} {s : State}

theorem powerOn_accepted (h : bootOk s.pkg.svn images = true) : exec (.powerOnReset images) s = .next (poweredOn s
    { powerOnPkg images s with power := .on, bars := true, meas := (images.take 8).map (·.meas), debugOn := images.all (·.debug) }) :=
  congrArg (fun p => Host.Outcome.next (poweredOn s p)) (if_pos h)

theorem powerOn_refused (h : ¬ bootOk s.pkg.svn images = true) : exec (.powerOnReset images) s = .next (poweredOn s
    { powerOnPkg images s with power := .refused, mailbox := Config.bootFailure s.ctl.draws }) :=
  congrArg (fun p => Host.Outcome.next (poweredOn s p)) (if_neg h)

end

/-- A package without open ports takes no doorbell. -/
theorem doorbell_closed {s : State} (h : s.pkg.bars = false) (port q : Nat) (n : Word) : exec (.doorbell port q n) s = .next s.tick :=
  event_none (if_pos (by simp [h]))

theorem step_inReset {s : State} (live : s.pkg.frozen = false) (h : s.pkg.power = .inReset) : step s = exec (.powerOnReset s.pkg.flash) s := by
  simp only [step, live, h, Bool.false_eq_true, if_false]

/-- Settles O31: the state at power-on, and the power-on step by the boot ROM's decision. -/
theorem resetAndBringUp : Obligations.ResetAndBringUp := by
  unfold Obligations.ResetAndBringUp
  refine ⟨rfl, ?_, fun _ => rfl, rfl, rfl, rfl, rfl, rfl, rfl, rfl, doorbell_closed rfl, fun s images => ?_, fun _ => step_inReset⟩
  · rintro T (resident | ⟨x, saved, -⟩)
    · cases resident
    · cases saved
  · rw [← bootOk_iff]
    by_cases ok : bootOk s.pkg.svn images = true
    · exact ⟨_, powerOn_accepted ok, rfl, fun _ => rfl, rfl, rfl, rfl, rfl, rfl, fun _ => ⟨rfl, rfl, rfl, rfl⟩, fun bad => absurd ok bad⟩
    · exact ⟨_, powerOn_refused ok, rfl, fun _ => rfl, rfl, rfl, rfl, rfl, rfl, fun good => absurd good ok, fun _ => ⟨rfl, rfl⟩⟩

/-! ### What an issue says, and what follows a performed instruction -/

/-- The checks of an issue pass no ill-formed word (R411). -/
theorem issueCheck_wf {x : Ctx} {cut cutPair : Bool} (h : issueCheck x cut cutPair = none) : x.i.wf = true := by
  unfold issueCheck at h
  dsimp only at h
  split at h
  · cases h
  · split at h
    · cases h
    · next wf => simpa using wf

/-- An instruction that issues has passed the check of its fields (R411). -/
theorem issues_wf {i : Instr} {s s1 : State} {x : Ctx} (h : GroupIssues i s x s1) : i.wf = true := by
  have free := h.free
  unfold Ctx.turned at free
  split at free
  · cases free
  · next check => exact h.instr ▸ issueCheck_wf check

theorem lateTrnx_mem_pkg (s : State) (t : Nat) (G : Group) (clk : Nat) (ps : List Pend) :
    (s.lateTrnx t G clk ps).mem = s.mem ∧ (s.lateTrnx t G clk ps).pkg = s.pkg := by
  unfold State.lateTrnx
  split
  · exact ⟨State.modShare_mem .., State.modShare_pkg ..⟩
  · exact ⟨rfl, rfl⟩

theorem endRun_mem_pkg (s : State) (t g c : Nat) (r : Run) : (s.endRun t g c r).mem = s.mem ∧ (s.endRun t g c r).pkg = s.pkg := by
  unfold State.endRun
  simp only [State.freeQuad_mem, State.freeQuad_pkg, State.modGroup_mem, State.modGroup_pkg]
  split
  · exact lateTrnx_mem_pkg ..
  · exact ⟨rfl, rfl⟩

/-- What follows a performed instruction leaves memory, and what the package holds once. -/
theorem finish_mem_pkg (x : Ctx) (s1 : State) (e : Eff) (s2 : State) : (x.finish s1 e s2).mem = s2.mem ∧ (x.finish s1 e s2).pkg = s2.pkg := by
  rcases finish_cases x s1 e s2 with same | ⟨T, G, run, -, set | ended⟩
  · rw [same]; exact ⟨rfl, rfl⟩
  · rw [set]; exact ⟨rfl, rfl⟩
  · rw [ended]; exact endRun_mem_pkg ..

/-- A team that is found, changed, is found as changed. -/
theorem team?_modTeam {s : State} {t : Nat} {T : Team} {f : Team → Team} (hT : s.team? t = some T) (hid : (f T).id = T.id) :
    (s.modTeam t f).team? t = some (f T) := by
  have made : s.modTeam t f = s.setTeam (f T) := by simp only [State.modTeam, hT]
  exact made ▸ State.team?_setTeam_same s T _ t hT (hid.trans (State.team?_id s t T hT))

section
variable {i : Instr} {s s1 s2 : State} {x : Ctx} {e : Eff}

theorem issues_mem_pkg (h : GroupIssues i s x s1) : s1.mem = s.mem ∧ s1.pkg = s.pkg := by
  rw [h.state]; exact ⟨rfl, rfl⟩

/-- A performed instruction that itself leaves memory leads to a state with the same memory. -/
theorem does_mem (h : GroupIssues i s x s1) (hm : s2.mem = s1.mem) : (x.finish s1 e s2).tick.mem = s.mem :=
  (finish_mem_pkg x s1 e s2).1.trans (hm.trans (issues_mem_pkg h).1)

/-- A performed instruction that changes its team by `f`: what neither the groups nor the shares of the team hold is as `f` has it. -/
theorem does_modTeam {α : Type} {p : Team → α} (hg : ∀ T G, p (Team.setGroup T G) = p T) (hs : ∀ T j y, p (Team.setShare T j y) = p T)
    {f : Team → Team} (h : GroupIssues i s x s1) (hid : (f x.T).id = x.T.id) :
    ((x.finish s1 e (s1.modTeam x.t f)).tick.team? x.t).map p = some (p (f x.T)) := by
  rw [State.team?_tick, finish_keeps hg hs, team?_modTeam (issues_team h) hid]; rfl

end

/-! ### SYSRD (R97, R98, R551) -/

/-- The numbers of the map (R97). -/
theorem listed_iff (n : Nat) : n ∈ sysNarrow ++ sysWide ↔
    n ∈ [0x000, 0x001, 0x002, 0x004, 0x005, 0x010, 0x011, 0x020, 0x021, 0x022, 0x030, 0x031, 0x032, 0x033, 0x040] := by
  simp only [sysNarrow, sysWide, List.cons_append, List.nil_append, List.mem_cons, List.not_mem_nil, or_false]
  omega

section
variable {n r : Nat} {x : Ctx} {c : Byte}

/-- A SYSRD fails with no other cause than 0x02. -/
theorem sysrdCause_eq (h : sysrdCause n r x = some c) : c = 0x02 := by
  unfold sysrdCause at h
  split at h <;> cases h
  rfl

theorem sysrdCause_unlisted (h : n ∉ sysNarrow ++ sysWide) : sysrdCause n r x = some 0x02 := if_pos (by simp [h])

theorem sysrdCause_handler (h : n ∈ sysHandler) (out : x.G.inHandler = false) : sysrdCause n r x = some 0x02 := if_pos (by simp [h, out])

end

section
variable {w : RIWord} {s s1 : State} {x : Ctx}

/-- A SYSRD with a cause takes it. -/
theorem sysrd_traps (h : GroupIssues (.sysrd w) s x s1) {c : Byte} (hc : sysrdCause (sysNum w) (dstNum w.d) x = some c) :
    GroupTraps (.sysrd w) s x s1 { cause := c } := by
  show execSysrd w s = _
  unfold execSysrd
  exact issue_group_trap h (by simp only [hc])

/-- A SYSRD without a cause gives the register, in a pair for one of 64 bits. -/
theorem sysrd_gives (h : GroupIssues (.sysrd w) s x s1) (ok : sysrdCause (sysNum w) (dstNum w.d) x = none) :
    let v := sysValue s1 x (sysNum w)
    let wide := sysWide.contains (sysNum w)
    GroupDoes (.sysrd w) s x s1 s1 { writes := destWrites w.d wide 2 x.ex (laneList.map (fun _ => v)),
                                     latch := if wide then none else some (2, true, laneList.map (fun _ => v.setWidth 32)) } := by
  show execSysrd w s = _
  unfold execSysrd
  exact issue_group_done h (by simp only [ok])

end

/-! ### SYSWR (R97, R98, R551) -/

/-- The rows of SYSWR. -/
def IsSyswr (i : Instr) (w : RIWord) : Prop :=
  i = .syswr w ∨ i = .syswrGstep w ∨ i = .syswrFactbase w ∨ i = .syswrRecbase w ∨ i = .syswrTrapvec w ∨ i = .syswrTrnxAsat w ∨ i = .syswrArr w

/-- Each row of SYSWR makes the same checks first. -/
theorem exec_syswr {i : Instr} {w : RIWord} (hi : IsSyswr i w) : ∃ f, ∀ s, exec i s = issueG i s (sysWrite w f) := by
  rcases hi with rfl | rfl | rfl | rfl | rfl | rfl | rfl <;> exact ⟨_, fun _ => rfl⟩

/-- The register's number says which row of SYSWR a well-formed word is: the one that the decoder gives it. -/
theorem syswr_row {i : Instr} {w : RIWord} (hi : IsSyswr i w) (wf : i.wf = true) : i = syswrOf w := by
  have num : ∀ {i : Instr} {g : RISig} {ns : List Nat}, i.wf = true → i.wf = (riOk g w && ns.contains (sysNum w)) → sysNum w ∈ ns := fun wf row =>
    List.contains_iff_mem.mp (Bool.and_eq_true_iff.mp (row ▸ wf)).2
  unfold syswrOf
  rcases hi with rfl | rfl | rfl | rfl | rfl | rfl | rfl
  · have other : sysNum w ∉ ownSysRows := by simpa using (Bool.and_eq_true_iff.mp wf).2
    split
    case h_8 => rfl
    all_goals
      rename_i n
      exact absurd (by rw [n]; decide) other
  · simp only [List.mem_singleton.mp (num wf rfl)]
  · simp only [List.mem_singleton.mp (num wf rfl)]
  · simp only [List.mem_singleton.mp (num wf rfl)]
  · simp only [List.mem_singleton.mp (num wf rfl)]
  · rcases List.mem_cons.mp (num wf rfl) with n | n
    · simp only [n]
    · simp only [List.mem_singleton.mp n]
  · simp only [List.mem_singleton.mp (num wf rfl)]

section
variable {n r : Nat} {x : Ctx}

theorem syswrCause_readOnly (h : n ∈ sysReadOnly) : syswrCause n r x = some 0x02 := if_pos (by simp [h])

theorem syswrCause_handler (h : n ∈ sysHandler) (out : x.G.inHandler = false) : syswrCause n r x = some 0x02 := if_pos (by simp [h, out])

/-- A group that is not privileged has no write of a privileged register (R98). -/
theorem syswrCause_privileged (h : n ∈ sysPrivileged) (unpriv : x.G.priv = false) (even : r % 2 = 0) (fits : r + 1 < x.sBudget) :
    syswrCause n r x = some 0x06 := by
  have privileged : sysPrivileged.contains n = true := List.contains_iff_mem.mpr h
  have pair : sysPairOk n r x.sBudget = true := by simp [sysPairOk, even, fits]
  have plain : ∀ m ∈ sysPrivileged, (sysNarrow ++ sysWide).contains m = true ∧ sysReadOnly.contains m = false ∧ sysHandler.contains m = false := by decide
  obtain ⟨listed, writable, everywhere⟩ := plain n h
  rw [syswrCause, privileged, pair, listed, writable, everywhere, unpriv]
  rfl

end

section
variable {i : Instr} {w : RIWord} {f : Ctx → State → Nat → DWord → Res} {s s1 s2 : State} {x : Ctx} {n : Nat} {e : Eff}

/-- A SYSWR with a cause takes it, whatever its row. -/
theorem syswr_traps (hi : IsSyswr i w) (h : GroupIssues i s x s1) {c : Byte} (hc : syswrCause (sysNum w) (srcNum w.a) x = some c) :
    GroupTraps i s x s1 { cause := c } := by
  obtain ⟨f, hexec⟩ := exec_syswr hi
  exact (hexec s).trans (issue_group_trap h (by simp only [sysWrite, hc]))

/-- A SYSWR of a 32-bit register is its row's own write of the S register. -/
theorem sysWrite_narrow (hn : sysNum w = n) (ok : syswrCause (sysNum w) (srcNum w.a) x = none) (narrow : sysWide.contains n = false) :
    sysWrite w f x s = f x s n ((x.env.s (srcNum w.a)).setWidth 64) := by
  subst hn
  simp only [sysWrite, ok, narrow, Bool.false_eq_true, if_false]

/-- A SYSWR of a 64-bit register is its row's own write of the pair. -/
theorem sysWrite_wide (hn : sysNum w = n) (ok : syswrCause (sysNum w) (srcNum w.a) x = none) (wide : sysWide.contains n = true) :
    sysWrite w f x s = f x s n (x.env.s (srcNum w.a + 1) ++ x.env.s (srcNum w.a)) := by
  subst hn
  simp only [sysWrite, ok, wide, if_true]

end

/-- A row's choice between two performed states. -/
theorem done_ite (b : Prop) [Decidable b] (s t : State) (e : Eff) : (if b then Res.done s e else .done t e) = .done (if b then s else t) e :=
  (apply_ite (fun u => Res.done u e) b s t).symm

/-! ### GSTEP and its copies (R284, R563) -/

/-- A map that gives one value to a run of keys reads as it there. -/
theorem spGet_upFrom {α : Type} (d x : α) (lo n c : Nat) (h : lo ≤ c) (hc : c < lo + n) : spGet d ((upFrom lo n).map (fun k => (k, x))) c = x := by
  induction n generalizing lo with
  | zero => omega
  | succ n ih =>
    rw [upFrom, List.map_cons, spGet]
    split
    · rfl
    · exact ih (lo + 1) (by omega) (by omega)

/-- Every core's copy of GSTEP is the new value. -/
theorem stepCopies_get (v : DWord) {c : Nat} (hc : c < 512) : spGet 0 (stepCopies v) c = v := by
  unfold stepCopies
  split
  · next zero => exact (beq_iff_eq.mp zero).symm
  · exact spGet_upFrom 0 v 0 512 c (Nat.zero_le c) (by omega)

/-- GSTEP written, and a sweep begun: what the package holds then. -/
theorem stepSweep_mem_pkg (s : State) (v T : DWord) : ((s.setStep v).startSweep T).mem = s.mem ∧ ((s.setStep v).startSweep T).pkg.gstep = v ∧
    ((s.setStep v).startSweep T).pkg.stepCopy = stepCopies v ∧ ((s.setStep v).startSweep T).pkg.sweeps.map (·.1) = s.pkg.sweeps.map (·.1) ++ [T] :=
  ⟨rfl, rfl, rfl, List.map_append⟩

/-! ### The writes of the rows -/

section
variable {w : RIWord} {s s1 : State} {x : Ctx}

/-- SYSWR of the 32-bit registers: reserved bits are dropped (R4, log 43). -/
theorem syswr_does (h : GroupIssues (.syswr w) s x s1) (ok : syswrCause (sysNum w) (srcNum w.a) x = none) :
    let v := x.env.s (srcNum w.a)
    (sysNum w = 0x000 → GroupDoes (.syswr w) s x s1 (s1.modGroup x.t x.g (fun G => { G with lst := v &&& 0xFF1F })) {}) ∧
    (sysNum w = 0x001 → GroupDoes (.syswr w) s x s1 (s1.modGroup x.t x.g (fun G => { G with bcd := v &&& 0x73F })) {}) ∧
    (sysNum w = 0x002 → GroupDoes (.syswr w) s x s1 (s1.modShare x.t x.G.core (fun sh => { sh with bcdm := v &&& 0x73F })) {}) := by
  have through64 : x.env.s (srcNum w.a) = ((x.env.s (srcNum w.a)).setWidth 64).setWidth 32 := by simp
  rw [through64]
  refine ⟨fun hn => ?_, fun hn => ?_, fun hn => ?_⟩
  all_goals exact issue_group_done h (sysWrite_narrow hn ok rfl)

/-- SYSWR of EPC. -/
theorem syswrEpc_does (h : GroupIssues (.syswr w) s x s1) (hn : sysNum w = 0x031) (ok : syswrCause (sysNum w) (srcNum w.a) x = none) :
    GroupDoes (.syswr w) s x s1 (s1.modGroup x.t x.g (fun G => { G with epc := x.env.s (srcNum w.a + 1) ++ x.env.s (srcNum w.a) })) {} :=
  issue_group_done h (sysWrite_wide hn ok rfl)

/-- SYSWR of a flag: a 0 in bit 0 clears it, a 1 keeps it (R95). -/
theorem syswrTrnxAsat_does (h : GroupIssues (.syswrTrnxAsat w) s x s1) (ok : syswrCause (sysNum w) (srcNum w.a) x = none) :
    let v := x.env.s (srcNum w.a + 1) ++ x.env.s (srcNum w.a)
    (sysNum w = 0x004 → GroupDoes (.syswrTrnxAsat w) s x s1 (if v.getLsbD 0 then s1 else s1.modShare x.t x.G.core (Share.clearTrnx · (x.late s1))) {}) ∧
    (sysNum w = 0x005 → GroupDoes (.syswrTrnxAsat w) s x s1 (if v.getLsbD 0 then s1 else s1.modShare x.t x.G.core (fun sh => { sh with asat := false })) {}) :=
  ⟨fun hn => issue_group_done h ((sysWrite_wide hn ok rfl).trans (done_ite ..)), fun hn => issue_group_done h ((sysWrite_wide hn ok rfl).trans (done_ite ..))⟩

/-- SYSWR of RECBASE writes that register of the team. -/
theorem syswrRecbase_does (h : GroupIssues (.syswrRecbase w) s x s1) (hn : sysNum w = 0x020) (ok : syswrCause (sysNum w) (srcNum w.a) x = none) :
    GroupDoes (.syswrRecbase w) s x s1 (s1.modTeam x.t (fun T => { T with recbase := x.env.s (srcNum w.a + 1) ++ x.env.s (srcNum w.a) })) {} :=
  issue_group_done h (sysWrite_wide hn ok rfl)

/-- SYSWR of TRAPVEC writes that register of the team. -/
theorem syswrTrapvec_does (h : GroupIssues (.syswrTrapvec w) s x s1) (hn : sysNum w = 0x022) (ok : syswrCause (sysNum w) (srcNum w.a) x = none) :
    GroupDoes (.syswrTrapvec w) s x s1 (s1.modTeam x.t (fun T => { T with trapvec := x.env.s (srcNum w.a + 1) ++ x.env.s (srcNum w.a) })) {} :=
  issue_group_done h (sysWrite_wide hn ok rfl)

/-- SYSWR of FACTBASE records the address space of the writer, and drops the copies of the table (R99, log 61). -/
theorem syswrFactbase_does (h : GroupIssues (.syswrFactbase w) s x s1) (hn : sysNum w = 0x021) (ok : syswrCause (sysNum w) (srcNum w.a) x = none) :
    GroupDoes (.syswrFactbase w) s x s1
      (s1.modPkg (fun p => { p with factBase := x.env.s (srcNum w.a + 1) ++ x.env.s (srcNum w.a), factAsn := x.T.asn, factCopy := [] })) {} :=
  issue_group_done h (sysWrite_wide hn ok rfl)

/-- SYSWR of GSTEP, its release work done, where the I/O die can be reached. -/
theorem syswrGstep_does (h : GroupIssues (.syswrGstep w) s x s1) (hn : sysNum w = 0x010) (ok : syswrCause (sysNum w) (srcNum w.a) x = none)
    (rel : s1.relDone x.c x.t x.g (s1.ctl.stamp + 1) = true) (reach : s1.reachesIo (dieOf x.c) 0 = true) :
    let v := x.env.s (srcNum w.a + 1) ++ x.env.s (srcNum w.a)
    GroupDoes (.syswrGstep w) s x s1 ((s1.setStep v).startSweep (v &&& ~~~8191#64)) {} :=
  issue_group_done h ((sysWrite_wide hn ok rfl).trans ((if_neg (by simp [rel])).trans (if_pos reach)))

/-- SYSWR of ARR writes the count of the pinned bed, and nothing where no bed is pinned. -/
theorem syswrArr_does (h : GroupIssues (.syswrArr w) s x s1) (hn : sysNum w = 0x040) (ok : syswrCause (sysNum w) (srcNum w.a) x = none) :
    let v := x.env.s (srcNum w.a + 1) ++ x.env.s (srcNum w.a)
    (∀ b, x.sh.pinned = some b → GroupDoes (.syswrArr w) s x s1 (s1.modTeam x.t (fun T => { T with arr := spPut 0 T.arr b v })) {}) ∧
    (x.sh.pinned = none → GroupDoes (.syswrArr w) s x s1 s1 {}) :=
  ⟨fun b hb => issue_group_done h ((sysWrite_wide hn ok rfl).trans (by simp only [hb])),
    fun hb => issue_group_done h ((sysWrite_wide hn ok rfl).trans (by simp only [hb]))⟩

end

/-- Settles O55: SYSRD by its cause; SYSWR by its cause, then the write of the row that the register's number names. -/
theorem systemRegisters : Obligations.SystemRegisters := by
  unfold Obligations.SystemRegisters
  refine ⟨fun w s s1 x h => ⟨fun fails => ?_, fun c hc => ?_, fun ok => ?_⟩, fun i w hi s s1 x h => ?_⟩
  · refine sysrd_traps h ?_
    rcases fails with unlisted | ⟨handled, out⟩
    · exact sysrdCause_unlisted (mt (listed_iff _).mp unlisted)
    · exact sysrdCause_handler handled out
  · exact ⟨sysrdCause_eq hc, sysrd_traps h hc⟩
  · exact ⟨_, sysrd_gives h ok, rfl, rfl, rfl, rfl, congrArg (destWrites w.d · 2 x.ex _) (List.contains_eq_mem ..)⟩
  have row : i = syswrOf w := syswr_row hi (issues_wf h)
  refine ⟨fun readOnly => ?_, fun hn out => ?_, fun privileged unpriv even fits => ?_, fun c => syswr_traps hi h, fun ok hn => ?_, fun ok hn => ?_,
    fun ok hn => ?_, fun ok hn => ?_, fun ok hn => ?_, fun ok hn => ?_, fun ok hn => ?_, fun ok hn => ?_, fun ok hn => ?_, fun ok hn rel reach => ?_, fun ok hn => ?_⟩
  · exact syswr_traps hi h (syswrCause_readOnly readOnly)
  · exact syswr_traps hi h (syswrCause_handler (by rw [hn]; decide) out)
  · exact syswr_traps hi h (syswrCause_privileged privileged unpriv even fits)
  all_goals simp only [syswrOf, hn] at row; subst row
  · exact (syswr_does h ok).1 hn
  · exact (syswr_does h ok).2.1 hn
  · exact (syswr_does h ok).2.2 hn
  · exact syswrEpc_does h hn ok
  · exact (syswrTrnxAsat_does h ok).1 hn
  · exact (syswrTrnxAsat_does h ok).2 hn
  · exact ⟨_, syswrRecbase_does h hn ok, does_mem h (State.modTeam_mem ..), does_modTeam (fun _ _ => rfl) (fun _ _ _ => rfl) h rfl⟩
  · exact ⟨_, syswrTrapvec_does h hn ok, does_mem h (State.modTeam_mem ..), does_modTeam (fun _ _ => rfl) (fun _ _ _ => rfl) h rfl⟩
  · refine ⟨_, syswrFactbase_does h hn ok, does_mem h rfl, ?_⟩
    simp only [State.tick_pkg_factBase, State.tick_pkg_factAsn, State.tick_pkg_factCopy, State.tick_pkg_gstep, finish_mem_pkg, State.modPkg_pkg, issues_mem_pkg h, and_self]
  · refine ⟨_, syswrGstep_does h hn ok rel reach, does_mem h rfl, ?_⟩
    simp only [State.stepOf, State.tick_pkg_gstep, State.tick_pkg_stepCopy, State.tick_pkg_sweeps, finish_mem_pkg, stepSweep_mem_pkg, issues_mem_pkg h,
      true_and, and_true]
    exact fun c => stepCopies_get _
  · obtain ⟨bed, none⟩ := syswrArr_does h hn ok
    cases hp : x.sh.pinned with
    | some b => exact ⟨_, bed b hp, does_mem h (State.modTeam_mem ..), does_modTeam (fun _ _ => rfl) (fun _ _ _ => rfl) h rfl⟩
    | none => exact ⟨_, none hp, does_mem h rfl, (finish_keeps (fun _ _ => rfl) (fun _ _ _ => rfl) x s1 {} s1 x.t).trans (congrArg (Option.map _) (issues_team h))⟩

end Sys2Proof.ProgramState
end

section
/-! PROOFS. Number formats: integer arithmetic (O1). -/

namespace Sys2Proof.NumberFormats

open Sys2Proof Sys2Proof.Machine

/-! ### The widths of types (R138, R140) -/

/-- A type of a register pair has 64 bits, every other type at most 32. -/
theorem typeBits_cases (t : BitVec 5) : wideType t = true ∧ typeBits t = 64 ∨ wideType t = false ∧ 0 < typeBits t ∧ typeBits t ≤ 32 := by
  revert t; decide

theorem typeBits_pos (t : BitVec 5) : 0 < typeBits t := by
  rcases typeBits_cases t with ⟨-, bits⟩ | ⟨-, pos, -⟩ <;> omega

theorem setWidth_signExtend {n k v : Nat} (h : k ≤ v) (x : BitVec n) : (x.signExtend v).setWidth k = x.signExtend k := by
  refine BitVec.eq_of_getLsbD_eq fun j hj => ?_
  rw [BitVec.getLsbD_setWidth, BitVec.getLsbD_signExtend, BitVec.getLsbD_signExtend]
  simp [hj, Nat.lt_of_lt_of_le hj h]

theorem cast_two_pow (n : Nat) : ((2 ^ n : Nat) : Int) = 2 ^ n := Int.natCast_pow 2 n

theorem int_two_pow_pos (n : Nat) : (0 : Int) < 2 ^ n := by
  rw [← cast_two_pow]; exact Int.natCast_pos.mpr (Nat.two_pow_pos n)

/-! ### Operands (R497) -/

theorem signedOf_toNat {n : Nat} (hn : 0 < n) (x : BitVec n) : signedOf n x.toNat = x.toInt := by
  rw [signedOf, BitVec.toInt_eq_toNat_cond, cast_two_pow]
  refine Runs.ite_iff ?_ _ _
  rw [← Nat.two_pow_pred_add_two_pow_pred hn]; omega

theorem intOf_eq_asInt (t : BitVec 5) (y : DWord) : intOf t y = asInt t (y.setWidth (typeBits t)) := by
  rw [intOf, asInt, ← signedOf_toNat (typeBits_pos t), BitVec.toNat_setWidth]

/-- The immediate of format I is the same at the width of T, however it was extended. -/
theorem srcB_setWidth (w : RIWord) (x : Ctx) (l : Nat) : (srcB x.env w (wideType w.t) l).setWidth (typeBits w.t) = opB w x l := by
  rw [srcB, opB]
  split
  · rcases typeBits_cases w.t with ⟨wide, -⟩ | ⟨narrow, -, bits⟩
    · rw [if_pos wide]
    · rw [if_neg (by rw [narrow]; decide), BitVec.setWidth_setWidth_of_le _ (by omega), setWidth_signExtend (by omega),
        BitVec.signExtend_eq_setWidth_of_le _ bits]
  · rfl

/-! ### Results (R140, R152) -/

theorem toNat_ofInt_eq_wrapTo (n : Nat) (v : Int) : (BitVec.ofInt n v).toNat = wrapTo n v := by
  rw [BitVec.toNat_ofInt, wrapTo, cast_two_pow]

/-- What a register takes of a result that is placed in it. -/
theorem placeBits_low (t : BitVec 5) (b : BitVec (typeBits t)) : (placeBits (isSignedT t) (typeBits t) b.toNat).setWidth 32 = (placed t b).setWidth 32 := by
  rw [placeBits, placed, Nat.mod_eq_of_lt b.isLt]
  cases isSignedT t with
  | false => rw [BitVec.ofNat_toNat]; rfl
  | true =>
    rw [if_pos rfl, Bool.true_and, setWidth_signExtend (by omega)]
    split
    · rw [signedOf_toNat (typeBits_pos t), ← toNat_ofInt_eq_wrapTo, BitVec.ofNat_toNat, BitVec.setWidth_setWidth_of_le _ (by omega), BitVec.setWidth_eq]
      rfl
    · next full =>
      rw [BitVec.ofNat_toNat, BitVec.setWidth_setWidth_of_le _ (by omega), BitVec.signExtend_eq_setWidth_of_le]
      simpa using full

/-- A result of 64 bits is placed as it is. -/
theorem placeBits_wide {t : BitVec 5} (wide : wideType t = true) (b : BitVec (typeBits t)) : placeBits (isSignedT t) (typeBits t) b.toNat = placed t b := by
  have bits : typeBits t = 64 := by
    rcases typeBits_cases t with ⟨-, bits⟩ | ⟨narrow, -⟩
    · exact bits
    · rw [wide] at narrow; cases narrow
  rw [placeBits, placed, Nat.mod_eq_of_lt b.isLt, BitVec.ofNat_toNat, BitVec.signExtend_eq_setWidth_of_le b (Nat.le_of_eq bits.symm), ite_self, if_neg]
  simp [bits]

/-- The range of a type, and a value clamped to it in the other order. -/
theorem clampInt_intRange (n : Nat) (signed : Bool) (v : Int) : clampInt (intRange n signed) v =
    min (max v (if signed then -(2 ^ (n - 1)) else 0)) (if signed then 2 ^ (n - 1) - 1 else 2 ^ n - 1) := by
  have half := int_two_pow_pos (n - 1)
  have full := int_two_pow_pos n
  rw [intRange, clampInt]
  cases signed
  · simp only [Bool.false_eq_true, if_false]; omega
  · simp only [if_true]; omega

/-- The integer that an exact value is brought to before it is placed. -/
def clampedTo (t : BitVec 5) (sat : Bool) (v : Int) : Int := if sat then clampInt (intRange (typeBits t) (isSignedT t)) v else v

theorem intPlace_eq (t : BitVec 5) (sat : Bool) (v : Int) :
    intPlace t sat v = placeBits (isSignedT t) (typeBits t) (BitVec.ofInt (typeBits t) (clampedTo t sat v)).toNat := by
  rw [toNat_ofInt_eq_wrapTo, intPlace, clampedTo]
  cases sat <;> rfl

theorem broughtTo_eq (t : BitVec 5) (sat : Bool) (v : Int) : broughtTo t sat v = placed t (BitVec.ofInt (typeBits t) (clampedTo t sat v)) := by
  rw [broughtTo, clampedTo, clampInt_intRange]

/-! ### Instructions (R498) -/

/-- An instruction whose value is an exact integer brought to T has it for its result. -/
theorem resultIs_intPlace {i : Instr} {g : RISig} {w : RIWord} {lat : Nat} {val : Env → Nat → DWord} {v : Ctx → Nat → Int}
    (hexec : ∀ s, exec i s = issueValue g w i (wideType w.t) lat val s) (hval : ∀ x l, val x.env l = intPlace w.t w.sat (v x l)) :
    ResultIs i w.d (wideType w.t) (fun x l => broughtTo w.t w.sat (v x l)) :=
  (resultIs_value hexec).congr (fun x l => by rw [hval, intPlace_eq, broughtTo_eq, placeBits_low])
    (fun wide x l => by rw [hval, intPlace_eq, broughtTo_eq, placeBits_wide wide])

/-- The value of an operation of A and B. -/
theorem intOp2_eq (w : RIWord) (f : Int → Int → Int) (x : Ctx) (l : Nat) :
    intOp2 w w.sat f x.env l = intPlace w.t w.sat (f (asInt w.t (opA w x l)) (asInt w.t (opB w x l))) := by
  rw [intOp2, intOf_eq_asInt, intOf_eq_asInt, srcB_setWidth, opA]

/-- IMUL without .hi computes the product. -/
theorem exec_imul_low {w : RIWord} (low : w.xf.getLsbD 0 = false) (s : State) :
    exec (.imul w) s = issueValue Sig.imul w (.imul w) (wideType w.t) 4 (intOp2 w w.sat (· * ·)) s := by
  have off : ¬ (fld w.xf 0 1 == 1) = true := fun on => by
    have bit : w.xf.getLsbD 0 = true := by simpa using congrArg (fun y => y.getLsbD 0) (beq_iff_eq.mp on)
    exact Bool.false_ne_true (low.symm.trans bit)
  exact congrArg (fun f => issueValue Sig.imul w (.imul w) (wideType w.t) 4 (intOp2 w w.sat f) s) (if_neg off)

/-- IMAD has no format I (R411, R498). -/
theorem imad_noImm {w : RIWord} (wf : (Instr.imad w).wf = true) : w.isImm = false := by
  refine Bool.eq_false_iff.mpr fun imm => ?_
  have ok : riOk Sig.imad w = true := wf
  simp [riOk, imm, Sig.imad] at ok

theorem imadVal_eq {w : RIWord} (reg : w.isImm = false) (x : Ctx) (l : Nat) :
    imadVal w x.env l = intPlace w.t w.sat (asInt w.t (opA w x l) * asInt w.t (opB w x l) + asInt w.t (opC w x l)) := by
  rw [imadVal, intOf_eq_asInt, intOf_eq_asInt, intOf_eq_asInt, opA, opB, opC, reg, if_neg Bool.false_ne_true]

theorem iabsVal_eq (w : RIWord) (x : Ctx) (l : Nat) :
    iabsVal w x.env l = intPlace w.t w.sat (if asInt w.t (opA w x l) < 0 then -asInt w.t (opA w x l) else asInt w.t (opA w x l)) := by
  rw [iabsVal, intOf_eq_asInt, opA]

/-- Settles O1: the value of each instruction is its exact value brought to T, and a word of IMAD that issues has registers alone. -/
theorem integerArithmetic : Obligations.IntegerArithmetic := by
  unfold Obligations.IntegerArithmetic
  intro i w f rule
  cases rule with
  | iadd => exact resultIs_intPlace (fun _ => rfl) (intOp2_eq w _)
  | isub => exact resultIs_intPlace (fun _ => rfl) (intOp2_eq w _)
  | imul _ low => exact resultIs_intPlace (exec_imul_low low) (intOp2_eq w _)
  | imad =>
    intro s s1 x h
    have reg := imad_noImm (ProgramState.issues_wf h)
    exact resultIs_intPlace (fun _ => rfl) (imadVal_eq reg) s s1 x h
  | iabs => exact resultIs_intPlace (fun _ => rfl) (iabsVal_eq w)

end Sys2Proof.NumberFormats
end

section
/-! PROOFS. Number formats: the formats of lane floats (O7, O8, O9). -/

namespace Sys2Proof.NumberFormats

open Sys2Proof Sys2Proof.Machine

/-! ### The formats of lane floats (R141) -/

/-- What the formats of lane floats share: the code of infinity follows that of the greatest finite value, codes of greater magnitude are NaNs, and all codes are of at most 32 bits. -/
structure LaneFmt (f : Fmt) : Prop where
  inf : f.inf = some (f.maxCode + 1)
  inf_lt : f.maxCode + 1 < 2 ^ (f.width - 1)
  width_pos : 0 < f.width
  width_le : f.width ≤ 32
  nan_lt : canonNan f < 2 ^ 32

theorem laneFmt_of_isFloatT {t : BitVec 5} (h : isFloatT t = true) : LaneFmt (fmtT t) := by
  have named : t = 0x10 ∨ t = 0x11 ∨ t = 0x12 := by revert t; decide
  rcases named with rfl | rfl | rfl <;> exact ⟨by decide, by decide, by decide, by decide, by decide⟩

/-- The significand of a code without its sign. -/
def significand (f : Fmt) (code : Nat) : Nat := if code / 2 ^ f.m = 0 then code % 2 ^ f.m else 2 ^ f.m + code % 2 ^ f.m

/-- The exponent of the last place of a code without its sign. -/
def lastPlace (f : Fmt) (code : Nat) : Int :=
  if code / 2 ^ f.m = 0 then 1 - (f.bias : Int) - f.m else ((code / 2 ^ f.m : Nat) : Int) - f.bias - f.m

theorem significand_zero (f : Fmt) : significand f 0 = 0 := by simp [significand]

/-! ### Codes and their values -/

section
variable {f : Fmt}

theorem fdecode_mod (f : Fmt) (x : Nat) : fdecode f (x % 2 ^ f.width) = fdecode f x := by
  simp only [fdecode, Nat.mod_mod]

theorem isNanCode_mod (f : Fmt) (x : Nat) : isNanCode f (x % 2 ^ f.width) = isNanCode f x := by
  rw [isNanCode, isNanCode, fdecode_mod]

theorem isNanCode_iff (f : Fmt) (x : Nat) : isNanCode f x = true ↔ fdecode f x = .nan := beq_iff_eq

theorem LaneFmt.two_pow_width (hf : LaneFmt f) : 2 ^ (f.width - 1) + 2 ^ (f.width - 1) = 2 ^ f.width :=
  Nat.two_pow_pred_add_two_pow_pred hf.width_pos

/-- Every code is a sign and a magnitude. -/
theorem LaneFmt.exists_withSign (hf : LaneFmt f) {x : Nat} (hx : x < 2 ^ f.width) : ∃ neg code, code < 2 ^ (f.width - 1) ∧ x = withSign f neg code := by
  have halves := hf.two_pow_width
  rcases Nat.lt_or_ge x (2 ^ (f.width - 1)) with low | high
  · exact ⟨false, x, low, rfl⟩
  · exact ⟨true, x - 2 ^ (f.width - 1), by omega, (Nat.sub_add_cancel high).symm⟩

theorem LaneFmt.withSign_parts (hf : LaneFmt f) {code : Nat} (h : code < 2 ^ (f.width - 1)) (neg : Bool) : withSign f neg code < 2 ^ f.width ∧
    withSign f neg code % 2 ^ (f.width - 1) = code ∧ decide (withSign f neg code / 2 ^ (f.width - 1) = 1) = neg := by
  have halves := hf.two_pow_width
  have pos := Nat.two_pow_pos (f.width - 1)
  cases neg with
  | false => exact ⟨show code < _ by omega, Nat.mod_eq_of_lt h, by simp [withSign, Nat.div_eq_of_lt h]⟩
  | true =>
    exact ⟨show code + _ < _ by omega, (Nat.add_mod_right ..).trans (Nat.mod_eq_of_lt h),
      by simp [withSign, Nat.add_div_right _ pos, Nat.div_eq_of_lt h]⟩

/-- The value of a code of the formats of lane floats (R141). -/
theorem LaneFmt.fdecode_withSign (hf : LaneFmt f) {code : Nat} (h : code < 2 ^ (f.width - 1)) (neg : Bool) : fdecode f (withSign f neg code) =
    if f.maxCode + 1 < code then .nan else if code = f.maxCode + 1 then .inf neg else .fin neg (significand f code) (lastPlace f code) := by
  obtain ⟨lt, magnitude, sign⟩ := hf.withSign_parts h neg
  simp only [fdecode, Nat.mod_eq_of_lt lt, magnitude, sign, hf.inf, significand, lastPlace, decide_eq_true_iff]
  refine ite_congr rfl (fun _ => rfl) fun _ => ite_congr (propext ?_) (fun _ => rfl) fun _ => ?_
  · rw [beq_iff_eq, Option.some_inj, eq_comm]
  · split <;> rfl

theorem LaneFmt.fdecode_finite (hf : LaneFmt f) {code : Nat} (h : code ≤ f.maxCode) (neg : Bool) :
    fdecode f (withSign f neg code) = .fin neg (significand f code) (lastPlace f code) := by
  have top := hf.inf_lt
  rw [hf.fdecode_withSign (by omega), if_neg (by omega), if_neg (by omega)]

theorem LaneFmt.fdecode_zero (hf : LaneFmt f) (neg : Bool) : fdecode f (withSign f neg 0) = .fin neg 0 (lastPlace f 0) := by
  rw [hf.fdecode_finite (Nat.zero_le _), significand_zero]

/-! ### Rounding (R145) -/

theorem roundsUp_exact (rm : RMode) (neg : Bool) (n : Nat) : roundsUp rm neg n 0 0 false = false := by
  cases rm <;> simp [roundsUp]

/-- A magnitude whose last place is the format's, or the last place of its subnormals, is not rounded. -/
theorem roundTo_kept {m : Nat} {e : Int} (hm : m ≠ 0) (he : max ((Nat.log2 m : Int) + e) (1 - (f.bias : Int)) - f.m = e) (rm : RMode) (sat neg : Bool) :
    roundTo f rm sat false neg m e = if m < 2 ^ f.m then withSign f neg m else
      let code : Int := ((Nat.log2 m : Int) + e + f.bias) * 2 ^ f.m + ((m / 2 ^ (Nat.log2 m - f.m) - 2 ^ f.m : Nat) : Int)
      if code > f.maxCode then overflowCode f rm sat neg else withSign f neg code.toNat := by
  simp [roundTo, hm, he, roundsUp_exact]

/-- The value of a finite code is rounded to the code. -/
theorem roundTo_significand {code : Nat} (h : code ≤ f.maxCode) (rm : RMode) (sat neg : Bool) :
    roundTo f rm sat false neg (significand f code) (lastPlace f code) = withSign f neg code := by
  rw [significand, lastPlace]
  split
  · next sub =>
    have small : code < 2 ^ f.m := by simpa using sub
    rw [Nat.mod_eq_of_lt small]
    by_cases zero : code = 0
    · rw [zero]; rfl
    · have top : Nat.log2 code < f.m := (Nat.log2_lt zero).mpr small
      rw [roundTo_kept zero (by omega), if_pos small]
  · next normal =>
    have frac_lt : code % 2 ^ f.m < 2 ^ f.m := Nat.mod_lt _ (Nat.two_pow_pos _)
    have parts : ((code / 2 ^ f.m : Nat) : Int) * 2 ^ f.m + ((code % 2 ^ f.m : Nat) : Int) = code := by exact_mod_cast Nat.div_add_mod' code (2 ^ f.m)
    generalize code / 2 ^ f.m = field at normal parts
    generalize code % 2 ^ f.m = frac at frac_lt parts
    have top : Nat.log2 (2 ^ f.m + frac) = f.m := (Nat.log2_eq_iff (by omega)).mpr ⟨by omega, by rw [Nat.pow_succ]; omega⟩
    have biased : (f.m : Int) + ((field : Int) - f.bias - f.m) + f.bias = field := by omega
    rw [roundTo_kept (by omega) (by rw [top]; omega), if_neg (by omega), top, Nat.sub_self, Nat.pow_zero, Nat.div_one, Nat.add_sub_cancel_left, biased]
    simp only [parts]
    rw [if_neg (by omega), Int.toNat_natCast]

/-- A code that is no NaN is the rounding of its value. -/
theorem LaneFmt.fencode_fdecode (hf : LaneFmt f) {x : Nat} (hx : x < 2 ^ f.width) (num : isNanCode f x = false) (rm : RMode) :
    fencode f rm false false (fdecode f x) = x := by
  obtain ⟨neg, code, small, rfl⟩ := hf.exists_withSign hx
  have not_nan : fdecode f (withSign f neg code) ≠ .nan := fun nan => by rw [(isNanCode_iff f _).mpr nan] at num; cases num
  rcases Nat.lt_trichotomy code (f.maxCode + 1) with finite | rfl | nan
  · rw [hf.fdecode_finite (by omega)]
    exact roundTo_significand (by omega) rm false neg
  · rw [hf.fdecode_withSign small, if_neg (by omega), if_pos rfl]
    simp [fencode, infCode, hf.inf]
  · exact absurd ((hf.fdecode_withSign small neg).trans (if_pos nan)) not_nan

end

/-- Settles O9: a finite value is rounded to its code, and infinity has a code. -/
theorem roundingKeepsCodes : Obligations.RoundingKeepsCodes := by
  unfold Obligations.RoundingKeepsCodes
  exact fun t rm x ht hx num => (laneFmt_of_isFloatT ht).fencode_fdecode hx num rm

/-! ### Zeros -/

section
variable {f : Fmt}

/-- The code of a zero. -/
theorem withSign_zero (f : Fmt) (neg : Bool) : withSign f neg 0 = if neg = true then 2 ^ (f.width - 1) else 0 := by
  rw [withSign, Nat.zero_add]

/-- Two codes of one magnitude and of different sign. -/
theorem withSign_opposite {code a b : Nat} (h : a = code ∧ b = code + 2 ^ (f.width - 1) ∨ b = code ∧ a = code + 2 ^ (f.width - 1)) :
    ∃ neg, a = withSign f neg code ∧ b = withSign f (!neg) code := by
  rcases h with ⟨rfl, rfl⟩ | ⟨rfl, rfl⟩
  · exact ⟨false, rfl, rfl⟩
  · exact ⟨true, rfl, rfl⟩

/-! ### Sources under .FTZ (R147) -/

/-- A flush takes a magnitude to a magnitude, for either sign, and keeps zero. -/
theorem flushIn_fin (f : Fmt) (ftz : Bool) (m : Nat) (e : Int) : ∃ m' e', (m = 0 → m' = 0) ∧ ∀ neg, flushIn f ftz (.fin neg m e) = .fin neg m' e' := by
  by_cases flushed : (ftz && decide (m < 2 ^ f.m) && decide (e = 1 - (f.bias : Int) - f.m)) = true
  · exact ⟨0, 0, fun _ => rfl, fun _ => if_pos flushed⟩
  · exact ⟨m, e, id, fun _ => if_neg flushed⟩

theorem flushIn_zero (f : Fmt) (ftz : Bool) (e : Int) : ∃ e', ∀ neg, flushIn f ftz (.fin neg 0 e) = .fin neg 0 e' := by
  obtain ⟨m', e', zero, flushed⟩ := flushIn_fin f ftz 0 e
  exact ⟨e', fun neg => by rw [flushed, zero rfl]⟩

theorem flushIn_off (f : Fmt) (x : FVal) : flushIn f false x = x := by
  cases x <;> rfl

theorem fencode_zero (f : Fmt) (rm : RMode) (sat ftz neg : Bool) (e : Int) : fencode f rm sat ftz (.fin neg 0 e) = withSign f neg 0 := rfl

/-! ### Zero sums (R149) -/

theorem opposite_cancel (neg : Bool) (x : Int) : (if neg = true then -1 else 1) * x + (if (!neg) = true then -1 else 1) * x = 0 := by
  cases neg <;> simp only [Bool.not_false, Bool.not_true, Bool.false_eq_true, if_true, if_false] <;> omega

theorem zeroSumNeg_opposite (rm : RMode) (neg : Bool) : zeroSumNeg rm neg (!neg) = (rm == .rdn) := by
  cases neg <;> rfl

/-- The sum of opposite numbers is a zero, negative under RDN alone. -/
theorem faddExact_opposite (rm : RMode) (neg : Bool) (m : Nat) (e : Int) : faddExact rm (.fin neg m e) (.fin (!neg) m e) = .fin (rm == .rdn) 0 0 := by
  by_cases zero : m = 0
  · simp only [faddExact, zero, and_self, if_true, zeroSumNeg_opposite]
  · simp only [faddExact, zero, and_self, if_false, opposite_cancel, if_true]

theorem faddExact_zeros (rm : RMode) (neg : Bool) (e e' : Int) : faddExact rm (.fin neg 0 e) (.fin neg 0 e') = .fin neg 0 0 := by
  simp [faddExact, zeroSumNeg]

theorem faddBits_mod (f : Fmt) (rm : RMode) (sat ftz : Bool) (a b : Nat) :
    faddBits f rm sat ftz (a % 2 ^ f.width) (b % 2 ^ f.width) = faddBits f rm sat ftz a b := by
  rw [faddBits, faddBits, fdecode_mod, fdecode_mod]

theorem LaneFmt.faddBits_opposite (hf : LaneFmt f) {code : Nat} (h : code ≤ f.maxCode) (rm : RMode) (sat ftz neg : Bool) :
    faddBits f rm sat ftz (withSign f neg code) (withSign f (!neg) code) = withSign f (rm == .rdn) 0 := by
  obtain ⟨m, e, -, flushed⟩ := flushIn_fin f ftz (significand f code) (lastPlace f code)
  rw [faddBits, hf.fdecode_finite h, hf.fdecode_finite h, flushed, flushed, faddExact_opposite, fencode_zero]

theorem LaneFmt.faddBits_opposite_codes (hf : LaneFmt f) {code a b : Nat} (h : code ≤ f.maxCode) (rm : RMode) (sat ftz : Bool)
    (signs : a = code ∧ b = code + 2 ^ (f.width - 1) ∨ b = code ∧ a = code + 2 ^ (f.width - 1)) :
    faddBits f rm sat ftz a b = if rm = .rdn then 2 ^ (f.width - 1) else 0 := by
  obtain ⟨neg, rfl, rfl⟩ := withSign_opposite signs
  rw [hf.faddBits_opposite h, withSign_zero]
  simp only [beq_iff_eq]

theorem LaneFmt.faddBits_zeros (hf : LaneFmt f) (rm : RMode) (sat ftz neg : Bool) :
    faddBits f rm sat ftz (withSign f neg 0) (withSign f neg 0) = withSign f neg 0 := by
  obtain ⟨e, flushed⟩ := flushIn_zero f ftz (lastPlace f 0)
  rw [faddBits, hf.fdecode_zero, flushed, faddExact_zeros, fencode_zero]

/-! ### NaNs (R148) -/

theorem faddExact_nan {rm : RMode} {x y : FVal} (h : x = .nan ∨ y = .nan) : faddExact rm x y = .nan := by
  rcases h with rfl | rfl
  · rfl
  · cases x <;> rfl

theorem fmulExact_nan {x y : FVal} (h : x = .nan ∨ y = .nan) : fmulExact x y = .nan := by
  rcases h with rfl | rfl
  · rfl
  · cases x <;> rfl

/-- Of a NaN and a number, FMIN and FMAX give the number. -/
theorem fminmaxVal_nan_left (max_ : Bool) (y : FVal) : fminmaxVal max_ .nan y = y := by
  cases y <;> rfl

theorem fminmaxVal_nan_right (max_ : Bool) (x : FVal) : fminmaxVal max_ x .nan = x := by
  cases x <;> rfl

/-- Of zeros of different sign, FMIN gives the negative one and FMAX the positive one. -/
theorem fminmaxVal_zeros (max_ neg : Bool) (e : Int) : fminmaxVal max_ (.fin neg 0 e) (.fin (!neg) 0 e) = .fin (!max_) 0 e := by
  cases max_ <;> cases neg <;> simp [fminmaxVal, fltVal, isNegZero]

/-- A source that is a NaN is one under .FTZ too. -/
theorem source_nan {a : Nat} (ftz : Bool) (h : isNanCode f a = true) : flushIn f ftz (fdecode f a) = .nan := by
  rw [(isNanCode_iff f a).mp h]; rfl

section
variable {a b c : Nat} {ftz : Bool}

theorem faddBits_nan (rm : RMode) (sat : Bool) (h : isNanCode f a = true ∨ isNanCode f b = true) : faddBits f rm sat ftz a b = canonNan f := by
  rw [faddBits, faddExact_nan (h.imp (source_nan ftz) (source_nan ftz))]; rfl

theorem fmulBits_nan (rm : RMode) (sat : Bool) (h : isNanCode f a = true ∨ isNanCode f b = true) : fmulBits f rm sat ftz a b = canonNan f := by
  rw [fmulBits, fmulExact_nan (h.imp (source_nan ftz) (source_nan ftz))]; rfl

theorem fmaBits_nan (rm : RMode) (sat : Bool) (h : isNanCode f a = true ∨ isNanCode f b = true ∨ isNanCode f c = true) :
    fmaBits f rm sat ftz a b c = canonNan f := by
  rw [fmaBits, faddExact_nan]
  · rfl
  · exact (or_assoc.mpr h).imp (fun ab => fmulExact_nan (ab.imp (source_nan ftz) (source_nan ftz))) (source_nan ftz)

theorem fminmaxBits_nans (max_ : Bool) (ha : isNanCode f a = true) (hb : isNanCode f b = true) : fminmaxBits f ftz max_ a b = canonNan f := by
  rw [fminmaxBits, source_nan ftz ha, source_nan ftz hb]; rfl

/-- FMIN and FMAX of a NaN and a number give the number's code (R141: its value is rounded to its code). -/
theorem LaneFmt.fminmaxBits_nan_left (hf : LaneFmt f) (max_ : Bool) (ha : isNanCode f a = true) (hb : isNanCode f b = false) :
    fminmaxBits f false max_ a b = b % 2 ^ f.width := by
  rw [fminmaxBits, source_nan false ha, fminmaxVal_nan_left, flushIn_off, ← fdecode_mod,
    hf.fencode_fdecode (Nat.mod_lt _ (Nat.two_pow_pos _)) (by rw [isNanCode_mod, hb])]

theorem LaneFmt.fminmaxBits_nan_right (hf : LaneFmt f) (max_ : Bool) (ha : isNanCode f a = false) (hb : isNanCode f b = true) :
    fminmaxBits f false max_ a b = a % 2 ^ f.width := by
  rw [fminmaxBits, source_nan false hb, fminmaxVal_nan_right, flushIn_off, ← fdecode_mod,
    hf.fencode_fdecode (Nat.mod_lt _ (Nat.two_pow_pos _)) (by rw [isNanCode_mod, ha])]

theorem fminmaxBits_mod (f : Fmt) (ftz max_ : Bool) (a b : Nat) :
    fminmaxBits f ftz max_ (a % 2 ^ f.width) (b % 2 ^ f.width) = fminmaxBits f ftz max_ a b := by
  rw [fminmaxBits, fminmaxBits, fdecode_mod, fdecode_mod]

theorem LaneFmt.fminmaxBits_zeros (hf : LaneFmt f) (ftz max_ neg : Bool) :
    fminmaxBits f ftz max_ (withSign f neg 0) (withSign f (!neg) 0) = withSign f (!max_) 0 := by
  obtain ⟨e, flushed⟩ := flushIn_zero f ftz (lastPlace f 0)
  rw [fminmaxBits, hf.fdecode_zero, hf.fdecode_zero, flushed, flushed, fminmaxVal_zeros, fencode_zero]

theorem LaneFmt.fminmaxBits_zero_codes (hf : LaneFmt f) (max_ : Bool) (signs : a = 2 ^ (f.width - 1) ∧ b = 0 ∨ a = 0 ∧ b = 2 ^ (f.width - 1)) :
    fminmaxBits f ftz max_ a b = withSign f (!max_) 0 := by
  obtain ⟨neg, rfl, rfl⟩ := withSign_opposite (f := f) (code := 0) (a := a) (b := b) (by omega)
  exact hf.fminmaxBits_zeros ftz max_ neg

/-- With a NaN the relations .ne and .un hold, and no other (R485). -/
theorem fcmpBits_nan (rel : Nat) (h : isNanCode f a = true ∨ isNanCode f b = true) : fcmpBits f ftz rel a b = decide (rel = 1 ∨ rel = 6) := by
  have un : (flushIn f ftz (fdecode f a) == .nan || flushIn f ftz (fdecode f b) == .nan) = true := by
    rw [Bool.or_eq_true, beq_iff_eq, beq_iff_eq]
    exact h.imp (source_nan ftz) (source_nan ftz)
  simp only [fcmpBits, un]
  rcases rel with _ | _ | _ | _ | _ | _ | _ | rel
  case succ => simp
  all_goals rfl

end

end

/-- The code that FADD gives in a lane (R483). -/
def faddCode (w : RIWord) (e : Env) (l : Nat) : Nat := faddBits (fmtT w.t) (rmOf w.rm) w.sat w.ftz (fsrcA w e l) (fsrcB w e l)

theorem fadd_resultIs (w : RIWord) : ResultIs (.fadd w) w.d false (fun x l => BitVec.ofNat 64 (faddCode w x.env l)) :=
  resultIs_value (val := fun e l => BitVec.ofNat 64 (faddCode w e l)) fun _ => rfl

/-- Settles O7: opposite codes, of which zeros of different sign are a case, and zeros of one sign. -/
theorem floatZeroSums : Obligations.FloatZeroSums := by
  unfold Obligations.FloatZeroSums
  refine fun w => ⟨fun x l => faddCode w x.env l, fadd_resultIs w, fun x l a b ha hb ht => ?_⟩
  have hf := laneFmt_of_isFloatT ht
  have code : faddCode w x.env l = faddBits (fmtT w.t) (rmOf w.rm) w.sat w.ftz a b := by rw [ha, hb, faddBits_mod]; rfl
  have opposite := fun k hk => hf.faddBits_opposite_codes (code := k) hk (rmOf w.rm) w.sat w.ftz (a := a) (b := b)
  have zeros := hf.faddBits_zeros (rmOf w.rm) w.sat w.ftz
  simp only [withSign_zero] at zeros
  simp only [code]
  refine ⟨fun k hk _ => opposite k hk, ?_, ?_, fun signs => opposite 0 (Nat.zero_le _) (by simpa only [Nat.zero_add] using signs)⟩
  · rintro ⟨rfl, rfl⟩; exact zeros false
  · rintro ⟨rfl, rfl⟩; exact zeros true

/-- The result of a word whose value is a code of at most 32 bits. -/
theorem valueRow_code {i : Instr} {r : ValueRow} {e : Env} {l v n : Nat} (row : valueRow i = some r) (val : r.val e l = BitVec.ofNat 64 v) (code : v = n)
    (small : n < 2 ^ 32) : (valueRow i).map (fun r => (r.val e l).toNat) = some n := by
  rw [row, Option.map_some, val, BitVec.toNat_ofNat, code, Nat.mod_eq_of_lt (by omega)]

/-- Settles O8: the sums, products, extrema and relations of NaNs and zeros, at the sources' codes. -/
theorem floatNaNs : Obligations.FloatNaNs := by
  unfold Obligations.FloatNaNs
  intro w e l ht f a b c res
  have hf : LaneFmt f := laneFmt_of_isFloatT ht
  have small : ∀ x, x % 2 ^ f.width < 2 ^ 32 := fun x =>
    Nat.lt_of_lt_of_le (Nat.mod_lt _ (Nat.two_pow_pos _)) (Nat.pow_le_pow_right (by omega) hf.width_le)
  have sign_small : 2 ^ (f.width - 1) < 2 ^ 32 := Nat.pow_lt_pow_right (by omega) (by have := hf.width_le; have := hf.width_pos; omega)
  have nan_a : isNanCode f a = isNanCode f (fsrcA w e l) := isNanCode_mod ..
  have nan_b : isNanCode f b = isNanCode f (fsrcB w e l) := isNanCode_mod ..
  have nan_c : isNanCode f c = isNanCode f (e.src w.c l).toNat := isNanCode_mod ..
  have minmax : ∀ {n m}, fminmaxBits f w.ftz false (fsrcA w e l) (fsrcB w e l) = n → n < 2 ^ 32 →
      fminmaxBits f w.ftz true (fsrcA w e l) (fsrcB w e l) = m → m < 2 ^ 32 → res (.fmin w) = some n ∧ res (.fmax w) = some m :=
    fun min hn max hm => ⟨valueRow_code rfl rfl min hn, valueRow_code rfl rfl max hm⟩
  rw [nan_a, nan_b, nan_c]
  refine ⟨fun nan => ⟨?_, ?_⟩, fun nan => ?_, fun ⟨ha, hb⟩ => ?_, fun keep ⟨ha, hb⟩ => ?_, fun keep ⟨ha, hb⟩ => ?_, fun signs => ?_, fcmpBits_nan _⟩
  · exact valueRow_code rfl rfl (faddBits_nan _ _ nan) hf.nan_lt
  · exact valueRow_code rfl rfl (fmulBits_nan _ _ nan) hf.nan_lt
  · exact valueRow_code rfl rfl (fmaBits_nan _ _ nan) hf.nan_lt
  · exact minmax (fminmaxBits_nans _ ha hb) hf.nan_lt (fminmaxBits_nans _ ha hb) hf.nan_lt
  · rw [keep] at minmax
    exact minmax (hf.fminmaxBits_nan_left _ ha hb) (small _) (hf.fminmaxBits_nan_left _ ha hb) (small _)
  · rw [keep] at minmax
    exact minmax (hf.fminmaxBits_nan_right _ ha hb) (small _) (hf.fminmaxBits_nan_right _ ha hb) (small _)
  · have zeros : ∀ max_, fminmaxBits f w.ftz max_ (fsrcA w e l) (fsrcB w e l) = withSign f (!max_) 0 := fun max_ => by
      rw [← fminmaxBits_mod]
      exact hf.fminmaxBits_zero_codes max_ signs
    simp only [withSign_zero] at zeros
    exact minmax (zeros false) sign_small (zeros true) (by decide)

end Sys2Proof.NumberFormats
end

section
/-! PROOFS. The matrix engine: issue and the control of the stream (O52), the reset of a hung engine (O53). -/

namespace Sys2Proof.MatrixEngine

open Sys2Proof Sys2Proof.Machine Sys2Proof.Runs

/-! ### The share of a sequencer -/

/-- What `seqCtx` says of the context it gives. -/
theorem seqCtx_who {t j : Nat} {i : Instr} {s : State} {x : SeqCtx} (h : seqCtx t j i s = some x) :
    s.team? t = some x.T ∧ x.T.share? j = some x.sh ∧ x.i = i ∧ x.env = seqEnv x.sh.seq.q := by
  unfold seqCtx at h
  split at h
  · cases h
  · next T hT =>
    split at h
    · cases h
    · next sh hsh =>
      split at h
      · cases h
      · cases h
        exact ⟨hT, hsh, rfl, rfl⟩

theorem share?_of_teams {s u : State} (h : u.teams = s.teams) (t j : Nat) :
    (u.team? t).bind (fun T => T.share? j) = (s.team? t).bind (fun T => T.share? j) := by
  rw [State.team?, State.team?, h]

/-- A change of a share, where the share is found. -/
theorem share?_modShare_same {s : State} {t j : Nat} {y : Share} (f : Share → Share) (h : (s.team? t).bind (fun T => T.share? j) = some y) :
    ((s.modShare t j f).team? t).bind (fun T => T.share? j) = some (f y) := by
  rw [share?_modShare, h, if_pos rfl]; rfl

section
variable {i : Instr} {s s2 : State} {x : SeqCtx} {e : Eff} {seq : SeqCtx → State → Res} {group : Ctx → State → Res} {thread : ThCtx → State → Res}

theorem seqIssues_share (h : SeqIssues i s x) : (s.team? x.t).bind (fun T => T.share? x.j) = some x.sh := by
  obtain ⟨team, share, -, -⟩ := seqCtx_who h.ctx
  rw [team]; exact share

theorem seqIssues_instr (h : SeqIssues i s x) : x.i = i := by
  obtain ⟨-, -, instr, -⟩ := seqCtx_who h.ctx
  exact instr

theorem seqIssues_env (h : SeqIssues i s x) : x.env = seqEnv x.sh.seq.q := by
  obtain ⟨-, -, -, env⟩ := seqCtx_who h.ctx
  exact env

/-- What a performed instruction makes of its sequencer (R182): its PC, then its registers. -/
def seqAfter (pc : DWord) (e : Eff) (q : Seq) : Seq :=
  e.writes.foldl (fun q w => q.write w.2) { q with pc := e.jump.getD (nextSlot pc) }

theorem seqFinish_mem (x : SeqCtx) (s : State) (e : Eff) : (x.finish s e).mem = s.mem := by
  simp only [SeqCtx.finish, State.modSeq, State.modShare_mem]

theorem seqFinish_share {y : Share} (h : (s2.team? x.t).bind (fun T => T.share? x.j) = some y) :
    ((x.finish s2 e).team? x.t).bind (fun T => T.share? x.j) = some { y with seq := seqAfter x.pc e y.seq } := by
  refine (share?_modShare_same _ (share?_modShare_same _ h)).trans ?_
  rw [seqAfter]
  cases e.jump <;> rfl

/-- A sequencer's instruction that is performed, with the share that its body leaves. -/
theorem issue_seq_share {y : Share} (h : SeqIssues i s x) (hb : seq x s = .done s2 e) (hy : (s2.team? x.t).bind (fun T => T.share? x.j) = some y)
    (hm : s2.mem = s.mem) : ∃ t, issue i s group seq thread = .next t ∧
      (t.team? x.t).bind (fun T => T.share? x.j) = some { y with seq := seqAfter x.pc e y.seq } ∧ t.mem = s.mem :=
  ⟨_, issue_seq_done h hb, seqFinish_share hy, (seqFinish_mem x s2 e).trans hm⟩

end

/-! ### Opening the sides of a matrix instruction (R167 to R170) -/

/-- A use of a record that gives its image changes only the core. -/
theorem useRecord_image {s s2 : State} {c asn t : Nat} {a : DWord} {p : Party} {r : RecBits} (h : s.useRecord c asn a t p = .image s2 r) :
    s2.teams = s.teams ∧ s2.mem = s.mem := by
  unfold State.useRecord at h
  dsimp only at h
  split at h
  · cases h; exact ⟨rfl, rfl⟩
  · split at h
    · split at h <;> cases h
      exact ⟨rfl, rfl⟩
    · cases h

theorem openSide_ok {s s2 : State} {T : Team} {sh : Share} {d : Side} {lay : LayBits} {hd : Half} {p : Party} {v : SideVal}
    (h : s.openSide T sh d lay hd p = .ok s2 v) : s2.teams = s.teams ∧ s2.mem = s.mem := by
  unfold State.openSide at h
  dsimp only at h
  split at h
  · split at h
    · next img => cases h; exact useRecord_image img
    · cases h
    · cases h
  · split at h <;> cases h
    exact ⟨rfl, rfl⟩
  · cases h; exact ⟨rfl, rfl⟩

/-! ### Passing an instruction to its unit (R184, R201) -/

/-- The share of a stream that has passed an instruction to a unit. -/
def passed (pc : DWord) (drain : Bool) (m : MatCmd) (sh : Share) : Share :=
  let sh := { sh with redo := sh.redo.eraseP (fun r => r.pc == pc) }
  if drain then { sh with drain := { sh.drain with waiting := some m } } else { sh with mul := { sh.mul with waiting := some m } }

/-- An instruction that its checks let pass becomes the waiting one of its unit. -/
theorem issueS_pass {i : Instr} {s s2 : State} {x : SeqCtx} {body : SeqCtx → State → Res} {drain : Bool} {m : MatCmd} (h : SeqIssues i s x)
    (hb : body x s = x.pass s2 drain m) (ht : s2.teams = s.teams) (hm : s2.mem = s.mem) :
    ∃ t n, issueS i s body = .next t ∧ (t.team? x.t).bind (fun T => T.share? x.j) =
      some { passed x.pc drain { m with order := n } x.sh with seq := { x.sh.seq with pc := nextSlot x.pc } } ∧ SameBytes s.mem t.mem := by
  have here : (s2.bumpStamp.team? x.t).bind (fun T => T.share? x.j) = some x.sh := (share?_of_teams ht _ _).trans (seqIssues_share h)
  obtain ⟨t, step, share, mem⟩ := issue_seq_share (group := noBody) (thread := noBody) h hb (share?_modShare_same _ here) ((State.modShare_mem ..).trans hm)
  refine ⟨t, s2.bumpStamp.ctl.stamp, step, share.trans ?_, fun a => by rw [mem]⟩
  cases drain <;> rfl

/-- A side that does not open stops the stream with its cause, or kills the team for a record's line that mismatches (R169, R385). -/
theorem issueS_recCause {i : Instr} {s s2 : State} {x : SeqCtx} {body : SeqCtx → State → Res} {c : Byte} (h : SeqIssues i s x)
    (hb : body x s = recCause x.t s2 c) : issueS i s body = .next (if c = 0x50 then s2.killIntegrity x.t else s2.seqTrap x.t x.j c).tick := by
  by_cases hc : c = 0x50
  · rw [if_pos hc]
    exact issue_seq_gone h (.inl (hb.trans (if_pos (by simp [hc]))))
  · rw [if_neg hc]
    exact issue_seq_trap h (hb.trans (if_neg (by simpa using hc)))

theorem full_iff (u : MatUnit) : u.full = true ↔ u.waiting ≠ none := by
  rw [MatUnit.full, Option.isSome_iff_ne_none]

theorem not_full {u : MatUnit} (h : u.waiting = none) : u.full = false := by
  rw [MatUnit.full, h]; rfl

/-! ### What the bodies of the matrix instructions answer -/

section
variable {k : MatOp} {w : QWord} {x : SeqCtx} {s s2 s3 : State} {a b d : SideVal} {c : Byte}

theorem mulBody_waits (h : x.sh.mul.waiting ≠ none) : mulBody k w x s = .stall s := if_pos ((full_iff _).mpr h)

theorem aclrBody_waits (h : x.sh.mul.waiting ≠ none) : aclrBody w x s = .stall s := if_pos ((full_iff _).mpr h)

theorem adrnBody_waits (h : x.sh.drain.waiting ≠ none) : adrnBody w x s = .stall s := if_pos ((full_iff _).mpr h)

theorem mulBody_cause (free : x.sh.mul.waiting = none) (h : x.openSide s w.x = .cause s2 c) : mulBody k w x s = recCause x.t s2 c := by
  simp [mulBody, not_full free, h]

/-- With both sides open, the checks decide (R189). -/
theorem mulBody_traps (free : x.sh.mul.waiting = none) (ha : x.openSide s w.x = .ok s2 a) (hb : x.openSide s2 w.y = .ok s3 b)
    (bad : mulCause x k w (tileOf w x.env) a b = some c) : mulBody k w x s = .trap s3 { cause := c } := by
  simp [mulBody, not_full free, ha, hb, bad]

theorem mulBody_passes (free : x.sh.mul.waiting = none) (ha : x.openSide s w.x = .ok s2 a) (hb : x.openSide s2 w.y = .ok s3 b)
    (good : mulCause x k w (tileOf w x.env) a b = none) :
    mulBody k w x s = x.pass s3 false { x.cmd (tileOf w x.env) 1 with a := some a, b := some b } := by
  simp [mulBody, not_full free, ha, hb, good]

theorem aclrBody_free (free : x.sh.mul.waiting = none) : aclrBody w x s =
    if x.sh.tiles.length < tileOf w x.env + (w.cnt.toNat + 1) then .trap s { cause := 0x41 }
    else x.pass s false (x.cmd (tileOf w x.env) (w.cnt.toNat + 1)) := by
  simp [aclrBody, not_full free]

theorem adrnBody_early (free : x.sh.drain.waiting = none) (early : x.drainEarly w = true) : adrnBody w x s = .trap s { cause := 0x41 } := by
  simp [adrnBody, not_full free, early]

theorem adrnBody_cause (free : x.sh.drain.waiting = none) (early : x.drainEarly w = false) (h : x.openSide s w.x = .cause s2 c) :
    adrnBody w x s = recCause x.t s2 c := by
  simp [adrnBody, not_full free, early, h]

/-- With its one destination open and no scales, the checks of the drain decide (R199, R453). -/
theorem adrnBody_traps (free : x.sh.drain.waiting = none) (early : x.drainEarly w = false) (one : w.tr = false) (plain : w.z = Side.none)
    (h : x.openSide s w.x = .ok s2 d) (bad : s2.drainCause x (tileOf w x.env) [(d, w.ta.toNat)] = some c) : adrnBody w x s = .trap s2 { cause := c } := by
  simp [adrnBody, not_full free, early, one, plain, h, bad]

theorem adrnBody_passes (free : x.sh.drain.waiting = none) (early : x.drainEarly w = false) (one : w.tr = false) (plain : w.z = Side.none)
    (h : x.openSide s w.x = .ok s2 d) (good : s2.drainCause x (tileOf w x.env) [(d, w.ta.toNat)] = none) :
    adrnBody w x s = x.pass s2 true { x.cmd (tileOf w x.env) 1 with a := some d } := by
  simp [adrnBody, not_full free, early, one, plain, h, good, SeqCtx.cmd]

end

/-- MMA, MMAB and MMAT issue one body. -/
theorem exec_mul {i : Instr} {w : QWord} {k : MatOp} (hi : i = .mma w ∧ k = .mma ∨ i = .mmab w ∧ k = .mmab ∨ i = .mmat w ∧ k = .mmat) (s : State) :
    exec i s = issueS i s (mulBody k w) := by
  obtain ⟨rfl, rfl⟩ | ⟨rfl, rfl⟩ | ⟨rfl, rfl⟩ := hi <;> rfl

/-- An instruction of the multiplier unit is held while one waits there (R184). -/
theorem multiplier_waits {i : Instr} {w : QWord} (hi : i = .mma w ∨ i = .mmab w ∨ i = .mmat w ∨ i = .aclr w) {s : State} {x : SeqCtx}
    (h : SeqIssues i s x) (waits : x.sh.mul.waiting ≠ none) : exec i s = .next s.tick := by
  obtain rfl | rfl | rfl | rfl := hi
  · exact issue_seq_gone h (.inr (mulBody_waits waits))
  · exact issue_seq_gone h (.inr (mulBody_waits waits))
  · exact issue_seq_gone h (.inr (mulBody_waits waits))
  · exact issue_seq_gone h (.inr (aclrBody_waits waits))

/-! ### The control of the stream (R186, R423, R519) -/

section
variable {x : SeqCtx} {s : State} {a : DWord} {wr : List (Nat × RegWrite)}

theorem jumpTo_outside (h : ¬ (x.T.launch.graft = true → x.T.inBed x.sh.pinned a = true)) : x.jumpTo s a wr = .trap s { cause := 0x38 } :=
  if_pos (by simpa using h)

/-- A jump within the bed depends on its target. -/
theorem jumpTo_inside (h : x.T.launch.graft = true → x.T.inBed x.sh.pinned a = true) :
    x.jumpTo s a wr = s.withTarget x.sh.core x.T.asn a (.done s { writes := wr, jump := some a }) :=
  if_neg (by simpa using h)

variable {c asn : Nat} {go : Res}

theorem withTarget_bad (h : s.targetBad c asn a = true) : s.withTarget c asn a go = .trap s { cause := 0x03 } := if_pos h

theorem targetFar_not_ok (h : s.targetFar c asn a = true) : s.targetOk c asn a = false := by
  have far := h
  simp only [State.targetFar, Bool.and_eq_true, Option.isNone_iff_eq_none, beq_iff_eq] at h
  obtain ⟨⟨-, absent⟩, away⟩ := h
  simp [State.targetOk, State.codeLine, absent, away, far]

theorem withTarget_far (h : s.targetFar c asn a = true) : s.withTarget c asn a go = .stall (s.engineFault c asn false (lineAddr a)) :=
  (if_neg (by simp [State.targetBad, h])).trans (if_pos h)

theorem withTarget_ok (h : s.targetOk c asn a = true) : s.withTarget c asn a go = go := by
  have near : s.targetFar c asn a = false := Bool.eq_false_iff.mpr fun far => by simp [targetFar_not_ok far] at h
  simp [State.withTarget, State.targetBad, h, near]

end

/-- The registers of a stream after MLOOP or MJMP. -/
def jumpWrites (i : Instr) (w : RIWord) (q : List (Nat × Word)) : List (Nat × RegWrite) :=
  if i = .mloop w then [(0, .s (dstNum w.d) (spGet 0 q (dstNum w.d) - 1))] else []

/-- MLOOP and MJMP: one jump, which MLOOP leaves out where its count has come to zero. -/
theorem exec_jump {i : Instr} {w : RIWord} (hi : i = .mloop w ∨ i = .mjmp w) {s : State} {x : SeqCtx} (h : SeqIssues i s x) :
    ∃ body : SeqCtx → State → Res, exec i s = issueS i s body ∧
      (¬ (i = .mjmp w ∨ spGet 0 x.sh.seq.q (dstNum w.d) - 1 ≠ 0) → body x s = .done s { writes := jumpWrites i w x.sh.seq.q }) ∧
      (i = .mjmp w ∨ spGet 0 x.sh.seq.q (dstNum w.d) - 1 ≠ 0 → body x s = x.jumpTo s (x.pc + w.imm.signExtend 64) (jumpWrites i w x.sh.seq.q)) := by
  obtain rfl | rfl := hi
  · refine ⟨_, rfl, fun stays => ?_, fun jumps => ?_⟩
    · have zero : spGet 0 x.sh.seq.q (dstNum w.d) - 1 = 0 := Classical.byContradiction fun ne => stays (.inr ne)
      simp only [seqIssues_env h, seqEnv, jumpWrites, if_true]
      exact if_pos (by simpa using zero)
    · have ne : spGet 0 x.sh.seq.q (dstNum w.d) - 1 ≠ 0 := jumps.resolve_left (by simp)
      simp only [seqIssues_env h, seqEnv, jumpWrites, labelTarget, if_true]
      exact if_neg (by simpa using ne)
  · exact ⟨_, rfl, fun stays => absurd (.inl rfl) stays, fun _ => by simp [jumpWrites, labelTarget]⟩

/-- What MLOOP and MJMP make of the sequencer, with the jump `j` if any. -/
theorem seqAfter_jump (i : Instr) (w : RIWord) (pc : DWord) (j : Option DWord) (q : Seq) :
    seqAfter pc { writes := jumpWrites i w q.q, jump := j } q =
      { q with pc := j.getD (nextSlot pc), q := if i = .mloop w then spPut 0 q.q (dstNum w.d) (spGet 0 q.q (dstNum w.d) - 1) else q.q } := by
  unfold jumpWrites
  split <;> rfl

/-- Every row of values issues as its fields say (R441). -/
theorem exec_valueRow {i : Instr} {r : ValueRow} (row : valueRow i = some r) (s : State) : exec i s = issueValue r.g r.w i r.wide r.lat r.val s := by
  unfold valueRow at row
  split at row <;> cases row <;> rfl

/-- A value of a sequencer goes to its Q register. -/
theorem seqAfter_value {d : Dst} {n : BitVec 10} (hd : d = .s n) (pc : DWord) (val : Nat → DWord) (q : Seq) :
    seqAfter pc { writes := destWrites d false 0 1 (laneList.map val) } q = { q with pc := nextSlot pc, q := spPut 0 q.q n.toNat ((val 0).setWidth 32) } := by
  subst hd; rfl

/-- Settles O52: what each body answers, and what a performed instruction then makes of the share. -/
theorem matrixIssue : Obligations.MatrixIssue := by
  unfold Obligations.MatrixIssue
  refine ⟨fun i w hi s x h => multiplier_waits hi h, fun w s x h waits => issue_seq_gone h (.inr (adrnBody_waits waits)),
    fun i w k hi s x h free => ⟨fun s2 c hx => ?_, fun s2 s3 a b ha hb => ⟨fun c hc => ?_, fun good => ?_⟩⟩,
    fun w s x h free => ?_, fun w s x h free early => issue_seq_trap h (adrnBody_early free early),
    fun w s x h free early one plain => ⟨fun s2 c hx => issueS_recCause h (adrnBody_cause free early hx), fun s2 d hd => ⟨fun c hc => ?_, fun good => ?_⟩⟩,
    fun i w hi s x h => ?_, fun w s x h => ⟨fun busy => ?_, fun idle => ?_⟩, fun i r d row hd s x h => ?_⟩
  · exact (exec_mul hi s).trans (issueS_recCause h (mulBody_cause free hx))
  · exact (exec_mul hi s).trans (issue_seq_trap h (mulBody_traps free ha hb hc))
  · obtain ⟨ta, ma⟩ := openSide_ok ha
    obtain ⟨tb, mb⟩ := openSide_ok hb
    obtain ⟨t, n, step, share, mem⟩ := issueS_pass h (mulBody_passes free ha hb good) (tb.trans ta) (mb.trans ma)
    refine ⟨t, _, n, (exec_mul hi s).trans step, share, mem, rfl, rfl, ?_⟩
    simp [passed, SeqCtx.cmd, seqIssues_instr h]
  · have tile : tileOf w x.env = if w.tq then (spGet 0 x.sh.seq.q w.tile.toNat).toNat else w.tile.toNat := by rw [tileOf, seqIssues_env h]; rfl
    rw [← tile]
    refine ⟨fun out => issue_seq_trap h ((aclrBody_free free).trans (if_pos out)), fun fits => ?_⟩
    obtain ⟨t, n, step, share, mem⟩ := issueS_pass h ((aclrBody_free free).trans (if_neg (Nat.not_lt.mpr fits))) rfl rfl
    refine ⟨t, _, n, step, share, mem, rfl, rfl, ?_⟩
    simp [passed, SeqCtx.cmd, seqIssues_instr h]
  · exact issue_seq_trap h (adrnBody_traps free early one plain hd hc)
  · obtain ⟨td, md⟩ := openSide_ok hd
    obtain ⟨t, n, step, share, mem⟩ := issueS_pass h (adrnBody_passes free early one plain hd good) td md
    refine ⟨t, _, n, step, share, mem, rfl, rfl, ?_⟩
    simp [passed, SeqCtx.cmd, seqIssues_instr h]
  · obtain ⟨body, issued, stays, jumps⟩ := exec_jump hi h
    rw [issued]
    refine ⟨fun not => ?_, fun go out => ?_, fun go inside bad => ?_, fun go inside far => ?_, fun go inside ok => ?_⟩
    · obtain ⟨t, step, share, mem⟩ := issue_seq_share (group := noBody) (thread := noBody) h (stays not) (seqIssues_share h) rfl
      exact ⟨t, _, step, share, seqAfter_jump i w x.pc none x.sh.seq, mem⟩
    · exact issue_seq_trap h ((jumps go).trans (jumpTo_outside out))
    · exact issue_seq_trap h ((jumps go).trans ((jumpTo_inside inside).trans (withTarget_bad bad)))
    · exact issue_seq_gone h (.inr ((jumps go).trans ((jumpTo_inside inside).trans (withTarget_far far))))
    · obtain ⟨t, step, share, mem⟩ := issue_seq_share (group := noBody) (thread := noBody) h
        ((jumps go).trans ((jumpTo_inside inside).trans (withTarget_ok ok))) (seqIssues_share h) rfl
      exact ⟨t, _, step, share, seqAfter_jump i w x.pc (some _) x.sh.seq, mem⟩
  · exact issue_seq_gone h (.inr (if_pos (by simp [busy])))
  · refine ⟨_, _, issue_seq_gone h (.inl (if_neg (by simp [idle]))), share?_modShare_same (s := s) _ (seqIssues_share h), rfl⟩
  · obtain ⟨t, step, share, mem⟩ := issue_seq_share (seq := fun x s => .done s { writes := destWrites r.w.d false 0 1 (laneList.map (r.val x.env)) }) h rfl (seqIssues_share h) rfl
    exact ⟨t, _, (exec_valueRow row s).trans step, share, mem, seqAfter_value hd x.pc (r.val x.env) x.sh.seq⟩

/-! ### What the reset of a hung engine does to memory (R202) -/

theorem deliver_mem (s : State) (t g : Nat) (a : Async) : (s.deliver t g a).mem = s.mem := by
  unfold State.deliver
  repeat' split
  · rfl
  · rfl
  · exact State.modTeam_mem ..
  · rfl

theorem freeRanges_mem (s : State) (t j : Nat) : (s.freeRanges t j).mem = s.mem := by
  unfold State.freeRanges
  split
  · rfl
  · exact State.modShare_mem ..

/-- A step made for each item of a list keeps the memory if it does so for each. -/
theorem foldl_mem {α : Type} {f : State → α → State} (hf : ∀ s a, (f s a).mem = s.mem) (l : List α) (s : State) : (l.foldl f s).mem = s.mem := by
  induction l generalizing s with
  | nil => rfl
  | cons a r ih => exact (ih _).trans (hf s a)

/-- The last change that the reset makes to memory is that of the copy in flight, whose writes to ranges land again. -/
theorem engineReset_mem (s : State) (T : Team) (j : Nat) (sh : Share) :
    ∃ m : Mem, (s.engineReset T j sh).mem = (State.landAgain { s with mem := m } sh.core).mem := by
  have delivered : ∀ (s : State) (G : Group), (if G.place == .retired then s
      else s.deliver T.id G.gid { cause := 0x40, src := .teamWide, rank := 0, eaddr := some 0 }).mem = s.mem := fun s G => by
    split
    · rfl
    · exact deliver_mem ..
  simp only [State.engineReset, freeRanges_mem, foldl_mem delivered, State.modShare_mem]
  exact ⟨_, rfl⟩

/-- The lowest byte of a number in memory (R3). -/
theorem num_mod_256 (m : Mem) (a : PAddr) (n : Nat) : m.num a (n + 1) % 256 = (m.byte a).toNat := by
  have bytes : m.num a (n + 1) = (m.byte a).toNat + 256 * bytesNat ((upFrom 1 n).map fun i => m.byte (a.add i)) := rfl
  have small := (m.byte a).isLt
  omega

theorem tileWord_mod_256 (s : State) (sh : Share) (n i j : Nat) : (s.tileWord sh n i j).toNat % 256 = (s.mem.byte (sh.tileAt n i j)).toNat := by
  rw [State.tileWord, BitVec.toNat_ofNat, Nat.mod_mod_of_dvd _ (by decide), num_mod_256]

/-! ### A copy in flight that has written beyond its operand buffer -/

/-- What the copy has written: a byte of the operand buffer of core 0 at an offset past every byte that the buffer has. Its place is that of the first byte of tile 0 of that core. -/
def strayWrite : ElemWrite := { pa := { store := .obuf, unit := 0, off := 2 ^ 42 }, bit := 0, bits := 8, val := 1 }

def strayCopy : InFlight :=
  { cmd := { op := .nop false, t := 0, g := 0, j := 0, asn := 0, dst := { sel := 2, num := 0, lay := 0, recAddr := 0, image := none, range := none },
             src := none, index := none, dim := 0, fill := 1, ver := none, stage := none, tdec := none, sts := none, binding := false, order := 0, owned := [], absent := [] },
    first := [strayWrite], last := [], permits := [], delivered := 1, clipped := 0, degree := 1, cost := 0, captures := [] }

/-- A share whose multiplier has held an ACLR of its one tile since time 0. -/
def hungShare : Share :=
  { startShare (wordLaunch 0xC8) [] 0 (0, { quads := [0], scratch := 0, obuf := 0, tiles := [0] }) with
    mul := { started := some { cmd := { instr := .aclr noQ, pc := wordPc, tile := 0, count := 1, a := none, b := none, z := none, order := 0 },
                               held := false, adds := [], outs := [], captures := [], trnx := false, degree := 0 }, waiting := none } }

def hungTeam : Team := { wordTeam 0 0xC8 with shares := [hungShare] }

/-- The package with that team and that copy, when the watchdog expires. -/
def hungState : State :=
  { State.reset with
    pkg := { State.reset.pkg with power := .on, time := BitVec.ofNat 64 watchdogLimit }
    cores := [(0, { Core.empty with cur := some strayCopy })]
    teams := [hungTeam] }

theorem hungShare_hung : hungShare.hung hungState.pkg.time.toNat = true := by
  simp [Share.hung, hungShare, startShare, hungState, watchdogLimit]

theorem share?_hungTeam {j : Nat} {sh : Share} (h : hungTeam.share? j = some sh) : j = 0 := by
  have inside := (List.getElem?_eq_some_iff.mp h).1
  exact Nat.lt_one_iff.mp inside

theorem exec_reset_hung : exec (.matrixEngineReset 0) hungState = .next (hungState.engineReset hungTeam 0 hungShare).tick := by
  have core : hungShare.core = 0 := rfl
  have found : hungTeam.share? 0 = some hungShare := rfl
  have one : hungTeam.shares.length = 1 := rfl
  have only : hungState.teams = [hungTeam] := rfl
  show execMatrixEngineReset 0 hungState = _
  exact event_some (by simp [only, one, upFrom, found, core, hungShare_hung])

/-- Whatever memory the copy lands in, the first byte of the tile is then what it writes. -/
theorem landAgain_stray (m : Mem) : (State.landAgain { hungState with mem := m } 0).mem.byte (hungShare.tileAt 0 0 0) = 1 := by
  have landed : (State.landAgain { hungState with mem := m } 0).mem = m.store [(strayWrite.pa, 1)] := rfl
  rw [landed]
  exact Mem.byte_setBytes_last [] [] m _ strayWrite.pa 1 (by decide) (by simp)

/-- Refutes O53, by its last clause: nothing in it bounds where the copy in flight on the core has written. The reset zeroes the tiles and then lets that
copy's writes to ranges land again (R202); one at offset 2^42 of the operand buffer, which no buffer of 768 KiB has, lands on the first byte of the tile. -/
theorem not_matrixProgress : ¬ Obligations.MatrixProgress := by
  unfold Obligations.MatrixProgress
  rintro ⟨-, -, -, resets⟩
  obtain ⟨u, -, happens, -, -, -, zero⟩ := resets hungState 0 hungTeam 0 hungShare rfl rfl rfl hungShare_hung
    (fun T' hT j' sh' hsh _ _ => by
      obtain rfl := List.mem_singleton.mp hT
      exact ⟨rfl, share?_hungTeam hsh⟩)
  obtain rfl : (hungState.engineReset hungTeam 0 hungShare).tick = u := by
    injection exec_reset_hung.symm.trans happens
  obtain ⟨m, mem⟩ := engineReset_mem hungState hungTeam 0 hungShare
  have low := tileWord_mod_256 (hungState.engineReset hungTeam 0 hungShare).tick hungShare 0 0 0
  have byte : (hungState.engineReset hungTeam 0 hungShare).tick.mem.byte (hungShare.tileAt 0 0 0) = 1 :=
    (congrArg (fun m : Mem => m.byte _) mem).trans (landAgain_stray m)
  rw [zero 0 (by decide) 0 (by decide) 0 (by decide), byte] at low
  exact absurd low (by decide)

end Sys2Proof.MatrixEngine
end

section
/-! PROOFS. Memory spaces: where the bytes of a lane's own space lie (O24), the checks of a lane access (O25). -/

namespace Sys2Proof.MemorySpaces

open Sys2Proof Sys2Proof.Machine Sys2Proof.Divergence

/-! ### The space of each lane (R208) -/

/-- Frames hold 64 KiB: a place and one past it that is in the same frame lie as far apart there. -/
theorem framesAt_add (die : Nat) (frames : List Nat) {n k : Nat} (inside : n % 65536 + k < 65536) :
    (framesAt die frames (n + k)).off = (framesAt die frames n).off + k := by
  have frame : (n + k) / 65536 = n / 65536 := by omega
  have within : (n + k) % 65536 = n % 65536 + k := by omega
  rw [framesAt, framesAt, frame, within, Nat.add_assoc]

/-- An aligned 8-byte access begins at an even word, whose line of 16 words is the first half of an aligned 128 bytes. -/
theorem privPlace_next_word (T : Team) {G : Group} {l a : Nat} (lane : l < 16) (base : G.privBase % 128 = 0) (aligned : a % 8 = 0) :
    (privPlace T G l (a + 4)).off = (privPlace T G l a).off + 64 := by
  have next : G.privBase + ((a + 4) / 4 * 16 + l) * 4 + (a + 4) % 4 = G.privBase + (a / 4 * 16 + l) * 4 + a % 4 + 64 := by omega
  have firstHalf : (G.privBase + (a / 4 * 16 + l) * 4 + a % 4) % 128 < 64 := by omega
  rw [privPlace, privPlace, next]
  exact framesAt_add _ _ (by omega)

/-- Settles O24: the place is the definition's own, and the second word of an aligned 8-byte access is 16 words on in the same frame. -/
theorem privateInterleaving : Obligations.PrivateInterleaving := by
  rintro T G l a b w n rfl rfl rfl
  exact ⟨rfl, privPlace_next_word T⟩

/-! ### What a cause of several lanes reports (R205) -/

theorem inMask_elemLanes (es : List Elem) {l : Nat} (h : l < 16) : inMask (elemLanes es) l = true ↔ ∃ e ∈ es, e.lane = l := by
  simp [elemLanes, h]

theorem lowElem_lowest {es : List Elem} (h : es ≠ []) : ∃ e ∈ es, lowElem es = some e ∧ ∀ f ∈ es, e.lane ≤ f.lane := by
  induction es with
  | nil => exact absurd rfl h
  | cons a r ih =>
    by_cases last : r = []
    · subst last
      exact ⟨a, List.mem_singleton_self a, rfl, List.forall_mem_singleton.mpr (Nat.le_refl a.lane)⟩
    · obtain ⟨e, he, low, least⟩ := ih last
      rw [lowElem, low]
      by_cases lower : e.lane < a.lane
      · exact ⟨e, List.mem_cons_of_mem a he, if_pos lower, List.forall_mem_cons.mpr ⟨Nat.le_of_lt lower, least⟩⟩
      · have below : a.lane ≤ e.lane := Nat.le_of_not_lt lower
        exact ⟨a, List.mem_cons_self, if_neg lower, List.forall_mem_cons.mpr ⟨Nat.le_refl _, fun f hf => Nat.le_trans below (least f hf)⟩⟩

theorem elemTrap_reports (c : Byte) {es : List Elem} (h : es ≠ []) :
    ∃ e ∈ es, (∀ f ∈ es, e.lane ≤ f.lane) ∧ (elemTrap c es).cause = c ∧ (elemTrap c es).eaddr = some e.addr ∧
      ∃ m, (elemTrap c es).names = some m ∧ ∀ l < 16, inMask m l = true ↔ ∃ f ∈ es, f.lane = l := by
  obtain ⟨e, he, low, least⟩ := lowElem_lowest h
  exact ⟨e, he, least, rfl, congrArg (Option.map Elem.addr) low, elemLanes es, rfl, fun _ => inMask_elemLanes es⟩

/-! ### The first check that some lane fails (R205) -/

/-- Does an element of the list have what `f` tests? -/
def Bad (es : List Elem) (f : Elem → Bool) : Prop := ∃ e ∈ es, f e = true

/-- Checks that every lane passes are passed over; the next one, if some lane fails it, gives its cause in the lanes that fail it. -/
theorem firstFail_of_passed {es : List Elem} {pre post : List (Byte × (Elem → Bool))} {c : Byte} {f : Elem → Bool}
    (passed : ∀ y ∈ pre, ¬ Bad es y.2) (fails : Bad es f) : firstFail es (pre ++ (c, f) :: post) = some (elemTrap c (es.filter f)) := by
  induction pre with
  | nil => exact if_pos (List.any_eq_true.mpr fails)
  | cons y pre ih =>
    obtain ⟨first, rest⟩ := List.forall_mem_cons.mp passed
    exact (if_neg (mt List.any_eq_true.mp first)).trans (ih rest)

/-! ### The accesses of one address a lane -/

/-- None of their elements is one that a load fills. -/
theorem accessRule_real {i : Instr} {w : MWord} {acc : Ctx → State → Access} (rule : AccessRule i w acc) (x : Ctx) (s : State) :
    (acc x s).real = (acc x s).elems := by
  have plain : ∀ e ∈ (acc x s).elems, e.fill = false := by
    cases rule <;> exact List.forall_mem_map.mpr fun _ _ => rfl
  exact List.filter_eq_self.mpr fun e he => by rw [plain e he]; rfl

theorem access_trap {s : State} {w : Who} {a : Access} {y : Trap} (h : firstFail a.real (spaceChecks w a.space) = some y) (first : Bool)
    (extra : Option Trap) (more : State → List Spot → Bool) (perf : State → Who → List Spot → AccOut) : s.access w a first extra more perf = .trap s y := by
  rw [Access.real] at h
  simp only [State.access, h]

section
variable {i : Instr} {w : MWord} {acc : Ctx → State → Access} {s s1 : State} {x : Ctx}

/-- An access that fails a check takes its cause, whatever the instruction then does with the spots of an access. -/
theorem accessRule_traps {y : Trap} (rule : AccessRule i w acc) (h : GroupIssues i s x s1)
    (fails : firstFail (acc x s1.bumpStamp).real (spaceChecks x.who (acc x s1.bumpStamp).space) = some y) : GroupTraps i s x s1.bumpStamp y := by
  have stops : ∀ d first extra more perf, accessEff x (acc x s1.bumpStamp) d (s1.bumpStamp.access x.who (acc x s1.bumpStamp) first extra more perf) =
      .trap s1.bumpStamp y := fun d first extra more perf => by rw [access_trap fails]; rfl
  cases rule with
  | load i w step load => cases load <;> exact issue_group_trap h (stops ..)
  | st w => exact issue_group_trap h (stops ..)
  | atomic i w atom => cases atom <;> exact issue_group_trap h (stops ..)

/-- The check `f` of an access's space, where every lane passes the checks before it and some lane fails it. -/
theorem accessRule_check (rule : AccessRule i w acc) (h : GroupIssues i s x s1) (pre : List (Byte × (Elem → Bool))) {post : List (Byte × (Elem → Bool))}
    {c : Byte} {f : Elem → Bool} (order : spaceChecks x.who (acc x s1.bumpStamp).space = pre ++ (c, f) :: post)
    (passed : ∀ y ∈ pre, ¬ Bad (acc x s1.bumpStamp).elems y.2) (fails : Bad (acc x s1.bumpStamp).elems f) :
    GroupTraps i s x s1.bumpStamp (elemTrap c ((acc x s1.bumpStamp).elems.filter f)) := by
  refine accessRule_traps rule h ?_
  rw [accessRule_real rule, order]
  exact firstFail_of_passed passed fails

end

/-- The check that comes first in every space. -/
def alignment : Byte × (Elem → Bool) := (0x16, Elem.misaligned)

/-- Bits 31:28 of a peer address (R215). -/
def peerForm : Byte × (Elem → Bool) := (0x10, fun e => fldN e.addr 28 4 != 0)

/-- That a peer address names a share of the team which has not retired (R215). -/
def peerPresence (T : Team) : Byte × (Elem → Bool) := (0x15, fun e => (T.peerShare e.addr).isNone)

/-- The order of the checks of peer space. -/
theorem spaceChecks_peer (w : Who) : spaceChecks w .peer = [alignment, peerForm, peerPresence w.T, (0x14, fun e => !w.T.peerIn e)] := rfl

/-- Settles O25: each cause stands in its place in the list of the checks of the access's space, behind those that the clause says every lane passes. -/
theorem accessChecks : Obligations.AccessChecks := by
  refine ⟨fun i w acc rule s s1 x h => ?_, fun c es => elemTrap_reports c⟩
  have check := @accessRule_check i w acc s s1 x rule h
  refine ⟨check [] rfl (List.forall_mem_nil _), fun aligned => ⟨fun priv => ?_, fun team => ?_, fun glb => ?_, fun peer => ?_, fun peer formed => ?_, fun peer formed present => ?_⟩⟩
  · exact check [alignment] (by rw [priv]; rfl) (List.forall_mem_singleton.mpr aligned)
  · exact check [alignment] (by rw [team]; rfl) (List.forall_mem_singleton.mpr aligned)
  · exact check [alignment] (by rw [glb]; rfl) (List.forall_mem_singleton.mpr aligned)
  · exact check [alignment] (by rw [peer, spaceChecks_peer]; rfl) (List.forall_mem_singleton.mpr aligned)
  · exact check [alignment, peerForm] (by rw [peer, spaceChecks_peer]; rfl) (List.forall_mem_cons.mpr ⟨aligned, List.forall_mem_singleton.mpr formed⟩)
  · exact check [alignment, peerForm, peerPresence x.T] (by rw [peer, spaceChecks_peer]; rfl)
      (List.forall_mem_cons.mpr ⟨aligned, List.forall_mem_cons.mpr ⟨formed, List.forall_mem_singleton.mpr present⟩⟩)

end Sys2Proof.MemorySpaces
end
